-- ==== Sys2Proof/Word.lean ====
section
/-! DEFINITION. The widths of the RZL-616's fields and the small fixed-size tables (one value per port, per input line,
per notice kind) that the state is built from. -/

namespace Sys2Proof

/-- A byte of a cell, a message or a SPI transaction. -/
abbrev Byte := BitVec 8
/-- An epoch number: 48 bits, wrapping (R56). Activation orders are 48-bit counts too (R113). -/
abbrev Epoch := BitVec 48
/-- A delay-exchange stamp: 24 bits, wrapping (R56). -/
abbrev Stamp := BitVec 24
/-- A cell's sequence, and the low 16 bits of an epoch number that a cell carries (R19). -/
abbrev Seq := BitVec 16
/-- A stream id: origin frame id in bits 15..11, serial in bits 10..0 (R19). -/
abbrev StreamId := BitVec 16
/-- A path generation, 0..15 (R114). -/
abbrev Gen := BitVec 4
/-- A frame id, 0..31; 0 means unassigned. -/
abbrev FrameId := Fin 32
/-- A cable port, P0..P5. -/
abbrev PortId := Fin 6
/-- A backplane lane, L0..L15. -/
abbrev LaneId := Fin 16
/-- A trigger input line, TI0..TI3. -/
abbrev InputId := Fin 4

/-- The six cable ports, in ascending order. -/
def allPorts : List PortId := [0, 1, 2, 3, 4, 5]

/-- One value for each cable port. -/
structure PerPort (α : Type) where
  p0 : α
  p1 : α
  p2 : α
  p3 : α
  p4 : α
  p5 : α
  deriving DecidableEq, Repr

/-- The same value for all six ports. -/
def PerPort.all {α : Type} (a : α) : PerPort α := ⟨a, a, a, a, a, a⟩

/-- The value of one port. -/
def PerPort.get {α : Type} (t : PerPort α) (p : PortId) : α :=
  match p.val with
  | 0 => t.p0
  | 1 => t.p1
  | 2 => t.p2
  | 3 => t.p3
  | 4 => t.p4
  | _ => t.p5

/-- The table with one port's value replaced. -/
def PerPort.set {α : Type} (t : PerPort α) (p : PortId) (a : α) : PerPort α :=
  match p.val with
  | 0 => { t with p0 := a }
  | 1 => { t with p1 := a }
  | 2 => { t with p2 := a }
  | 3 => { t with p3 := a }
  | 4 => { t with p4 := a }
  | _ => { t with p5 := a }

/-- Every port's value replaced by a function of it. -/
def PerPort.map {α β : Type} (f : α → β) (t : PerPort α) : PerPort β :=
  ⟨f t.p0, f t.p1, f t.p2, f t.p3, f t.p4, f t.p5⟩

/-- One value for each trigger input line. -/
structure PerInput (α : Type) where
  i0 : α
  i1 : α
  i2 : α
  i3 : α
  deriving DecidableEq, Repr

/-- The same value for all four input lines. -/
def PerInput.all {α : Type} (a : α) : PerInput α := ⟨a, a, a, a⟩

/-- The value of one input line. -/
def PerInput.get {α : Type} (t : PerInput α) (i : InputId) : α :=
  match i.val with
  | 0 => t.i0
  | 1 => t.i1
  | 2 => t.i2
  | _ => t.i3

/-- The table with one input line's value replaced. -/
def PerInput.set {α : Type} (t : PerInput α) (i : InputId) (a : α) : PerInput α :=
  match i.val with
  | 0 => { t with i0 := a }
  | 1 => { t with i1 := a }
  | 2 => { t with i2 := a }
  | _ => { t with i3 := a }

/-- Every input line's value replaced by a function of it. -/
def PerInput.map {α β : Type} (f : α → β) (t : PerInput α) : PerInput β :=
  ⟨f t.i0, f t.i1, f t.i2, f t.i3⟩

/-- One value for each trigger channel, 0..7. -/
structure PerChannel (α : Type) where
  c0 : α
  c1 : α
  c2 : α
  c3 : α
  c4 : α
  c5 : α
  c6 : α
  c7 : α
  deriving DecidableEq, Repr

/-- The same value for all eight channels. -/
def PerChannel.all {α : Type} (a : α) : PerChannel α := ⟨a, a, a, a, a, a, a, a⟩

/-- The value of one channel; numbers above 7 name no channel and read channel 7. -/
def PerChannel.get {α : Type} (t : PerChannel α) (c : Nat) : α :=
  match c with
  | 0 => t.c0
  | 1 => t.c1
  | 2 => t.c2
  | 3 => t.c3
  | 4 => t.c4
  | 5 => t.c5
  | 6 => t.c6
  | _ => t.c7

/-- The table with one channel's value replaced. -/
def PerChannel.set {α : Type} (t : PerChannel α) (c : Nat) (a : α) : PerChannel α :=
  match c with
  | 0 => { t with c0 := a }
  | 1 => { t with c1 := a }
  | 2 => { t with c2 := a }
  | 3 => { t with c3 := a }
  | 4 => { t with c4 := a }
  | 5 => { t with c5 := a }
  | 6 => { t with c6 := a }
  | _ => { t with c7 := a }

/-- The eight values in channel order. -/
def PerChannel.toList {α : Type} (t : PerChannel α) : List α :=
  [t.c0, t.c1, t.c2, t.c3, t.c4, t.c5, t.c6, t.c7]

/-- The seven notice kinds of the Request Port (R172, R175). -/
inductive NoticeKind where
  | port | directory | timing | stream | sink | trigger | capture
  deriving DecidableEq, Repr

/-- The notice kinds in index order, PORT 0 to CAPTURE 6 (R172). -/
def allNotices : List NoticeKind := [.port, .directory, .timing, .stream, .sink, .trigger, .capture]

/-- One value for each notice kind. -/
structure PerNotice (α : Type) where
  port : α
  directory : α
  timing : α
  stream : α
  sink : α
  trigger : α
  capture : α
  deriving DecidableEq, Repr

/-- The same value for all seven kinds. -/
def PerNotice.all {α : Type} (a : α) : PerNotice α := ⟨a, a, a, a, a, a, a⟩

/-- The value of one kind. -/
def PerNotice.get {α : Type} (t : PerNotice α) (k : NoticeKind) : α :=
  match k with
  | .port => t.port
  | .directory => t.directory
  | .timing => t.timing
  | .stream => t.stream
  | .sink => t.sink
  | .trigger => t.trigger
  | .capture => t.capture

/-- The table with one kind's value replaced. -/
def PerNotice.set {α : Type} (t : PerNotice α) (k : NoticeKind) (a : α) : PerNotice α :=
  match k with
  | .port => { t with port := a }
  | .directory => { t with directory := a }
  | .timing => { t with timing := a }
  | .stream => { t with stream := a }
  | .sink => { t with sink := a }
  | .trigger => { t with trigger := a }
  | .capture => { t with capture := a }

/-- A trigger id: origin frame id (5 bits) and serial (8 bits) (R19, R79). -/
structure TriggerId where
  origin : FrameId
  serial : Byte
  deriving DecidableEq, Repr

/-- A rack time: epoch number and tick (R56). -/
structure RackTime where
  epoch : Epoch
  tick : Nat
  deriving DecidableEq, Repr

end Sys2Proof
end

