-- ==== Sys2Proof/Config.lean ====
section
/-! DEFINITION. The fixed figures of the part (00_scope.md section 3, and the rules named), and the one value that the spec
leaves open: what a symbol that decodes to nothing leaves in its place. -/

namespace Sys2Proof.Figures

/-- Ticks of a slot (R1). -/
def slotTicks : Nat := 128
/-- Slots of an epoch, 0..61 (R1). -/
def slots : Nat := 62
/-- Ticks of the 62 slots; the gap begins at this tick (R56, R57). -/
def slotsTicks : Nat := 7936
/-- Ticks of a nominal gap (R57). -/
def nominalGap : Nat := 256
/-- Ticks of a nominal epoch (R56). -/
def epochTicks : Nat := 8192
/-- Bytes of a cell (R8). -/
def cellBytes : Nat := 128
/-- Bytes of a cell's payload (R8). -/
def payloadBytes : Nat := 116
/-- Bytes of a marker after its preamble (R20). -/
def markerBytes : Nat := 21
/-- The greatest accepted cable delay, in ticks (R25). -/
def maxDelay : Nat := 2047
/-- The greatest path length, in cables (R42, R117). -/
def maxHops : Nat := 30
/-- Entries of a protocol queue, and those not reserved for the teardown class (R13). -/
def protocolQueueSize : Nat := 20
/-- The protocol queue entries that messages outside the teardown class may fill (R13). -/
def protocolQueueCommon : Nat := 16
/-- Entries of a flood queue (R15). -/
def floodQueueSize : Nat := 8
/-- Messages of a management cell (R12). -/
def messagesPerCell : Nat := 4
/-- Stream Table records (R96). -/
def streamRecords : Nat := 128
/-- Sink Table entries (R146). -/
def sinkEntries : Nat := 64
/-- Sinks of a record (R146). -/
def sinksPerRecord : Nat := 4
/-- Sinks of a lane (R146). -/
def sinksPerLane : Nat := 8
/-- Origin records of a lane (R138). -/
def originsPerLane : Nat := 8
/-- Cells of the sink pool (R147). -/
def poolCells : Nat := 4096
/-- Trigger Table entries (R79). -/
def triggerEntries : Nat := 32
/-- Notes of the dropped list (R80). -/
def droppedNotes : Nat := 8
/-- Ticks of an output pulse (R85). -/
def pulseTicks : Nat := 64
/-- The greatest value of a saturating 16-bit count. -/
def saturation : Nat := 65535
/-- The announce period, in epochs (R41), and the election hold (R52). -/
def announcePeriod : Nat := 256
/-- The election hold, in epochs (R52). -/
def electionHold : Nat := 256
/-- The age at which a directory entry becomes LOST (R46). -/
def expiryAge : Nat := 1024
/-- Epochs that triggers stay after their fire epoch (R80, R87). -/
def retention : Nat := 64
/-- The setup timer (R116). -/
def setupEpochs : Nat := 512
/-- An origin's retune timer (R127). -/
def originRetuneEpochs : Nat := 512
/-- A hop's retune timer (R128). -/
def hopRetuneEpochs : Nat := 1024
/-- The reroute retry timer (R126). -/
def rerouteEpochs : Nat := 64
/-- The highest rate of a stream, in samples per second (R100). -/
def maxRate : Nat := 1000000000
/-- The greatest C (R100). -/
def maxCells : Nat := 60

/-- FREE VALUE: the byte that the receiver puts where a symbol inside a marker does not decode to a valid one (R7 says that
such an error is also found by the marker's checks, and gives the byte no value). It may differ for every port and moment of
arrival. -/
opaque wrongByte : PortId → Epoch → Stamp → Byte

/-- FREE VALUE: what FID0..FID4 show when RESET_DEVICE samples them (R177). The board may change them between samplings, and no
command carries them there, so that each sampling, counted from the first, has a value of its own. -/
opaque strapLevels : Nat → BitVec 5

end Sys2Proof.Figures
end

