-- ==== Sys2Proof/Syntax.lean ====
section
/-! DEFINITION. The commands of the part: one constructor of Instr for each row of spec/opcode_table.json, with the
operands its rule names; and the management messages and cable symbols that commands carry.

Operands are held as they come: a request's bytes at their wire width (the meaning refuses values out of range with
BAD_ARGUMENT), a message's fields as the envelope check of R11 passes them on. -/

namespace Sys2Proof

/-- The reason codes of the message formats, 1..17 (R19). -/
inductive ReasonCode where
  | notTimed | departing | loop | noRecord | noRoute | uTurn | latency | noSlots | congested | timeout | pathLost
  | timeLost | capacity | retuneTimeout | tooFast | busy | noPool
  deriving DecidableEq, Repr

/-- The timing states, coded 0..3 in this order (R19). -/
inductive TimingState where
  | free | acquiring | locked | holdover
  deriving DecidableEq, Repr

/-- The direction byte of a BREAK: 0 toward the origin, 1 toward the terminus (R19). -/
inductive Direction where
  | towardOrigin | towardTerminus
  deriving DecidableEq, Repr

/-- The fields of a SETUP (R19). -/
structure SetupMsg where
  id : StreamId
  gen : Gen
  terminal : FrameId
  hop : Nat
  rate : BitVec 32
  sampleBytes : Byte
  cells : Byte
  budget : Byte
  deriving DecidableEq, Repr

/-- The fields of an ANNOUNCE (R19, R40). -/
structure AnnounceMsg where
  frame : FrameId
  serial : Byte
  hops : Nat
  restart : Bool
  departing : Bool
  reference : Bool
  priority : Nat
  timing : TimingState
  deriving DecidableEq, Repr

/-- The fields of a TRIGGER (R19, R81). -/
structure TriggerMsg where
  id : TriggerId
  fire : RackTime
  channel : Nat
  deriving DecidableEq, Repr

/-- The thirteen management messages (R19). -/
inductive Msg where
  | setup (m : SetupMsg)
  | confirm (id : StreamId) (gen : Gen) (pathLength : Nat)
  | refuse (id : StreamId) (gen : Gen) (reason : ReasonCode) (refusing : FrameId)
  | release (id : StreamId) (gen : Gen)
  | break_ (id : StreamId) (gen : Gen) (reason : ReasonCode) (dir : Direction)
  | retune (id : StreamId) (gen : Gen) (rate : BitVec 32) (cells : Byte)
  | retuneOk (id : StreamId) (gen : Gen)
  | retuneRefuse (id : StreamId) (gen : Gen) (reason : ReasonCode)
  | retuneCommit (id : StreamId) (gen : Gen) (switch : Epoch)
  | retuneAbort (id : StreamId) (gen : Gen)
  | announce (m : AnnounceMsg)
  | trigger (m : TriggerMsg)
  | cancel (id : TriggerId)
  deriving DecidableEq, Repr

/-- The kind of a message, without its fields. -/
inductive MsgKind where
  | setup | confirm | refuse | release | break_ | retune | retuneOk | retuneRefuse | retuneCommit | retuneAbort
  | announce | trigger | cancel
  deriving DecidableEq, Repr

/-- One symbol received on a cable (R3, R7, R8): a preamble symbol, a cell-start symbol, an idle symbol, a data byte, or
a symbol that decodes to none of these. The three control symbols of a preamble are one and the same symbol here (DESIGN CHOICE,
log entry 15: R3 does not say whether they differ). -/
inductive Symbol where
  | preamble | cellStart | idle | data (b : Byte) | invalid
  deriving DecidableEq, Repr

/-- How SCHEDULE_TRIGGER gives the fire epoch: the epoch itself or a lead in epochs (R81). -/
inductive FireWhen where
  | epoch (e : Epoch)
  | lead (n : BitVec 16)
  deriving DecidableEq, Repr

/-- The selector of GET_TRIGGER (R90). -/
inductive TriggerSelector where
  | id (bits : BitVec 16)
  | position (n : Byte)
  | summary
  deriving DecidableEq, Repr

/-- A configuration item, with its index where it has one (R172). -/
inductive ConfigItem where
  | frameId | timingPriority | useReference | holdoverLimit | drainDefault | suspendDefault
  | noticeLevel (index : Byte)
  | noticeMask
  | channelMap (index : Byte)
  deriving DecidableEq, Repr

/-- The commands: requests of the frame controller, what happens on the cables, messages taken by their blocks, the
part's own events, and what modules do on the lanes. -/
inductive Instr where
  -- requests of the frame controller (R168 to R178)
  | identify
  | setConfigFrameId (value : BitVec 16)
  | setConfigTimingPriority (value : BitVec 16)
  | setConfigUseReference (value : BitVec 16)
  | setConfigHoldoverLimit (value : BitVec 16)
  | setConfigDrainDefault (value : BitVec 16)
  | setConfigSuspendDefault (value : BitVec 16)
  | setConfigNoticeLevel (index : Byte) (value : BitVec 16)
  | setConfigNoticeMask (value : BitVec 16)
  | setConfigChannelMap (index : Byte) (value : BitVec 16)
  | getConfig (item : Option ConfigItem)
  | getPort (port : Byte)
  | resetPort (port : Byte)
  | depart (count : Option (BitVec 16))
  | cancelDepart
  | getFrame (frame : Byte)
  | getTiming
  | restartTiming
  | openStream (lane terminal : Byte) (rate : BitVec 32) (sampleBytes budget : Byte) (limit : Option (BitVec 16)) (reroute : Byte)
  | lookupStream (id : StreamId)
  | nextStream (start : Byte)
  | closeStream (id : StreamId)
  | retuneStream (id : StreamId) (rate : BitVec 32)
  | clearStreams
  | attachSink (id : StreamId) (lane mode : Byte) (blockSize : BitVec 16) (threshold : Byte) (start : Option (BitVec 16))
  | detachSink (sink : Byte)
  | armSink (sink : Byte) (start : Option (BitVec 16))
  | getSink (sink : Option Byte)
  | scheduleTrigger (channel : Byte) (fireTick : BitVec 16) (fireWhen : FireWhen)
  | cancelTrigger (id : BitVec 16)
  | getTrigger (selector : TriggerSelector)
  | armInput (input : Byte) (lead : BitVec 16) (channel mode : Byte)
  | disarmInput (input : Byte)
  | readNotices
  | readCapture (record : Option Byte)
  | clearCapture (record : Option Byte)
  | resetDevice
  | unknownRequestKind (kind : Byte) (fields : List Byte)
  | transactionAbandoned (received : List Byte)
  -- the clock and the pins
  | deviceReset (straps : BitVec 5)
  | localEpochStart (presence : BitVec 6) (refin : Bool)
  | gapStart
  | timeStep
  -- the cables
  | markerSend (port : PortId)
  | managementCellBuild (port : PortId)
  | dataSlot (port : PortId) (slot : Nat)
  | symbolLockGained (port : PortId)
  | symbolLockLost (port : PortId)
  | symbolBurst (port : PortId) (errors : Nat)
  | markerReceived (port : PortId) (symbols : List Symbol)
  | cellReceived (port : PortId) (bytes : List Byte)
  -- messages, with the port they arrived on
  | setup (port : PortId) (m : SetupMsg)
  | confirm (port : PortId) (id : StreamId) (gen : Gen) (pathLength : Nat)
  | refuse (port : PortId) (id : StreamId) (gen : Gen) (reason : ReasonCode) (refusing : FrameId)
  | release (port : PortId) (id : StreamId) (gen : Gen)
  | break_ (port : PortId) (id : StreamId) (gen : Gen) (reason : ReasonCode) (dir : Direction)
  | retune (port : PortId) (id : StreamId) (gen : Gen) (rate : BitVec 32) (cells : Byte)
  | retuneOk (port : PortId) (id : StreamId) (gen : Gen)
  | retuneRefuse (port : PortId) (id : StreamId) (gen : Gen) (reason : ReasonCode)
  | retuneCommit (port : PortId) (id : StreamId) (gen : Gen) (switch : Epoch)
  | retuneAbort (port : PortId) (id : StreamId) (gen : Gen)
  | announce (port : PortId) (m : AnnounceMsg)
  | trigger (port : PortId) (m : TriggerMsg)
  | cancel (port : PortId) (id : TriggerId)
  -- the part's own events
  | presenceQualified (port : PortId)
  | presenceLost (port : PortId)
  | trainingPause (port : PortId)
  | trainingPauseEnd (port : PortId)
  | markerLoss (port : PortId)
  | delayJump (port : PortId)
  | drainEnd
  | announceTimerExpiry
  | entryAgedOut (frame : FrameId)
  | electionHoldEnd
  | nearCountFull
  | unusableCountFull
  | farCountFull
  | returnCountFull
  | holdoverExpiry
  | refinQualified
  | refinUnqualified
  | triggerFireTime (id : TriggerId)
  | triggerPulseEnd
  | triggerInputEdge (input : InputId) (highTicks : Nat)
  | setupTimerExpiry (record : Nat)
  | suspendTimerExpiry (record : Nat)
  | rerouteRetryExpiry (record : Nat)
  | originRetuneTimeout (record : Nat)
  | hopRetuneTimeout (record : Nat)
  | retuneSwitch (record : Nat)
  | sinkSettle (sink : Nat)
  | cellRelease (sink : Nat)
  -- the backplane lanes
  | lanePush (lane : LaneId) (id : StreamId) (samples : Byte) (payload : List Byte)
  | lanePull (lane : LaneId) (id : StreamId) (count : Byte)
  | laneAcknowledgement (lane : LaneId) (id : StreamId)
  | resetPinAsserted
  deriving DecidableEq, Repr

end Sys2Proof
end

