-- ==== Sys2Proof/Machine/State.lean ====
section
/-! DEFINITION. The state of one RZL-616 as plain data, block by block (00_scope.md section 2.1), the reasons a step can
stop, and the state after device reset. Fields that are the model's own, not the spec's, say so. -/

namespace Sys2Proof.Machine

open Sys2Proof

/-- The spec names no condition that stops the part: every error it finds is captured, answered or counted, and it goes
on. So no meaning faults, and this type has no constructor (safe: there is nothing to raise). -/
inductive Fault where
  deriving DecidableEq, Repr

/-- Why the model refuses a command. -/
inductive Refusal where
  /-- Raised by exec alone, for a command that has no meaning yet (safe: the model stops). No arm raises it now. -/
  | notModelled (mnemonic : String)
  deriving DecidableEq, Repr

/-! ### Port Engines and the Swap Controller's state per port -/

/-- The port states (section 2.1 of chapter 2). -/
inductive PortState where
  | down | training | probing | up | admitted | draining | fault
  deriving DecidableEq, Repr

/-- The port reasons: LONG and ID_CONFLICT in FAULT, NO_ID in UP. -/
inductive PortReason where
  | long | idConflict | noId
  deriving DecidableEq, Repr

/-- The phase of a port in TRAINING with its count (R23). -/
inductive Training where
  | locking (count : Nat)
  | pause (count : Nat)
  deriving DecidableEq, Repr

/-- A qualified input: the flag and the two run counts (R21 for presence, R64 for REFIN). -/
structure Qualifier where
  qualified : Bool
  present : Nat
  absent : Nat
  deriving DecidableEq, Repr

/-- The stored neighbour identity of a port (R5). The port number is the marker's three bits. -/
structure Neighbour where
  frame : FrameId
  port : BitVec 3
  deriving DecidableEq, Repr

/-- The four info bits of a marker (R2, R4). -/
structure InfoBits where
  usable : Bool
  holdover : Bool
  departing : Bool
  epochOdd : Bool
  deriving DecidableEq, Repr

/-- The last marker info of a port (R5). -/
structure MarkerInfo where
  info : InfoBits
  timing : TimingState
  priority : Nat
  master : Bool
  deriving DecidableEq, Repr

/-- The echo for the port's next marker: the tx stamp of the last accepted marker and its arrival stamp (R2, R5). -/
structure Echo where
  tx : Stamp
  rx : Stamp
  deriving DecidableEq, Repr

/-- The marker recognizer (R3): the preamble symbols found so far (0 is "searching"), the stamp count when the first of them
arrived, and the marker bytes read after the third. -/
structure Recognizer where
  found : Nat
  first : Option Stamp
  bytes : List Byte
  deriving DecidableEq, Repr

/-- The recognizer while it searches (R3, R18). -/
def Recognizer.searching : Recognizer := ⟨0, none, []⟩

/-- A delay record (R58): CLOSED; OPEN with its window; VALID with window, filtered delay d16 and jump count. -/
inductive DelayRecord where
  | closed
  | sampling (window : List Nat)
  | valid (window : List Nat) (d16 : Nat) (jumps : Nat)
  deriving DecidableEq, Repr

/-- What a cable port sends in the part of the epoch it has begun (R1): nothing, training pattern, idle symbols, a marker
(its 21 bytes after the preamble), or a cell of 128 bytes. -/
inductive Wire where
  | nothing | trainingPattern | idleSymbols
  | marker (bytes : List Byte)
  | cell (bytes : List Byte)
  deriving DecidableEq, Repr

/-- An entry of the egress slot map that names a record (R16); slots without an entry are free. -/
structure SlotEntry where
  slot : Nat
  record : Nat
  deriving DecidableEq, Repr

/-- One cable port: Port Engine (R18), Swap Controller (R38) and delay record (R58) state. -/
structure Port where
  state : PortState
  reason : Option PortReason
  training : Option Training
  symbolLock : Bool
  presence : Qualifier
  announceSeen : Bool
  neighbourDeparting : Bool
  recognizer : Recognizer
  missCount : Nat
  symbolErrors : Nat
  neighbour : Option Neighbour
  lastMarker : Option MarkerInfo
  echo : Option Echo
  protocolQueue : List Msg
  floodQueue : List Msg
  slotMap : List SlotEntry
  delay : DelayRecord
  /-- The model's own: the miss count has reached 4 in a state in which R6 resets the port, and MARKER_LOSS has not been
  taken yet. -/
  lossDue : Bool
  /-- The model's own: the jump count has reached 8, and the port has been in the state of that moment ever since (R30,
  R62). -/
  jumpStands : Bool
  /-- R6's "a marker was accepted during that epoch". -/
  markerThisEpoch : Bool
  /-- The model's own: the first slot of the current local epoch that the engine has not yet begun. -/
  nextSlot : Nat
  /-- What the port is sending (the cable port pins, R1). -/
  wire : Wire
  deriving DecidableEq, Repr

/-! ### Timebase Unit -/

/-- The length of a gap fixed at tick 7936, and the epoch number a stepped gap ends with (R57, R72). -/
structure Gap where
  length : Nat
  step : Option Epoch
  deriving DecidableEq, Repr

/-- Number and full length of the local epoch before the current one; the model's own, for moments that lie before the
current epoch began (R3, R88). -/
structure PastEpoch where
  number : Epoch
  length : Nat
  deriving DecidableEq, Repr

/-- The rack-time counter and the stamp count (R56), with the gap of the current epoch once it is fixed (R57). -/
structure Clock where
  epoch : Epoch
  tick : Nat
  stamp : Stamp
  gap : Option Gap
  past : Option PastEpoch
  deriving DecidableEq, Repr

/-- The role of the part (R65). -/
inductive TimingRole where
  | master | follower
  deriving DecidableEq, Repr

/-- The election result (R53): this part, another frame with the timing port toward it, or NONE. -/
inductive ElectionResult where
  | thisPart
  | frame (x : FrameId) (port : PortId)
  | nobody
  deriving DecidableEq, Repr

/-- The four timing counts (R69). -/
structure TimingCounts where
  unusable : Nat
  far : Nat
  near : Nat
  back : Nat
  deriving DecidableEq, Repr

/-- What is pending for the next gap (R57): a correction, or a step to the master's epoch `number`, which began `start`
ticks after the start of the epoch whose gap will carry the step (R72's u and N). -/
inductive Adjustment where
  | correction (ticks : Int)
  | step (start : Int) (number : Epoch)
  deriving DecidableEq, Repr

/-- A usable observation (R68): the phase error, the epoch-number mismatch, and the start of the master's epoch `number`
in ticks from the start of the local epoch whose gap would carry a step (R72). -/
structure Observation where
  error : Int
  mismatch : Bool
  start : Int
  number : Epoch
  deriving DecidableEq, Repr

/-- Timebase Unit state (R78) but for the delay records, which stand with their ports. -/
structure Timebase where
  state : TimingState
  role : TimingRole
  result : ElectionResult
  port : Option PortId
  counts : TimingCounts
  pending : Option Adjustment
  lastPhase : Option Observation
  holdoverTimer : Option Nat
  refin : Qualifier
  stepCount : Nat
  deriving DecidableEq, Repr

/-! ### Frame Directory and Swap Controller -/

/-- The states of a directory entry; a frame without an entry is UNKNOWN (R39). -/
inductive EntryState where
  | reachable | departing | lost
  deriving DecidableEq, Repr

/-- A directory entry that is not UNKNOWN (R39). -/
structure DirEntry where
  frame : FrameId
  state : EntryState
  nextHop : PortId
  distance : Nat
  serial : Byte
  restartSeen : Bool
  age : Nat
  priority : Nat
  reference : Bool
  timing : TimingState
  deriving DecidableEq, Repr

/-- A running election hold: its timer and the master it was begun for (R52). -/
structure ElectionHold where
  timer : Nat
  frame : FrameId
  deriving DecidableEq, Repr

/-- Frame Directory state (R55). Entries stand in ascending frame id. The outcome last handed is the Timebase Unit's
election result. -/
structure Directory where
  entries : List DirEntry
  serial : Byte
  restartCount : Nat
  announceTimer : Nat
  /-- The model's own: the announce timer has reached 0, and ANNOUNCE_TIMER_EXPIRY has not been taken since (R41). -/
  announceDue : Bool
  hold : Option ElectionHold
  deriving DecidableEq, Repr

/-- The departure state of this frame (section 2.7 of chapter 2). -/
inductive Departure where
  | inService | departing | drained
  deriving DecidableEq, Repr

/-- This frame's departure (R38); the drain timer runs while the departure state is DEPARTING. -/
structure Swap where
  departure : Departure
  drainTimer : Nat
  deriving DecidableEq, Repr

/-! ### Trigger Scheduler -/

/-- Why a trigger is MISSED (R79). -/
inductive MissReason where
  | late | noTime | timeStep
  deriving DecidableEq, Repr

/-- The state of a trigger entry, with its reason or firing quality (R79). -/
inductive TriggerState where
  | armed
  | fired (holdover : Bool)
  | missed (reason : MissReason)
  | cancelled
  deriving DecidableEq, Repr

/-- An entry of the Trigger Table (R79). -/
structure TriggerEntry where
  id : TriggerId
  fire : RackTime
  channel : Nat
  state : TriggerState
  deriving DecidableEq, Repr

/-- A note of a trigger that was not stored (R80). -/
structure DroppedNote where
  id : TriggerId
  fire : RackTime
  channel : Nat
  deriving DecidableEq, Repr

/-- The state of an input arm (R88). -/
inductive Arm where
  | disarmed
  | oneShot (lead : Nat) (channel : Nat)
  | repeated (lead : Nat) (channel : Nat) (holdOff : Option RackTime)
  deriving DecidableEq, Repr

/-- An input line's arm and its ignored-edge count (R88). -/
structure InputLine where
  arm : Arm
  ignored : Nat
  deriving DecidableEq, Repr

/-- A running output pulse: its lines TO0..TO7 and the ticks it still has to run (R85). -/
structure Pulse where
  lines : Byte
  left : Nat
  deriving DecidableEq, Repr

/-- Trigger Scheduler state (R91). The table stands in fire-time order, the dropped list oldest first. -/
structure TriggerUnit where
  table : List TriggerEntry
  dropped : List DroppedNote
  notStored : Nat
  serial : Byte
  inputs : PerInput InputLine
  pulses : List Pulse
  /-- The model's own: CHANNEL_MAP as it applies to firings at the current tick (R174). -/
  firingMap : PerChannel Byte
  deriving DecidableEq, Repr

/-! ### Stream Table, Staging Store and Lane Interface -/

/-- The roles of a stream record (R93). -/
inductive StreamRole where
  | origin | transit | terminus | loopback
  deriving DecidableEq, Repr

/-- A record's ingress: a lane at an origin, a port otherwise (R92). -/
inductive Ingress where
  | lane (l : LaneId)
  | port (p : PortId)
  deriving DecidableEq, Repr

/-- The states of a stream record (R94). -/
inductive StreamState where
  | pending | active | retuning | suspended | closed
  deriving DecidableEq, Repr

/-- A record's reason (R95). -/
inductive StreamReason where
  | code (c : ReasonCode)
  | setupTimeout | expired | retuneRefused
  deriving DecidableEq, Repr

/-- The demand staged by a retune: new C and new rate (R92). -/
structure Staged where
  cells : Nat
  rate : Nat
  deriving DecidableEq, Repr

/-- A cell in a source or transit queue, with its taking epoch (R136). -/
structure QueuedCell where
  id : StreamId
  gen : Gen
  sequence : Seq
  originEpoch : Seq
  samples : Byte
  poison : Bool
  payload : List Byte
  taken : Epoch
  deriving DecidableEq, Repr

/-- What a record holds at an origin alone (R92): the sequence that the next accepted push will carry, the source overrun
count, and auto-reroute. -/
structure Source where
  nextSequence : Seq
  overrunCount : Nat
  autoReroute : Bool
  deriving DecidableEq, Repr

/-- A stream record (R92) with its queue in the Staging Store (R136). Slots held and the slot list are read from the slot
map of the egress port. An absent timer is stopped. `source` is present at an origin. -/
structure StreamRecord where
  index : Nat
  id : StreamId
  gen : Gen
  role : StreamRole
  ingress : Ingress
  egress : Option PortId
  terminal : FrameId
  hop : Nat
  pathLength : Option Nat
  rate : Nat
  sampleBytes : Nat
  cells : Nat
  staged : Option Staged
  switchEpoch : Option Epoch
  budget : Nat
  sinks : List Nat
  state : StreamState
  reason : Option StreamReason
  refusing : Option FrameId
  retuneCause : Option ReasonCode
  activation : Option Epoch
  source : Option Source
  expected : Option Seq
  poisonCount : Nat
  suspendLimit : Nat
  setupTimer : Option Nat
  retuneTimer : Option Nat
  suspendTimer : Option Nat
  rerouteTimer : Option Nat
  changed : Bool
  queue : List QueuedCell
  deriving DecidableEq, Repr

/-- Stream Table state (R113). Records stand in ascending index, 0..127; a free index has no record. -/
structure StreamTable where
  records : List StreamRecord
  serial : Nat
  activations : Epoch
  deriving DecidableEq, Repr

/-! ### Delivery Unit -/

/-- The modes of a sink, coded 0..2 in this order (R146). -/
inductive SinkMode where
  | continuous | paced | single
  deriving DecidableEq, Repr

/-- What starts a SINGLE sink (R146). -/
inductive SinkStart where
  | first
  | trigger (id : TriggerId)
  | lost
  deriving DecidableEq, Repr

/-- The state of a sink (R146). -/
inductive SinkState where
  | running | waiting | halted
  deriving DecidableEq, Repr

/-- A cell in a sink's held or released list (R146). -/
structure SinkCell where
  sequence : Seq
  originEpoch : Seq
  samples : Byte
  poison : Bool
  late : Bool
  payload : List Byte
  deriving DecidableEq, Repr

/-- A sink (R146). -/
structure Sink where
  index : Nat
  record : Nat
  stream : StreamId
  lane : LaneId
  hop : Nat
  mode : SinkMode
  blockSize : Nat
  threshold : Nat
  start : Option SinkStart
  state : SinkState
  done : Bool
  overrun : Bool
  held : List SinkCell
  released : List SinkCell
  reservation : Nat
  settle : Option Epoch
  lateCount : Nat
  gapCount : Nat
  blockStart : Option Seq
  expected : Option Seq
  deriving DecidableEq, Repr

/-! ### Error Capture Unit -/

/-- The error kinds (R162). -/
inductive ErrorKind where
  | markerCorrected | negativeDelay | lateSwitch
  | markerRejected | headerBad | unknownStream | wrongPort | staleGen | payloadBad | transitOverflow | protocol
  | unknown | format
  | presenceLost | markerLoss | symbolBurst | delayJump | resetPort
  deriving DecidableEq, Repr

/-- The severities in order of weight (R161). -/
inductive Severity where
  | soft | data | link
  deriving DecidableEq, Repr

/-- The checks that reject a marker (R162). -/
inductive MarkerCheck where
  | truncated | doubleError | check | kind | inconsistent | identity
  deriving DecidableEq, Repr

/-- The conditions that make a cell HEADER_BAD, in the order of R8 (R162). -/
inductive HeaderCheck where
  | truncated | headerCheck | markerKind | mgmtSlot | dataSlot
  deriving DecidableEq, Repr

/-- The causes of a PROTOCOL capture (R162). -/
inductive ProtocolCause where
  | malformedCell | malformedMessage | queueDrop | misdirected | unexpected
  deriving DecidableEq, Repr

/-- The detail items of a capture, by kind (R162). -/
inductive Detail where
  | hammingPosition (n : Nat)
  | delay (x : Int)
  | lateSwitch (epochs : Nat) (port : PortId)
  | marker (c : MarkerCheck)
  | header (c : HeaderCheck)
  | unknownStream (gen : Gen) (sequence : Seq)
  | wrongPort (sequence : Seq) (ingress : Ingress)
  | staleGen (cell record : Gen)
  | sequence (s : Seq)
  | management
  | overflow (sequence : Seq) (trim : Bool)
  | protocol (cause : ProtocolCause) (kind : Option MsgKind) (port : PortId) (trigger : Option TriggerId)
  | lane (l : LaneId)
  | laneSamples (l : LaneId) (samples : Byte)
  | portState (before : PortState)
  | jump (before : PortState) (d : Nat)
  deriving DecidableEq, Repr

/-- The error a locked capture record holds (R161); its severity is that of its kind (R162). -/
structure CapturedError where
  kind : ErrorKind
  epoch : Epoch
  slot : Option Nat
  stream : Option StreamId
  detail : Detail
  deriving DecidableEq, Repr

/-- A capture record: empty or locked, with its LOST flag (R161). -/
structure CaptureRecord where
  held : Option CapturedError
  lost : Bool
  deriving DecidableEq, Repr

/-- The eight capture records: 0..5 of the ports, 6 of the lanes, 7 of the protocol (R161). -/
structure Captures where
  port : PerPort CaptureRecord
  lane : CaptureRecord
  protocol : CaptureRecord
  deriving DecidableEq, Repr

/-! ### Request Port -/

/-- The configuration items (R172). -/
structure Config where
  frameId : FrameId
  timingPriority : Nat
  useReference : Bool
  holdoverLimit : Nat
  drainDefault : Nat
  suspendDefault : Nat
  noticeLevel : PerNotice Nat
  noticeMask : Nat
  channelMap : PerChannel Byte
  deriving DecidableEq, Repr

/-- The status codes of a response, 0..6 in this order (R170). -/
inductive Status where
  | ok | badRequest | badArgument | notFound | busy | full | refused
  deriving DecidableEq, Repr

/-- The reasons of a REFUSED answer (R170): a message reason code, or one of the codes 32..36. -/
inductive RefusalReason where
  | code (c : ReasonCode)
  | badFormat | laneFull | notOrigin | noId | lead
  deriving DecidableEq, Repr

/-- Which limit a FULL answer of ATTACH_SINK names (R148). -/
inductive FullLimit where
  | record | lane | table
  deriving DecidableEq, Repr

/-- GET_PORT's fields (R32). -/
structure PortReport where
  state : PortState
  reason : Option PortReason
  training : Option Training
  presence : Qualifier
  neighbour : Option Neighbour
  announceSeen : Bool
  neighbourDeparting : Bool
  lastMarker : Option MarkerInfo
  delay : Option Nat
  usable : Nat
  missCount : Nat
  protocolLength : Nat
  floodLength : Nat
  deriving DecidableEq, Repr

/-- GET_FRAME's directory summary (R54). -/
structure DirectoryReport where
  frameId : FrameId
  serial : Byte
  restartCount : Nat
  announceTimer : Nat
  forwarding : Bool
  outcome : ElectionResult
  hold : Option Nat
  reachable : Nat
  departing : Nat
  lost : Nat
  deriving DecidableEq, Repr

/-- One delay record as GET_TIMING reports it (R77): its state and, when VALID, d and the jump count. -/
inductive DelayReport where
  | closed | sampling
  | valid (d : Nat) (jumps : Nat)
  deriving DecidableEq, Repr

/-- GET_TIMING's fields (R77). -/
structure TimingReport where
  time : RackTime
  stamp : Stamp
  state : TimingState
  role : TimingRole
  quality : Option Bool
  result : ElectionResult
  port : Option (PortId × Bool)
  phase : Option (Int × Bool)
  counts : TimingCounts
  holdoverTimer : Option Nat
  refin : Qualifier
  reference : Bool
  stepCount : Nat
  delays : PerPort DelayReport
  deriving DecidableEq, Repr

/-- A stream record as LOOKUP_STREAM and NEXT_STREAM report it (R98): index and fields, slot list, queue length. -/
structure StreamReport where
  record : StreamRecord
  slots : List Nat
  queueLength : Option Nat
  deriving DecidableEq, Repr

/-- A list of cells as GET_SINK reports it: its length, first and last sequence (R159). -/
structure ListReport where
  length : Nat
  first : Option Seq
  last : Option Seq
  deriving DecidableEq, Repr

/-- GET_SINK's fields (R159): the sink without its cells, the lists' reports, the effective threshold. -/
structure SinkReport where
  sink : Sink
  held : ListReport
  released : ListReport
  effective : Nat
  deriving DecidableEq, Repr

/-- GET_SINK's summary (R159). -/
structure PoolReport where
  sinks : Nat
  reserved : Nat
  unreserved : Nat
  occupied : Nat
  deriving DecidableEq, Repr

/-- GET_TRIGGER's summary (R90). -/
structure TriggerReport where
  armed : Nat
  fired : Nat
  missed : Nat
  cancelled : Nat
  dropped : Nat
  notStored : Nat
  serial : Byte
  channelMap : PerChannel Byte
  inputs : PerInput InputLine
  deriving DecidableEq, Repr

/-- The response fields of an answer, by the rule that gives them. -/
inductive Body where
  | empty
  | identity (strap own : FrameId) (epoch : Epoch)
  | value (v : BitVec 16)
  | config (c : Config)
  | portState (s : PortState)
  | port (r : PortReport)
  | entry (e : Option DirEntry)
  | directory (r : DirectoryReport)
  | timing (r : TimingReport)
  | opened (id : StreamId) (index : Nat) (cells : Nat) (state : StreamState) (reason : Option StreamReason)
  | stream (r : StreamReport)
  | retuned (cells : Nat) (state : StreamState)
  | removed (count : Nat)
  | sinkIndex (k : Nat)
  | limit (l : FullLimit)
  | attached (k : Nat) (reservation : Nat)
  | sink (r : SinkReport)
  | pool (r : PoolReport)
  | scheduled (id : TriggerId) (epoch : Epoch)
  | triggerState (s : TriggerState)
  | trigger (e : TriggerEntry)
  | note (n : DroppedNote)
  | triggers (r : TriggerReport)
  | notices (flags : PerNotice Bool) (attn : Bool)
  | capture (r : CaptureRecord)
  | captures (c : Captures)
  deriving DecidableEq, Repr

/-- A response (R168, R170): its status, the reason of a REFUSED, and its fields. -/
structure Response where
  status : Status
  reason : Option RefusalReason
  body : Body
  deriving DecidableEq, Repr

/-- What the part sends on SPI after the last request: nothing yet, all-ones bytes alone, or a response, up to the release of the
select wire (R168, R177). -/
inductive SpiOutput where
  | nothing | allOnes
  | response (r : Response)
  deriving DecidableEq, Repr

/-- Request Port state (R178). -/
structure RequestPort where
  pending : PerNotice Bool
  config : Config
  strap : FrameId
  spi : SpiOutput
  deriving DecidableEq, Repr

/-! ### Lanes and pins -/

/-- The answers to a push (R138). -/
inductive PushAnswer where
  | unknown | format | held | full | accept
  deriving DecidableEq, Repr

/-- The answers to a pull (R157). -/
inductive PullAnswer where
  | format | unknown | empty
  | cells (c : List SinkCell)
  deriving DecidableEq, Repr

/-- The last answer given on a lane. -/
inductive LaneAnswer where
  | nothing
  | push (l : LaneId) (a : PushAnswer)
  | pull (l : LaneId) (a : PullAnswer)
  | acknowledgement (l : LaneId) (known : Bool)
  deriving DecidableEq, Repr

/-- The input pins as they last were: presence inputs, a REFIN edge in the epoch, the frame id straps as last sampled, and the
RESET pin or power coming up (01_cables_slots_and_cells.md section 1.11). `samplings` is the model's own: how often the straps
have been sampled, by which a sampling of RESET_DEVICE finds its levels (log entry 30). -/
structure Pins where
  presence : BitVec 6
  refin : Bool
  straps : BitVec 5
  reset : Bool
  samplings : Nat
  deriving DecidableEq, Repr

/-- A message that a Port Engine has passed on with its arrival port and that its block has not yet taken (R10). -/
structure Delivered where
  port : PortId
  msg : Msg
  deriving DecidableEq, Repr

/-- The whole state of the part, with the queue of commands that wait. -/
structure State where
  pending : List Instr
  inbox : List Delivered
  ports : PerPort Port
  clock : Clock
  time : Timebase
  dir : Directory
  swap : Swap
  trig : TriggerUnit
  streams : StreamTable
  sinks : List Sink
  captures : Captures
  req : RequestPort
  lane : LaneAnswer
  pins : Pins
  deriving DecidableEq, Repr

/-! ### Values after device reset -/

/-- A port after device reset (R18, R38, R58). -/
def Port.reset : Port where
  state := .down
  reason := none
  training := none
  symbolLock := false
  presence := ⟨false, 0, 0⟩
  announceSeen := false
  neighbourDeparting := false
  recognizer := Recognizer.searching
  missCount := 0
  symbolErrors := 0
  neighbour := none
  lastMarker := none
  echo := none
  protocolQueue := []
  floodQueue := []
  slotMap := []
  delay := .closed
  lossDue := false
  jumpStands := false
  markerThisEpoch := false
  nextSlot := 0
  wire := .nothing

/-- The configuration items after device reset (R172). -/
def Config.reset (strap : FrameId) : Config where
  frameId := strap
  timingPriority := 15
  useReference := true
  holdoverLimit := 9766
  drainDefault := 2048
  suspendDefault := 4096
  noticeLevel := PerNotice.all 0
  noticeMask := 0
  channelMap := PerChannel.all 0

/-- Every block at its values after a device reset that sampled the straps (R177, and R18, R38, R55, R78, R91, R113, R145,
R160, R167, R178). The queue of waiting commands and the input pins are no state of the part that a reset sets: they are
given. -/
def State.afterReset (pending : List Instr) (pins : Pins) : State where
  pending := pending
  inbox := []
  ports := PerPort.all Port.reset
  clock := { epoch := 0, tick := 0, stamp := 0, gap := none, past := none }
  time :=
    { state := .free, role := .follower, result := .nobody, port := none, counts := ⟨0, 0, 0, 0⟩, pending := none
      lastPhase := none, holdoverTimer := none, refin := ⟨false, 0, 0⟩, stepCount := 0 }
  dir := { entries := [], serial := 0, restartCount := 4, announceTimer := 256, announceDue := false, hold := none }
  swap := { departure := .inService, drainTimer := 0 }
  trig :=
    { table := [], dropped := [], notStored := 0, serial := 0, inputs := PerInput.all ⟨.disarmed, 0⟩, pulses := []
      firingMap := PerChannel.all 0 }
  streams := { records := [], serial := 0, activations := 0 }
  sinks := []
  captures := ⟨PerPort.all ⟨none, false⟩, ⟨none, false⟩, ⟨none, false⟩⟩
  req :=
    { pending := PerNotice.all false, config := Config.reset pins.straps.toFin, strap := pins.straps.toFin
      spi := .nothing }
  lane := .nothing
  pins := pins

/-- The part right after device reset. The straps read 0, no cable is present, REFIN is still (DESIGN CHOICE: the pins are
the board's, the spec gives them no value). -/
def State.reset : State :=
  State.afterReset [] { presence := 0, refin := false, straps := 0, reset := false, samplings := 0 }

end Sys2Proof.Machine
end

