-- ==== Sys2Proof/Machine/Bits.lean ====
section
/-! DEFINITION. Wrapping comparison, byte order, the two cyclic checks and the Hamming code of the marker's info byte. -/

namespace Sys2Proof.Machine

open Sys2Proof

/-- `a` is ahead of `b`: the difference modulo the counter's span lies in the lower half of the span and is not zero
(00_scope.md section 4.2; R56). "Behind", "earlier" and "has begun" are read as its reverse, so that a value exactly half the
span away is neither ahead nor behind (DESIGN CHOICE, log entry 71). -/
def ahead {w : Nat} (a b : BitVec w) : Bool :=
  (a - b != 0) && decide ((a - b).toNat < 2 ^ (w - 1))

/-- A rack time later than another: by epoch number first, then by tick (R56). -/
def later (a b : RackTime) : Bool :=
  ahead a.epoch b.epoch || (a.epoch == b.epoch && decide (b.tick < a.tick))

/-- A count that stops at its greatest value (00_scope.md section 4.2). -/
def saturate (n : Nat) : Nat := min n Figures.saturation

/-- The bytes of a number, most significant byte first (R19, R168). -/
def bytesOf (count n : Nat) : List Byte :=
  match count with
  | 0 => []
  | k + 1 => BitVec.ofNat 8 (n / 256 ^ k) :: bytesOf k n

/-- The number that bytes spell, most significant byte first (R19, R168). -/
def numberOf (bs : List Byte) : Nat :=
  bs.foldl (fun n b => n * 256 + b.toNat) 0

/-- The number spelled by `count` bytes from position `at_`; bytes that are not there read 0. -/
def numberAt (bs : List Byte) (at_ count : Nat) : Nat :=
  numberOf ((bs.drop at_).take count)

/-- The byte at a position; a byte that is not there reads 0. -/
def byteAt (bs : List Byte) (at_ : Nat) : Byte := bs.getD at_ 0

/-- One bit step of a cyclic check with the given generator, most significant bit first. -/
def crcStep {w : Nat} (generator c : BitVec w) : BitVec w :=
  if c.msb then (c <<< 1) ^^^ generator else c <<< 1

/-- Eight bit steps. -/
def crcByte {w : Nat} (generator c : BitVec w) : BitVec w :=
  (List.range 8).foldl (fun c _ => crcStep generator c) c

/-- The header check: x^8 + x^2 + x + 1, initial value 0 (R19). -/
def crc8 (bs : List Byte) : Byte :=
  bs.foldl (fun c b => crcByte 0x07 (c ^^^ b)) 0

/-- The payload check and marker check: x^16 + x^12 + x^5 + 1, initial value all ones (R19). -/
def crc16 (bs : List Byte) : BitVec 16 :=
  bs.foldl (fun c b => crcByte 0x1021 (c ^^^ (BitVec.shiftLeft (b.setWidth 16) 8))) 0xFFFF

/-! ### The info byte (R4) -/

/-- The info byte that a sender forms: check positions 1, 2 and 4, info bits at 3, 5, 6 and 7, and bit 0 for an even
number of ones (R4, R20). -/
def infoByte (i : InfoBits) : Byte :=
  let p1 := i.usable ^^ i.holdover ^^ i.epochOdd
  let p2 := i.usable ^^ i.departing ^^ i.epochOdd
  let p4 := i.holdover ^^ i.departing ^^ i.epochOdd
  let p0 := p1 ^^ p2 ^^ i.usable ^^ p4 ^^ i.holdover ^^ i.departing ^^ i.epochOdd
  BitVec.ofBool i.epochOdd ++ BitVec.ofBool i.departing ++ BitVec.ofBool i.holdover ++ BitVec.ofBool p4 ++
    BitVec.ofBool i.usable ++ BitVec.ofBool p2 ++ BitVec.ofBool p1 ++ BitVec.ofBool p0

/-- The syndrome of a received info byte, 0..7 (R4). -/
def syndrome (b : Byte) : Nat :=
  (if b.getLsbD 1 ^^ b.getLsbD 3 ^^ b.getLsbD 5 ^^ b.getLsbD 7 then 1 else 0) +
    (if b.getLsbD 2 ^^ b.getLsbD 3 ^^ b.getLsbD 6 ^^ b.getLsbD 7 then 2 else 0) +
    (if b.getLsbD 4 ^^ b.getLsbD 5 ^^ b.getLsbD 6 ^^ b.getLsbD 7 then 4 else 0)

/-- The overall parity of a received info byte is odd (R4). -/
def oddParity (b : Byte) : Bool :=
  (List.range 8).foldl (fun p n => p ^^ b.getLsbD n) false

/-- The info bits at their positions. -/
def infoBitsOf (b : Byte) : InfoBits :=
  ⟨b.getLsbD 3, b.getLsbD 5, b.getLsbD 6, b.getLsbD 7⟩

/-- The outcome of decoding an info byte (R4). -/
inductive InfoDecode where
  | clean (i : InfoBits)
  | corrected (position : Nat) (i : InfoBits)
  | doubleError
  deriving DecidableEq, Repr

/-- R4's table: syndrome against overall parity. -/
def decodeInfo (b : Byte) : InfoDecode :=
  let s := syndrome b
  if oddParity b then
    if s = 0 then .corrected 0 (infoBitsOf b) else .corrected s (infoBitsOf (b ^^^ (1 <<< s)))
  else if s = 0 then .clean (infoBitsOf b) else .doubleError

end Sys2Proof.Machine
end

