-- ==== Sys2Proof/Machine/Formats.lean ====
section
/-! DEFINITION. The formats of section 1.10: management messages and their envelopes, the cell header, the marker cell.
Each format has the function that forms it and the function that reads it. -/

namespace Sys2Proof.Machine

open Sys2Proof

/-! ### Codes (R19) -/

/-- The code of a message reason. -/
def reasonCode (r : ReasonCode) : Nat :=
  match r with
  | .notTimed => 1 | .departing => 2 | .loop => 3 | .noRecord => 4 | .noRoute => 5 | .uTurn => 6 | .latency => 7
  | .noSlots => 8 | .congested => 9 | .timeout => 10 | .pathLost => 11 | .timeLost => 12 | .capacity => 13
  | .retuneTimeout => 14 | .tooFast => 15 | .busy => 16 | .noPool => 17

/-- The reason a code names, if it is in the reason table. -/
def reasonOf (n : Nat) : Option ReasonCode :=
  match n with
  | 1 => some .notTimed | 2 => some .departing | 3 => some .loop | 4 => some .noRecord | 5 => some .noRoute
  | 6 => some .uTurn | 7 => some .latency | 8 => some .noSlots | 9 => some .congested | 10 => some .timeout
  | 11 => some .pathLost | 12 => some .timeLost | 13 => some .capacity | 14 => some .retuneTimeout | 15 => some .tooFast
  | 16 => some .busy | 17 => some .noPool | _ => none

/-- The code of a timing state. -/
def timingCode (t : TimingState) : Nat :=
  match t with
  | .free => 0 | .acquiring => 1 | .locked => 2 | .holdover => 3

/-- The timing state a code names. -/
def timingOf (n : Nat) : Option TimingState :=
  match n with
  | 0 => some .free | 1 => some .acquiring | 2 => some .locked | 3 => some .holdover | _ => none

/-- The code of a direction. -/
def directionCode (d : Direction) : Nat :=
  match d with
  | .towardOrigin => 0 | .towardTerminus => 1

/-- The direction a code names. -/
def directionOf (n : Nat) : Option Direction :=
  match n with
  | 0 => some .towardOrigin | 1 => some .towardTerminus | _ => none

/-- The frame id a byte names, if it is 0..31. -/
def frameOf (n : Nat) : Option FrameId := if h : n < 32 then some ⟨n, h⟩ else none

/-- The two bytes of a trigger id: origin in bits 12..8, serial in bits 7..0. -/
def triggerIdBits (t : TriggerId) : BitVec 16 := BitVec.ofNat 16 (t.origin.val * 256 + t.serial.toNat)

/-- The trigger id in two bytes; bits 15..13 carry nothing. -/
def triggerIdOf (b : BitVec 16) : TriggerId :=
  ⟨⟨b.toNat / 256 % 32, Nat.mod_lt _ (by decide)⟩, BitVec.ofNat 8 b.toNat⟩

/-- The kind of a message. -/
def msgKind (m : Msg) : MsgKind :=
  match m with
  | .setup _ => .setup | .confirm .. => .confirm | .refuse .. => .refuse | .release .. => .release
  | .break_ .. => .break_ | .retune .. => .retune | .retuneOk .. => .retuneOk | .retuneRefuse .. => .retuneRefuse
  | .retuneCommit .. => .retuneCommit | .retuneAbort .. => .retuneAbort | .announce _ => .announce
  | .trigger _ => .trigger | .cancel _ => .cancel

/-- The code of a message kind. -/
def kindCode (k : MsgKind) : Nat :=
  match k with
  | .setup => 1 | .confirm => 2 | .refuse => 3 | .release => 4 | .break_ => 5 | .retune => 6 | .retuneOk => 7
  | .retuneRefuse => 8 | .retuneCommit => 9 | .retuneAbort => 10 | .announce => 11 | .trigger => 12 | .cancel => 13

/-- The message kind a code names. -/
def kindOf (n : Nat) : Option MsgKind :=
  match n with
  | 1 => some .setup | 2 => some .confirm | 3 => some .refuse | 4 => some .release | 5 => some .break_
  | 6 => some .retune | 7 => some .retuneOk | 8 => some .retuneRefuse | 9 => some .retuneCommit
  | 10 => some .retuneAbort | 11 => some .announce | 12 => some .trigger | 13 => some .cancel | _ => none

/-- The length of a message of a kind, kind and length bytes included. -/
def kindLength (k : MsgKind) : Nat :=
  match k with
  | .setup => 14 | .confirm => 6 | .refuse => 7 | .release => 5 | .break_ => 7 | .retune => 10 | .retuneOk => 5
  | .retuneRefuse => 6 | .retuneCommit => 11 | .retuneAbort => 5 | .announce => 8 | .trigger => 13 | .cancel => 4

/-- The stream a message names (R162). -/
def msgStream (m : Msg) : Option StreamId :=
  match m with
  | .setup m => some m.id
  | .confirm id .. | .refuse id .. | .release id .. | .break_ id .. | .retune id .. | .retuneOk id ..
  | .retuneRefuse id .. | .retuneCommit id .. | .retuneAbort id .. => some id
  | .announce _ | .trigger _ | .cancel _ => none

/-- The trigger a message names (R162). -/
def msgTrigger (m : Msg) : Option TriggerId :=
  match m with
  | .trigger m => some m.id
  | .cancel id => some id
  | .setup _ | .confirm .. | .refuse .. | .release .. | .break_ .. | .retune .. | .retuneOk .. | .retuneRefuse ..
  | .retuneCommit .. | .retuneAbort .. | .announce _ => none

/-- The teardown class (R13). -/
def msgTeardown (m : Msg) : Bool :=
  match m with
  | .confirm .. | .refuse .. | .release .. | .break_ .. | .retuneRefuse .. | .retuneAbort .. => true
  | .setup _ | .retune .. | .retuneOk .. | .retuneCommit .. | .announce _ | .trigger _ | .cancel _ => false

/-! ### Management messages (R19) -/

/-- A Boolean as a bit. -/
def bit (b : Bool) : Nat := if b then 1 else 0

/-- The field bytes of a message, in the order of the formats table. -/
def msgFields (m : Msg) : List Byte :=
  match m with
  | .setup m =>
    bytesOf 2 m.id.toNat ++ bytesOf 1 m.gen.toNat ++ bytesOf 1 m.terminal.val ++ bytesOf 1 m.hop ++
      bytesOf 4 m.rate.toNat ++ [m.sampleBytes, m.cells, m.budget]
  | .confirm id gen h => bytesOf 2 id.toNat ++ bytesOf 1 gen.toNat ++ bytesOf 1 h
  | .refuse id gen r f =>
    bytesOf 2 id.toNat ++ bytesOf 1 gen.toNat ++ bytesOf 1 (reasonCode r) ++ bytesOf 1 f.val
  | .release id gen | .retuneOk id gen | .retuneAbort id gen => bytesOf 2 id.toNat ++ bytesOf 1 gen.toNat
  | .break_ id gen r d =>
    bytesOf 2 id.toNat ++ bytesOf 1 gen.toNat ++ bytesOf 1 (reasonCode r) ++ bytesOf 1 (directionCode d)
  | .retune id gen rate c => bytesOf 2 id.toNat ++ bytesOf 1 gen.toNat ++ bytesOf 4 rate.toNat ++ [c]
  | .retuneRefuse id gen r => bytesOf 2 id.toNat ++ bytesOf 1 gen.toNat ++ bytesOf 1 (reasonCode r)
  | .retuneCommit id gen e => bytesOf 2 id.toNat ++ bytesOf 1 gen.toNat ++ bytesOf 6 e.toNat
  | .announce m =>
    bytesOf 1 m.frame.val ++ [m.serial] ++ bytesOf 1 m.hops ++
      bytesOf 1 (4 * bit m.restart + 2 * bit m.departing + bit m.reference) ++ bytesOf 1 m.priority ++
      bytesOf 1 (timingCode m.timing)
  | .trigger m =>
    bytesOf 2 (triggerIdBits m.id).toNat ++ bytesOf 6 m.fire.epoch.toNat ++ bytesOf 2 m.fire.tick ++ bytesOf 1 m.channel
  | .cancel id => bytesOf 2 (triggerIdBits id).toNat

/-- A management message: kind byte, length byte, fields. -/
def msgBytes (m : Msg) : List Byte :=
  bytesOf 1 (kindCode (msgKind m)) ++ bytesOf 1 (kindLength (msgKind m)) ++ msgFields m

/-- The stream id in the first two field bytes. -/
def fieldStream (f : List Byte) : StreamId := BitVec.ofNat 16 (numberAt f 0 2)

/-- The path generation byte; none above 15. -/
def genAt (f : List Byte) (at_ : Nat) : Option Gen :=
  if numberAt f at_ 1 ≤ 15 then some (BitVec.ofNat 4 (numberAt f at_ 1)) else none

/-- A hop index, hop count or path length byte; none above 30. -/
def hopAt (f : List Byte) (at_ : Nat) : Option Nat :=
  if numberAt f at_ 1 ≤ Figures.maxHops then some (numberAt f at_ 1) else none

/-- A trigger id in a message; none with an origin of 0 or a serial of 0. -/
def fieldTrigger (f : List Byte) : Option TriggerId :=
  let t := triggerIdOf (BitVec.ofNat 16 (numberAt f 0 2))
  if t.origin = 0 ∨ t.serial = 0 then none else some t

/-- The message that a kind and its field bytes give; none when a field is out of the range R11 checks. Bits 7..3 of the flags
byte of an ANNOUNCE, to which the spec gives no meaning, are not read, and are sent as 0 (DESIGN CHOICE, log entry 51). -/
def readFields (k : MsgKind) (f : List Byte) : Option Msg :=
  let id := fieldStream f
  match k with
  | .setup =>
    match genAt f 2, frameOf (numberAt f 3 1), hopAt f 4 with
    | some gen, some terminal, some hop =>
      some (.setup
        { id := id, gen := gen, terminal := terminal, hop := hop, rate := BitVec.ofNat 32 (numberAt f 5 4)
          sampleBytes := byteAt f 9, cells := byteAt f 10, budget := byteAt f 11 })
    | _, _, _ => none
  | .confirm =>
    match genAt f 2, hopAt f 3 with
    | some gen, some h => some (.confirm id gen h)
    | _, _ => none
  | .refuse =>
    match genAt f 2, reasonOf (numberAt f 3 1), frameOf (numberAt f 4 1) with
    | some gen, some r, some x => some (.refuse id gen r x)
    | _, _, _ => none
  | .release => (genAt f 2).map (.release id)
  | .break_ =>
    match genAt f 2, reasonOf (numberAt f 3 1), directionOf (numberAt f 4 1) with
    | some gen, some r, some d => some (.break_ id gen r d)
    | _, _, _ => none
  | .retune => (genAt f 2).map fun gen => .retune id gen (BitVec.ofNat 32 (numberAt f 3 4)) (byteAt f 7)
  | .retuneOk => (genAt f 2).map (.retuneOk id)
  | .retuneRefuse =>
    match genAt f 2, reasonOf (numberAt f 3 1) with
    | some gen, some r => some (.retuneRefuse id gen r)
    | _, _ => none
  | .retuneCommit => (genAt f 2).map fun gen => .retuneCommit id gen (BitVec.ofNat 48 (numberAt f 3 6))
  | .retuneAbort => (genAt f 2).map (.retuneAbort id)
  | .announce =>
    match frameOf (numberAt f 0 1), hopAt f 2, timingOf (numberAt f 5 1) with
    | some x, some hops, some t =>
      if numberAt f 4 1 ≤ 15 then
        some (.announce
          { frame := x, serial := byteAt f 1, hops := hops, restart := (byteAt f 3).getLsbD 2
            departing := (byteAt f 3).getLsbD 1, reference := (byteAt f 3).getLsbD 0, priority := numberAt f 4 1
            timing := t })
      else none
    | _, _, _ => none
  | .trigger =>
    match fieldTrigger f with
    | some t =>
      if numberAt f 8 2 ≤ 8191 ∧ numberAt f 10 1 ≤ 7 then
        some (.trigger
          { id := t, fire := ⟨BitVec.ofNat 48 (numberAt f 2 6), numberAt f 8 2⟩, channel := numberAt f 10 1 })
      else none
    | none => none
  | .cancel => (fieldTrigger f).map .cancel

/-- What the engine makes of one envelope (R11). -/
inductive Envelope where
  | message (m : Msg)
  | malformed (kind : Option MsgKind) (stream : Option StreamId) (trigger : Option TriggerId)
  deriving DecidableEq, Repr

/-- Whether messages of a kind begin with a stream id. -/
def namesStream (k : MsgKind) : Bool :=
  match k with
  | .announce | .trigger | .cancel => false
  | .setup | .confirm | .refuse | .release | .break_ | .retune | .retuneOk | .retuneRefuse | .retuneCommit
  | .retuneAbort => true

/-- Whether messages of a kind begin with a trigger id. -/
def namesTrigger (k : MsgKind) : Bool :=
  match k with
  | .trigger | .cancel => true
  | .announce | .setup | .confirm | .refuse | .release | .break_ | .retune | .retuneOk | .retuneRefuse | .retuneCommit
  | .retuneAbort => false

/-- One envelope of a known length (R11, cases 2 and 3). A message malformed by its length names no stream and no trigger in
its capture, and one with a field out of range names the one its field bytes give (DESIGN CHOICE, log entry 51: R11 does not
say which are named). -/
def readEnvelope (bs : List Byte) : Envelope :=
  match kindOf (numberAt bs 0 1) with
  | none => .malformed none none none
  | some k =>
    let f := (bs.take (kindLength k)).drop 2
    if numberAt bs 1 1 = kindLength k then
      match readFields k f with
      | some m => .message m
      | none =>
        .malformed (some k) (if namesStream k then some (fieldStream f) else none)
          (if namesTrigger k then some (triggerIdOf (BitVec.ofNat 16 (numberAt f 0 2))) else none)
    else .malformed (some k) none none

/-- Reads `count` envelopes in turn. An envelope whose length byte is below 2, above 28 or runs past the payload ends the
reading with one malformed message (R11, case 1). -/
def readEnvelopes (count : Nat) (bs : List Byte) : List Envelope :=
  match count with
  | 0 => []
  | n + 1 =>
    let len := numberAt bs 1 1
    if bs.length < 2 ∨ len < 2 ∨ 28 < len ∨ bs.length < len then
      [.malformed (if bs = [] then none else kindOf (numberAt bs 0 1)) none none]
    else readEnvelope bs :: readEnvelopes n (bs.drop len)

/-! ### Cells (R19) -/

/-- The kinds of a cell (R19). -/
inductive CellKind where
  | data | fill | marker | mgmt
  deriving DecidableEq, Repr

/-- The code of a cell kind. -/
def CellKind.code (k : CellKind) : Nat :=
  match k with
  | .data => 0 | .fill => 1 | .marker => 2 | .mgmt => 3

/-- The cell kind in bits 7..6 of a cell's first byte. -/
def cellKindOf (n : Nat) : CellKind :=
  match n with
  | 0 => .data | 1 => .fill | 2 => .marker | _ => .mgmt

/-- The header of a cell, without its check. -/
structure CellHeader where
  kind : CellKind
  poison : Bool
  late : Bool
  gen : Gen
  id : StreamId
  sequence : Seq
  originEpoch : Seq
  samples : Byte
  slot : Byte
  deriving DecidableEq, Repr

/-- The nine header bytes that the header check is taken over. -/
def headerBody (h : CellHeader) : List Byte :=
  bytesOf 1 (h.kind.code * 64 + bit h.poison * 32 + bit h.late * 16 + h.gen.toNat) ++ bytesOf 2 h.id.toNat ++
    bytesOf 2 h.sequence.toNat ++ bytesOf 2 h.originEpoch.toNat ++ [h.samples, h.slot]

/-- The 116 payload bytes: bytes beyond are dropped, missing ones are 0. -/
def padPayload (p : List Byte) : List Byte :=
  (p ++ List.replicate Figures.payloadBytes 0).take Figures.payloadBytes

/-- A whole cell of 128 bytes, both checks computed afresh. -/
def cellBytes (h : CellHeader) (payload : List Byte) : List Byte :=
  let body := headerBody h
  let pay := padPayload payload
  body ++ [crc8 body] ++ pay ++ bytesOf 2 (crc16 pay).toNat

/-- The header of a received cell. -/
def readHeader (bs : List Byte) : CellHeader :=
  let b := byteAt bs 0
  { kind := cellKindOf (b.toNat / 64), poison := b.getLsbD 5, late := b.getLsbD 4, gen := b.setWidth 4
    id := BitVec.ofNat 16 (numberAt bs 1 2), sequence := BitVec.ofNat 16 (numberAt bs 3 2)
    originEpoch := BitVec.ofNat 16 (numberAt bs 5 2), samples := byteAt bs 7, slot := byteAt bs 8 }

/-- The header check of a received cell is right; it needs the ten header bytes. -/
def headerCheckOk (bs : List Byte) : Bool :=
  decide (10 ≤ bs.length) && (crc8 (bs.take 9) == byteAt bs 9)

/-- The payload of a received cell. -/
def readPayload (bs : List Byte) : List Byte := (bs.drop 10).take Figures.payloadBytes

/-- The payload check of a received cell is right. -/
def payloadCheckOk (bs : List Byte) : Bool :=
  (crc16 (readPayload bs)).toNat == numberAt bs 126 2

/-- The payload of a management cell: the message count, then the messages without gaps (R19). -/
def managementPayload (ms : List Msg) : List Byte :=
  bytesOf 1 ms.length ++ (ms.map msgBytes).flatten

/-- A management cell (R12, R19). -/
def managementCell (ms : List Msg) : List Byte :=
  cellBytes
    { kind := .mgmt, poison := false, late := false, gen := 0, id := 0, sequence := 0, originEpoch := 0, samples := 0
      slot := 1 } (managementPayload ms)

/-- A FILL cell of a slot for a record's generation (R17). -/
def fillCell (gen : Gen) (slot : Nat) : List Byte :=
  cellBytes
    { kind := .fill, poison := false, late := false, gen := gen, id := 0, sequence := 0, originEpoch := 0, samples := 0
      slot := BitVec.ofNat 8 slot } []

/-- A DATA cell as a slot sends it: fields as held, late flag clear (R17). -/
def dataCell (c : QueuedCell) (slot : Nat) : List Byte :=
  cellBytes
    { kind := .data, poison := c.poison, late := false, gen := c.gen, id := c.id, sequence := c.sequence
      originEpoch := c.originEpoch, samples := c.samples, slot := BitVec.ofNat 8 slot } c.payload

/-! ### Markers (R20) -/

/-- The contents of a marker, but for its info byte. -/
structure Marker where
  epoch : Epoch
  frame : FrameId
  port : BitVec 3
  tx : Stamp
  echoTx : Stamp
  echoRx : Stamp
  timing : TimingState
  echoValid : Bool
  master : Bool
  priority : Nat
  deriving DecidableEq, Repr

/-- The 19 bytes of a marker that its check is taken over. -/
def markerBody (m : Marker) (i : InfoBits) : List Byte :=
  bytesOf 1 128 ++ [infoByte i] ++ bytesOf 6 m.epoch.toNat ++ bytesOf 1 (m.frame.val * 8 + m.port.toNat) ++
    bytesOf 3 m.tx.toNat ++ bytesOf 3 m.echoTx.toNat ++ bytesOf 3 m.echoRx.toNat ++
    bytesOf 1 (timingCode m.timing * 64 + bit m.echoValid * 32 + bit m.master * 16 + m.priority)

/-- The 21 bytes of a marker after its preamble. -/
def markerBytes (m : Marker) (i : InfoBits) : List Byte :=
  markerBody m i ++ bytesOf 2 (crc16 (markerBody m i)).toNat

/-- The fields of a received marker. -/
def readMarker (bs : List Byte) : Marker :=
  let b8 := byteAt bs 8
  let b18 := byteAt bs 18
  { epoch := BitVec.ofNat 48 (numberAt bs 2 6), frame := ⟨b8.toNat / 8 % 32, Nat.mod_lt _ (by decide)⟩
    port := b8.setWidth 3, tx := BitVec.ofNat 24 (numberAt bs 9 3), echoTx := BitVec.ofNat 24 (numberAt bs 12 3)
    echoRx := BitVec.ofNat 24 (numberAt bs 15 3), timing := (timingOf (b18.toNat / 64)).getD .free
    echoValid := b18.getLsbD 5, master := b18.getLsbD 4, priority := b18.toNat % 16 }

end Sys2Proof.Machine
end

