-- ==== Sys2Proof/Machine/Operands.lean ====
section
/-! DEFINITION. What requests and messages mean by their numbers: names of ports, lanes and inputs, clamped values, the
stream arithmetic of R100 and R101, the delay arithmetic of R58 to R61. -/

namespace Sys2Proof.Machine

open Sys2Proof

/-- The port a byte names, if it is 0..5 (R32). -/
def portOf (b : Byte) : Option PortId := if h : b.toNat < 6 then some ⟨b.toNat, h⟩ else none

/-- The lane a byte names, if it is 0..15 (R115). -/
def laneOf (b : Byte) : Option LaneId := if h : b.toNat < 16 then some ⟨b.toNat, h⟩ else none

/-- The trigger input a byte names, if it is 0..3 (R89). -/
def inputOf (b : Byte) : Option InputId := if h : b.toNat < 4 then some ⟨b.toNat, h⟩ else none

/-- The notice kind an index names, if it is 0..6 (R172). -/
def noticeOf (b : Byte) : Option NoticeKind := allNotices[b.toNat]?

/-- The sink mode a choice byte names (R148). -/
def modeOf (b : Byte) : Option SinkMode :=
  match b.toNat with
  | 0 => some .continuous | 1 => some .paced | 2 => some .single | _ => none

/-- A value clamped to the nearest end of a range (R172). -/
def clamp (lo hi n : Nat) : Nat := max lo (min n hi)

/-- A frame id value above 31 is taken as 31 (R172). -/
def clampFrame (v : BitVec 16) : FrameId := ⟨min v.toNat 31, by omega⟩

/-- The frame id in a stream id (R19). -/
def streamOrigin (id : StreamId) : Nat := id.toNat / 2048

/-- The serial in a stream id (R19). -/
def streamSerial (id : StreamId) : Nat := id.toNat % 2048

/-- The stream id of a frame and a serial (R97). -/
def streamIdOf (f : FrameId) (serial : Nat) : StreamId := BitVec.ofNat 16 (f.val * 2048 + serial)

/-! ### Demand (R100) -/

/-- The permitted sample sizes. -/
def sampleSizes : List Nat := [1, 2, 3, 4, 6, 8, 12, 16]

/-- Samples per epoch: S = ⌈r × 256 / 25,000,000⌉ + 1. -/
def samplesPerEpoch (rate : Nat) : Nat := (rate * 256 + 24999999) / 25000000 + 1

/-- Samples per cell: k = ⌊116 / b⌋. -/
def samplesPerCell (bytes : Nat) : Nat := Figures.payloadBytes / bytes

/-- Cells per epoch: C = ⌈S / k⌉. -/
def demand (rate bytes : Nat) : Nat :=
  (samplesPerEpoch rate + samplesPerCell bytes - 1) / samplesPerCell bytes

/-! ### Usable slots (R101) -/

/-- U for a reported delay d: s_max − 1 with s_max = min(61, ⌊(7936 − d) / 128⌋), and 0 when s_max is below 2. -/
def usableFor (d : Nat) : Nat :=
  let top := min 61 ((Figures.slotsTicks - d) / Figures.slotTicks)
  if top < 2 then 0 else top - 1

/-! ### Delay records (R58 to R61) -/

/-- The reported delay d = ⌊(d16 + 8) / 16⌋ (R58). -/
def reportedDelay (d16 : Nat) : Nat := (d16 + 8) / 16

/-- The reported delay of a record, when it is VALID. -/
def delayOf (r : DelayRecord) : Option Nat :=
  match r with
  | .closed | .sampling _ => none
  | .valid _ d16 _ => some (reportedDelay d16)

/-- The usable count U of a port with this delay record; 0 while it is not VALID (R16, R101). -/
def usableCount (r : DelayRecord) : Nat :=
  match delayOf r with
  | none => 0
  | some d => usableFor d

/-- What the four stamps of an accepted marker give (R59): no sample, or x, of which the sample is formed. -/
def roundTrip (t1 t2 t3 t4 : Stamp) : Option Int :=
  let trip := (t4 - t1).toNat
  let hold := (t3 - t2).toNat
  if 2 ^ 23 ≤ trip ∨ 2 ^ 23 ≤ hold then none else some ((trip : Int) - hold)

/-- The sample for x: 0 when x is negative, otherwise the half of x rounded up (R59). -/
def sampleOf (x : Int) : Nat := (x.toNat + 1) / 2

/-- The window with a sample added at the tail; the oldest of five goes (R60). -/
def addSample (window : List Nat) (x : Nat) : List Nat :=
  let w := window ++ [x]
  if 4 < w.length then w.drop 1 else w

/-- The window holds four samples within 2 ticks of each other (R60). -/
def windowAgrees (w : List Nat) : Bool :=
  w.length == 4 && w.all fun a => w.all fun b => decide (a ≤ b + 2)

/-- The delay record after a sample (R60 while OPEN, R61 while VALID). A deviation counts toward a jump, up to 8. -/
def takeSample (r : DelayRecord) (x : Nat) : DelayRecord :=
  match r with
  | .closed => .closed
  | .sampling w =>
    let w' := addSample w x
    if windowAgrees w' then .valid w' (4 * w'.sum) 0 else .sampling w'
  | .valid w d16 jumps =>
    let d := reportedDelay d16
    if d + 32 < x ∨ x + 32 < d ∨ Figures.maxDelay < x then .valid (addSample w x) d16 (min 8 (jumps + 1))
    else .valid (addSample w x) (((d16 : Int) + Int.tdiv (16 * (x : Int) - d16) 8).toNat) 0

/-! ### Sinks (R146, R147) -/

/-- The reservation R = C × (B − j + 1) of a sink at hop index j (R147). -/
def reservationFor (cells budget hop : Nat) : Nat := cells * (budget + 1 - hop)

/-- The stored threshold for a request's byte: 0 is taken as 1, above 64 as 64 (R148). -/
def clampThreshold (b : Byte) : Nat := clamp 1 64 b.toNat

end Sys2Proof.Machine
end

