-- ==== Sys2Proof/Machine/Flags.lean ====
section
/-! DEFINITION. The part's flags: the notice pending set and ATTN (R175), the capture records with LOST (R161 to R164), and
the lines that follow from state (ATTN, the lane notice lines, the trigger output lines). -/

namespace Sys2Proof.Machine

open Sys2Proof

/-- A block raises a notice: its pending flag is set (R175). -/
def raise (k : NoticeKind) (s : State) : State :=
  { s with req := { s.req with pending := s.req.pending.set k true } }

/-- A notice raised when a condition holds. -/
def raiseIf (b : Bool) (k : NoticeKind) (s : State) : State := if b then raise k s else s

/-- ATTN: some kind has its flag set and a level above the mask (R175); deasserted while the RESET pin is held (R177). -/
def attn (s : State) : Bool :=
  !s.pins.reset &&
    allNotices.any fun k => s.req.pending.get k && decide (s.req.config.noticeMask < s.req.config.noticeLevel.get k)

/-- The effective threshold of a sink: the lesser of its threshold and its R (R146). -/
def effectiveThreshold (k : Sink) : Nat := min k.threshold k.reservation

/-- The lane notice line of a lane (R158); deasserted while the RESET pin is held (R177). -/
def laneNotice (s : State) (l : LaneId) : Bool :=
  !s.pins.reset &&
    s.sinks.any fun k => (k.lane == l) && (decide (effectiveThreshold k ≤ k.released.length) || k.done)

/-- The trigger output lines: a line is high while a pulse covers it (R85); low while the RESET pin is held (R177). -/
def triggerLines (s : State) : Byte :=
  if s.pins.reset then 0 else s.trig.pulses.foldl (fun m p => if 0 < p.left then m ||| p.lines else m) 0

/-! ### Error capture -/

/-- The severity of a kind (R162). -/
def severityOf (k : ErrorKind) : Severity :=
  match k with
  | .markerCorrected | .negativeDelay | .lateSwitch => .soft
  | .markerRejected | .headerBad | .unknownStream | .wrongPort | .staleGen | .payloadBad | .transitOverflow | .protocol
  | .unknown | .format => .data
  | .presenceLost | .markerLoss | .symbolBurst | .delayJump | .resetPort => .link

/-- The weight of a severity (R161). -/
def weight (v : Severity) : Nat :=
  match v with
  | .soft => 0 | .data => 1 | .link => 2

/-- A capture record after an error (R163). -/
def takeInto (r : CaptureRecord) (e : CapturedError) : CaptureRecord :=
  match r.held with
  | none => ⟨some e, r.lost⟩
  | some h => if weight (severityOf h.kind) < weight (severityOf e.kind) then ⟨some e, true⟩ else ⟨some h, true⟩

/-- Whether the error raises the CAPTURE notice: it fills, displaces, or turns LOST from clear to set (R164). -/
def captureNotice (r : CaptureRecord) (e : CapturedError) : Bool :=
  match r.held with
  | none => true
  | some h => decide (weight (severityOf h.kind) < weight (severityOf e.kind)) || !r.lost

/-- An error for the record of a port (R162, R163, R164). -/
def capturePort (p : PortId) (kind : ErrorKind) (slot : Option Nat) (stream : Option StreamId) (detail : Detail)
    (s : State) : State :=
  let e : CapturedError := ⟨kind, s.clock.epoch, slot, stream, detail⟩
  let r := s.captures.port.get p
  raiseIf (captureNotice r e) .capture
    { s with captures := { s.captures with port := s.captures.port.set p (takeInto r e) } }

/-- An error for the lane capture record (R162, R163, R164). -/
def captureLane (kind : ErrorKind) (stream : Option StreamId) (detail : Detail) (s : State) : State :=
  let e : CapturedError := ⟨kind, s.clock.epoch, none, stream, detail⟩
  raiseIf (captureNotice s.captures.lane e) .capture
    { s with captures := { s.captures with lane := takeInto s.captures.lane e } }

/-- An error for the protocol capture record (R162, R163, R164). -/
def captureProtocol (kind : ErrorKind) (stream : Option StreamId) (detail : Detail) (s : State) : State :=
  let e : CapturedError := ⟨kind, s.clock.epoch, none, stream, detail⟩
  raiseIf (captureNotice s.captures.protocol e) .capture
    { s with captures := { s.captures with protocol := takeInto s.captures.protocol e } }

/-- A PROTOCOL capture about a message: cause, kind, port, and the stream or trigger it names (R162). -/
def protocolError (cause : ProtocolCause) (m : Msg) (p : PortId) (s : State) : State :=
  captureProtocol .protocol (msgStream m) (.protocol cause (some (msgKind m)) p (msgTrigger m)) s

end Sys2Proof.Machine
end

