-- ==== Sys2Proof/Machine/Ops.lean ====
section
/-! DEFINITION. The named operations over ports, clock, slot maps, records and sinks that the meanings are built from. -/

namespace Sys2Proof.Machine

open Sys2Proof

/-! ### Ports -/

/-- One port. -/
def State.port (s : State) (p : PortId) : Port := s.ports.get p

/-- The state with one port replaced. -/
def State.setPort (s : State) (p : PortId) (x : Port) : State := { s with ports := s.ports.set p x }

/-- The part's own frame id (R172). -/
def ownFrame (s : State) : FrameId := s.req.config.frameId

/-- The timing state is LOCKED or HOLDOVER: streams may be opened and triggers may fire. -/
def timed (s : State) : Bool := s.time.state == .locked || s.time.state == .holdover

/-- This frame is departing: DEPARTING or DRAINED (section 2.7 of chapter 2). -/
def departing (s : State) : Bool := !(s.swap.departure == .inService)

/-- Ports whose queues take offers: UP, ADMITTED or DRAINING (R13). -/
def takesOffers (x : PortState) : Bool := x == .up || x == .admitted || x == .draining

/-- The ports in UP or ADMITTED, in ascending order (DESIGN CHOICE, log entry 64). -/
def upOrAdmitted (s : State) : List PortId :=
  allPorts.filter fun p => (s.port p).state == .up || (s.port p).state == .admitted

/-- The ports in ADMITTED, in ascending order. R81 to R84 and R88 name no order in which a TRIGGER or CANCEL is offered to
them: P0 to P5 is the model's (DESIGN CHOICE, log entry 64). -/
def admittedPorts (s : State) : List PortId := allPorts.filter fun p => (s.port p).state == .admitted

/-- A change of a port's state, with its reason; a PORT notice is raised (R33). A delay jump found before it no longer
stands: the port is in a state reached since (R30). -/
def changePort (p : PortId) (x : PortState) (reason : Option PortReason) (s : State) : State :=
  raise .port (s.setPort p { s.port p with state := x, reason := reason, jumpStands := false })

/-! ### Port queues (R13 to R15) -/

/-- The answer to an offer (R13). -/
inductive Offer where
  | taken | full | noPort
  deriving DecidableEq, Repr

/-- How many messages a protocol queue may hold for this one to be taken (R13). -/
def protocolRoom (m : Msg) : Nat :=
  if msgTeardown m then Figures.protocolQueueSize else Figures.protocolQueueCommon

/-- The answer of a port's protocol queue to a message (R13). -/
def protocolAnswer (s : State) (p : PortId) (m : Msg) : Offer :=
  if !takesOffers (s.port p).state then .noPort
  else if (s.port p).protocolQueue.length < protocolRoom m then .taken
  else .full

/-- The message joins the tail of the port's protocol queue when the queue takes it; other answers change nothing. -/
def joinProtocol (p : PortId) (m : Msg) (s : State) : State :=
  if protocolAnswer s p m = .taken then
    s.setPort p { s.port p with protocolQueue := (s.port p).protocolQueue ++ [m] }
  else s

/-- An offer of a message whose FULL answer drops it with a PROTOCOL capture (R13, R14). -/
def send (p : PortId) (m : Msg) (s : State) : State :=
  match protocolAnswer s p m with
  | .taken => joinProtocol p m s
  | .full => protocolError .queueDrop m p s
  | .noPort => s

/-- An offer on a side that may not exist: a message bound for no side is not sent (R93). -/
def sendSide (side : Option PortId) (m : Msg) (s : State) : State :=
  match side with
  | some p => send p m s
  | none => s

/-- Whether a queued message is an ANNOUNCE for a frame. -/
def announces (x : FrameId) (m : Msg) : Bool :=
  match m with
  | .announce a => a.frame == x
  | .setup _ | .confirm .. | .refuse .. | .release .. | .break_ .. | .retune .. | .retuneOk .. | .retuneRefuse ..
  | .retuneCommit .. | .retuneAbort .. | .trigger _ | .cancel _ => false

/-- A flood queue after an ANNOUNCE: it replaces the queued one for the same frame in its place, or joins the tail, or is
dropped by a full queue (R15). -/
def floodAnnounce (a : AnnounceMsg) (q : List Msg) : List Msg :=
  if q.any (announces a.frame) then q.map fun m => if announces a.frame m then .announce a else m
  else if q.length < Figures.floodQueueSize then q ++ [.announce a]
  else q

/-- An ANNOUNCE offered to a port's flood queue (R13, R15). -/
def offerAnnounce (a : AnnounceMsg) (p : PortId) (s : State) : State :=
  if takesOffers (s.port p).state then
    s.setPort p { s.port p with floodQueue := floodAnnounce a (s.port p).floodQueue }
  else s

/-- A TRIGGER or CANCEL offered to a port's flood queue; a full queue drops it with a PROTOCOL capture (R15). -/
def offerFlood (m : Msg) (p : PortId) (s : State) : State :=
  if !takesOffers (s.port p).state then s
  else if (s.port p).floodQueue.length < Figures.floodQueueSize then
    s.setPort p { s.port p with floodQueue := (s.port p).floodQueue ++ [m] }
  else protocolError .queueDrop m p s

/-- One offer after another, in the order of the list; the order of the ports is the model's (DESIGN CHOICE, log entry 64). -/
def offerAll (offer : PortId → State → State) (ps : List PortId) (s : State) : State :=
  ps.foldl (fun s p => offer p s) s

/-! ### The clock (R56, R57, R72) -/

/-- The full length of the current epoch: 7936 ticks and its gap, taken as 256 until the gap begins (R56, R68). -/
def epochLength (c : Clock) : Nat :=
  Figures.slotsTicks + (match c.gap with | some g => g.length | none => Figures.nominalGap)

/-- The rack time `n` ticks ago, which may lie in the epoch before. -/
def ticksAgo (s : State) (n : Nat) : RackTime :=
  if n ≤ s.clock.tick then ⟨s.clock.epoch, s.clock.tick - n⟩
  else
    match s.clock.past with
    | some q => ⟨q.number, q.length - (n - s.clock.tick)⟩
    | none => ⟨s.clock.epoch, 0⟩

/-- The current rack time. -/
def now (s : State) : RackTime := ⟨s.clock.epoch, s.clock.tick⟩

/-- The least whole number k for which u + 8192 k is at least 7936 (R72). -/
def stepPeriods (u : Int) : Int := (7936 - u + 8191) / 8192

/-- The gap fixed from what is pending (R57, R72). -/
def planGap (a : Option Adjustment) : Gap :=
  match a with
  | none => ⟨Figures.nominalGap, none⟩
  | some (.correction c) => ⟨((Figures.nominalGap : Int) + c).toNat, none⟩
  | some (.step u n) => ⟨(u + 8192 * stepPeriods u - 7936).toNat, some (n + BitVec.ofInt 48 (stepPeriods u))⟩

/-- What a port sends where neither marker nor cell is called for (R1). -/
def quietWire (x : PortState) : Wire :=
  match x with
  | .down => .nothing
  | .training => .trainingPattern
  | .probing | .up | .admitted | .draining | .fault => .idleSymbols

/-! ### Stream records -/

/-- The record at an index. -/
def recordAt (s : State) (i : Nat) : Option StreamRecord := s.streams.records.find? fun r => r.index == i

/-- The stream index: the record that holds a stream id (R96). -/
def recordOf (s : State) (id : StreamId) : Option StreamRecord := s.streams.records.find? fun r => r.id == id

/-- The state with a new list of records. -/
def State.setRecords (s : State) (rs : List StreamRecord) : State := { s with streams := { s.streams with records := rs } }

/-- A change of the record at an index, by a function that keeps the index. -/
def editRecord (i : Nat) (f : StreamRecord → StreamRecord) (s : State) : State :=
  s.setRecords (s.streams.records.map fun r => if r.index = i then f r else r)

/-- A change of a record's state, reason or slots held: its changed mark is set and a STREAM notice is raised (R94). -/
def changeRecord (i : Nat) (f : StreamRecord → StreamRecord) (s : State) : State :=
  raise .stream (editRecord i (fun r => { f r with changed := true }) s)

/-- The lowest free record index (R96). -/
def freeIndex (s : State) : Option Nat :=
  (List.range Figures.streamRecords).find? fun i => s.streams.records.all fun r => r.index != i

/-- A record put at its place in index order. -/
def insertRecord (r : StreamRecord) (rs : List StreamRecord) : List StreamRecord :=
  match rs with
  | [] => [r]
  | x :: rest => if r.index < x.index then r :: x :: rest else x :: insertRecord r rest

/-- The port toward the origin (R93). -/
def upstream (r : StreamRecord) : Option PortId :=
  match r.ingress with
  | .port p => some p
  | .lane _ => none

/-- The port toward the terminus (R93). -/
def downstream (r : StreamRecord) : Option PortId := r.egress

/-- ORIGIN is among the record's roles (R93). -/
def isOrigin (r : StreamRecord) : Bool := r.role == .origin || r.role == .loopback

/-! ### Slot maps (R16, R102) -/

/-- The slots of a map that name a record, ascending: its slot list (R92). -/
def slotsNaming (i : Nat) (m : List SlotEntry) : List Nat := (m.filter fun e => e.record == i).map (·.slot)

/-- The slot list of a record: the entries of its egress port's map that name it (R92, R102). -/
def slotList (s : State) (r : StreamRecord) : List Nat :=
  match r.egress with
  | some p => slotsNaming r.index (s.port p).slotMap
  | none => []

/-- Slots held (R92). -/
def slotsHeld (s : State) (r : StreamRecord) : Nat := (slotList s r).length

/-- An entry put at its place in slot order. -/
def insertSlot (e : SlotEntry) (m : List SlotEntry) : List SlotEntry :=
  match m with
  | [] => [e]
  | x :: rest => if e.slot < x.slot then e :: x :: rest else x :: insertSlot e rest

/-- The free entries in 2..U + 1, ascending (R102). -/
def freeSlots (u : Nat) (m : List SlotEntry) : List Nat :=
  (List.range' 2 u).filter fun n => m.all fun e => e.slot != n

/-- The `n` lowest free entries in 2..U + 1 are made to name the record (R102). -/
def assignIn (n i u : Nat) (m : List SlotEntry) : List SlotEntry :=
  ((freeSlots u m).take n).foldl (fun m slot => insertSlot ⟨slot, i⟩ m) m

/-- The record's highest-numbered slots are freed until it holds `k` (R102). -/
def keepSlots (k i : Nat) (m : List SlotEntry) : List SlotEntry :=
  match m with
  | [] => []
  | e :: rest =>
    if e.record = i then
      match k with
      | 0 => keepSlots 0 i rest
      | k + 1 => e :: keepSlots k i rest
    else e :: keepSlots k i rest

/-- The free usable count of a port: U less the entries that name records (R103). -/
def freeUsable (s : State) (p : PortId) : Nat := usableCount (s.port p).delay - (s.port p).slotMap.length

/-- The state with a port's slot map replaced. -/
def State.setSlotMap (s : State) (p : PortId) (m : List SlotEntry) : State :=
  s.setPort p { s.port p with slotMap := m }

/-- Assigning `n` slots to a record on its egress port (R102). -/
def assignSlots (i n : Nat) (s : State) : State :=
  match (recordAt s i).bind (·.egress) with
  | some p => s.setSlotMap p (assignIn n i (usableCount (s.port p).delay) (s.port p).slotMap)
  | none => s

/-- Releasing a record's slots down to `k`; a change of slots held marks the record and raises STREAM (R94, R102). -/
def releaseSlots (i k : Nat) (s : State) : State :=
  match (recordAt s i).bind (·.egress) with
  | some p =>
    let t := s.setSlotMap p (keepSlots k i (s.port p).slotMap)
    if k < (slotsNaming i (s.port p).slotMap).length then changeRecord i id t else t
  | none => s

/-! ### Sinks (R146 to R150) -/

/-- The sink at an index. -/
def sinkAt (s : State) (k : Nat) : Option Sink := s.sinks.find? fun x => x.index == k

/-- The lowest free sink index (R146). -/
def freeSink (s : State) : Option Nat :=
  (List.range Figures.sinkEntries).find? fun k => s.sinks.all fun x => x.index != k

/-- A sink put at its place in index order. -/
def insertSink (x : Sink) (ks : List Sink) : List Sink :=
  match ks with
  | [] => [x]
  | y :: rest => if x.index < y.index then x :: y :: rest else y :: insertSink x rest

/-- The sum of the reservations of some sinks (R147). -/
def reservedBy (ks : List Sink) : Nat := (ks.map (·.reservation)).sum

/-- The sum of all reservations (R147). -/
def reservedCells (s : State) : Nat := reservedBy s.sinks

/-- A SINK notice is due: DONE or OVERRUN went from clear to set, or the sink became HALTED (R158). -/
def sinkNotice (old new : Sink) : Bool :=
  (!old.done && new.done) || (!old.overrun && new.overrun) || (old.state != .halted && new.state == .halted)

/-- A change of the sink at an index, by a function that keeps the index, with the SINK notice it calls for (R158). -/
def changeSink (k : Nat) (f : Sink → Sink) (s : State) : State :=
  raiseIf (s.sinks.any fun x => x.index == k && sinkNotice x (f x)) .sink
    { s with sinks := s.sinks.map fun x => if x.index = k then f x else x }

/-- A sink leaves the table and its record's list; its cells and its reservation go with it (R149). -/
def dropSink (k : Nat) (s : State) : State :=
  { s with
    sinks := s.sinks.filter fun x => x.index != k
    streams :=
      { s.streams with
        records := s.streams.records.map fun r => { r with sinks := r.sinks.filter fun j => j != k } } }

/-- A detachment that no DETACH_SINK asked for: it raises a SINK notice (R149, R158). -/
def detachSink (k : Nat) (s : State) : State := raise .sink (dropSink k s)

/-- The list without its last cell. -/
def dropNewest {α : Type} (n : Nat) (q : List α) : List α := q.take (q.length - n)

/-- The cell of highest sequence of a list, by signed modular comparison (R151). The list is read from its first cell: the
cell found so far stands only where its sequence is ahead of the next one's. That settles the lists in which no cell is ahead
of all others (DESIGN CHOICE, log entry 65). -/
def highestCell (q : List SinkCell) : Option SinkCell :=
  match q with
  | [] => none
  | c :: rest => some (rest.foldl (fun best x => if ahead best.sequence x.sequence then best else x) c)

/-- One cell leaves a sink, from the list that holds it. -/
def discardCell (c : SinkCell) (x : Sink) : Sink :=
  if c ∈ x.held then { x with held := x.held.erase c } else { x with released := x.released.erase c }

/-- The `n` cells of highest sequence go, one by one, from whichever list holds them, wherever they stand in it: the released
list need not be in sequence order (R147; log entry 61). -/
def trimCells (n : Nat) (x : Sink) : Sink :=
  match n with
  | 0 => x
  | n + 1 =>
    match highestCell (x.released ++ x.held) with
    | none => x
    | some c => trimCells n (discardCell c x)

/-- Pool cells a sink occupies. -/
def occupied (x : Sink) : Nat := x.held.length + x.released.length

/-- A sink with a new reservation. When it falls below the cells held, the newest are discarded and OVERRUN is set
(R147). -/
def withReservation (r : Nat) (x : Sink) : Sink :=
  let x := { x with reservation := r }
  if r < occupied x then { trimCells (occupied x - r) x with overrun := true } else x

/-- The sinks of a record. -/
def sinksOf (s : State) (i : Nat) : List Sink := s.sinks.filter fun x => x.record == i

/-- All sinks of a record take the reservation for `cells` at the record's budget and their hop index (R150). -/
def reserveSinks (r : StreamRecord) (cells : Nat) (s : State) : State :=
  r.sinks.foldl (fun s k => changeSink k (fun x => withReservation (reservationFor cells r.budget x.hop) x) s) s

/-- The record's sinks can be given the reservations for `cells` within the pool (R127, R128, R150). -/
def poolAdmits (s : State) (r : StreamRecord) (cells : Nat) : Bool :=
  decide
    (reservedBy (s.sinks.filter fun x => !r.sinks.contains x.index) +
        (((s.sinks.filter fun x => r.sinks.contains x.index).map fun x => reservationFor cells r.budget x.hop).sum) ≤
      Figures.poolCells)

/-- The record's sinks take a settle epoch (R150). -/
def setSettle (r : StreamRecord) (e : Option Epoch) (s : State) : State :=
  r.sinks.foldl (fun s k => changeSink k (fun x => { x with settle := e }) s) s

/-- Some sink of the record holds a settle epoch (R127, R128, R148). -/
def settlePending (s : State) (r : StreamRecord) : Bool :=
  s.sinks.any fun x => r.sinks.contains x.index && x.settle.isSome

/-! ### Answers -/

/-- The answer of a request leaves on SPI (R168). -/
def answer (status : Status) (body : Body) (s : State) : State :=
  { s with req := { s.req with spi := .response ⟨status, none, body⟩ } }

/-- A REFUSED answer with its reason (R170). -/
def refuseWith (r : RefusalReason) (s : State) : State :=
  { s with req := { s.req with spi := .response ⟨.refused, some r, .empty⟩ } }

/-- A request outside of reset: its effect. While the RESET pin is held or power comes up, nothing is taken and every byte
sent is all ones (R177). -/
def request (s : State) (effect : State → State) : Host.Outcome State Fault Refusal :=
  .next (if s.pins.reset then { s with req := { s.req with spi := .allOnes } } else effect s)

/-- Any other command outside of reset: its effect. While the RESET pin is held or power comes up, it changes nothing
(R177). -/
def event (s : State) (effect : State → State) : Host.Outcome State Fault Refusal :=
  .next (if s.pins.reset then s else effect s)

/-- A message is taken by its block: it leaves the messages passed on, if it waited there (R10). -/
def takeMessage (p : PortId) (m : Msg) (s : State) : State := { s with inbox := s.inbox.erase ⟨p, m⟩ }

end Sys2Proof.Machine
end

