-- ==== Sys2Proof/Machine/Delivery.lean ====
section
/-! DEFINITION. The Delivery Unit: a copy reaching a sink (R151, R152), presentation (R153), blocks (R154), modes (R155,
R156), and what the Trigger Scheduler reports to waiting sinks. -/

namespace Sys2Proof.Machine

open Sys2Proof

/-- The low 16 bits of the epoch number (R153). -/
def epochLow (s : State) : Seq := s.clock.epoch.setWidth 16

/-- The trigger entry that holds an id. -/
def triggerAt (s : State) (id : TriggerId) : Option TriggerEntry := s.trig.table.find? fun e => e.id == id

/-- A trigger that can start a sink: held by the table as ARMED or FIRED (R148, R156). -/
def canStart (e : TriggerEntry) : Bool :=
  match e.state with
  | .armed | .fired _ => true
  | .missed _ | .cancelled => false

/-- A sink's start for a named trigger: LOST at once unless the table holds it as ARMED or FIRED (R148, R156). -/
def startFor (s : State) (named : Option TriggerId) : SinkStart :=
  match named with
  | none => .first
  | some id =>
    match triggerAt s id with
    | some e => if canStart e then .trigger id else .lost
    | none => .lost

/-- Reports that a trigger became MISSED or CANCELLED or left the table: waiting sinks with that start have LOST it, with
a SINK notice (R156). -/
def reportTrigger (id : TriggerId) (s : State) : State :=
  let hit (x : Sink) : Bool := x.state == .waiting && x.start == some (.trigger id)
  raiseIf (s.sinks.any hit) .sink
    { s with sinks := s.sinks.map fun x => if hit x then { x with start := some .lost } else x }

/-! ### Blocks and releases -/

/-- The last sequence of a block that starts at `b` (R154). -/
def lastSequence (b : Seq) (x : Sink) : Seq := b + BitVec.ofNat 16 (x.blockSize - 1)

/-- The start of the block, counted in whole block sizes from `b`, that follows a whole completion by `q` or contains the
sequence `q` that closed the block short, be `q` the last of that block too (R154; DESIGN CHOICE, log entry 73). -/
def nextBlock (b q : Seq) (x : Sink) : Seq :=
  if q = lastSequence b x then b + BitVec.ofNat 16 x.blockSize
  else b + BitVec.ofNat 16 (x.blockSize * ((q - b).toNat / x.blockSize))

/-- The cell joins the released list; a late cell is counted (R153). -/
def intoReleased (late : Bool) (c : SinkCell) (x : Sink) : Sink :=
  { x with
    released := x.released ++ [{ c with late := late }]
    lateCount := if late then saturate (x.lateCount + 1) else x.lateCount }

/-- The sink becomes HALTED and discards every cell left in its held list (R155). -/
def halt (x : Sink) : Sink := { x with state := .halted, held := [] }

/-- A completion halts a PACED sink whose DONE is already set, and a SINGLE sink (R155, R156). -/
def haltsOn (x : Sink) : Bool :=
  match x.mode with
  | .continuous => false
  | .paced => x.done
  | .single => true

/-- One release with its block accounting (R153 to R156). A HALTED sink discards the cell. A sequence exactly 32768 from the
last sequence is not behind it and closes the block short (DESIGN CHOICE, log entry 71). A cell that closes a block short
completes that block alone, also where it is the last sequence of the block that it lies in (DESIGN CHOICE, log entry 73). -/
def releaseCell (late : Bool) (c : SinkCell) (x : Sink) : Sink :=
  if x.state = .halted then x
  else
    match x.blockStart with
    | none => intoReleased late c x
    | some b =>
      if ahead (lastSequence b x) c.sequence then intoReleased late c x
      else
        let y := { x with done := true, blockStart := some (nextBlock b c.sequence x) }
        if haltsOn x then
          if c.sequence = lastSequence b x then halt (intoReleased late c y) else halt y
        else intoReleased late c y

/-- The release epoch of a cell: its origin epoch plus B, modulo 65536 (R153). -/
def releaseEpoch (budget : Nat) (c : SinkCell) : Seq := c.originEpoch + BitVec.ofNat 16 budget

/-- How far a cell's release epoch lies ahead of the current epoch; 0 when it is not ahead. -/
def releaseIn (low : Seq) (budget : Nat) (c : SinkCell) : Nat :=
  if ahead (releaseEpoch budget c) low then (releaseEpoch budget c - low).toNat else 0

/-- A cell stays held while its release epoch is ahead by 1..32 (R153). -/
def staysHeld (low : Seq) (budget : Nat) (c : SinkCell) : Bool :=
  decide (1 ≤ releaseIn low budget c ∧ releaseIn low budget c ≤ 32)

/-- The releases at the start of an epoch (R153): every held cell whose release epoch is not ahead moves, in sequence
order, and one whose release epoch is ahead by more than 32 moves as a late cell. Where the release epochs do not follow the
sequences, a cell that is due moves before one of lower sequence that is not (DESIGN CHOICE, log entry 61). -/
def releaseDue (low : Seq) (budget : Nat) (x : Sink) : Sink :=
  let due := x.held.filter fun c => !staysHeld low budget c
  due.foldl (fun x c => releaseCell (decide (32 < releaseIn low budget c)) c x)
    { x with held := x.held.filter (staysHeld low budget) }

/-- A copy that a RUNNING sink takes into the pool (R153): held, or released at once as a late cell with the held cells
of lower sequence before it. -/
def present (low : Seq) (budget : Nat) (c : SinkCell) (x : Sink) : Sink :=
  if staysHeld low budget c then { x with held := x.held ++ [{ c with late := false }] }
  else
    let x := x.held.foldl (fun x c => releaseCell false c x) { x with held := [] }
    releaseCell true c x

/-- A copy at a RUNNING sink (R152). A sequence exactly 32768 from the block start is not behind it (DESIGN CHOICE, log entry
71). -/
def runningCopy (low : Seq) (budget : Nat) (c : SinkCell) (x : Sink) : Sink :=
  if x.blockStart.any fun b => ahead b c.sequence then x
  else if x.reservation ≤ occupied x then { x with overrun := true }
  else present low budget c { x with blockStart := some (x.blockStart.getD c.sequence) }

/-- Whether a copy starts a WAITING sink (R156). An origin epoch exactly 32768 from the fire epoch is not behind it (DESIGN
CHOICE, log entry 71). -/
def meetsStart (s : State) (x : Sink) (c : SinkCell) : Bool :=
  match x.start with
  | some .first => true
  | some (.trigger id) =>
    match triggerAt s id with
    | some e => canStart e && !(ahead (e.fire.epoch.setWidth 16) c.originEpoch)
    | none => false
  | some .lost | none => false

/-- The sequence test of an arriving copy (R151): none discards it, otherwise the sink with its expected sequence and gap
count brought up to date. A copy 32767 ahead of the expected sequence, which is not ahead of the last accepted one, is accepted
(DESIGN CHOICE, log entry 59: both cases of R151 fit it). -/
def sequenceTest (c : SinkCell) (x : Sink) : Option Sink :=
  let y := { x with expected := some (c.sequence + 1) }
  match x.expected with
  | none => some y
  | some e =>
    if c.sequence = e then some y
    else if ahead c.sequence e then some { y with gapCount := saturate (x.gapCount + (c.sequence - e).toNat) }
    else none

/-- A copy handled by one sink (R151, R152, R156). -/
def takeCopy (s : State) (budget : Nat) (c : SinkCell) (x : Sink) : Sink :=
  match sequenceTest c x with
  | none => x
  | some y =>
    match y.state with
    | .halted => y
    | .running => runningCopy (epochLow s) budget c y
    | .waiting =>
      if meetsStart s y c then
        runningCopy (epochLow s) budget c { y with state := .running, blockStart := some c.sequence }
      else y

/-- Each of the record's sinks receives a copy of a cell (R139, R142). -/
def copyToSinks (r : StreamRecord) (c : SinkCell) (s : State) : State :=
  r.sinks.foldl (fun s k => changeSink k (takeCopy s r.budget c) s) s

/-! ### Acknowledgements -/

/-- The nearest block boundary not behind a sequence, in whole block sizes counted forward, modulo 65536, from the block
start (R155), also for a sequence more than 32767 past it, which by signed comparison lies behind it (DESIGN CHOICE, log entry
62). -/
def boundaryFor (b e : Seq) (size : Nat) : Seq := b + BitVec.ofNat 16 (size * (((e - b).toNat + size - 1) / size))

/-- A sink acknowledged: DONE and OVERRUN clear, and a HALTED PACED sink resumes at a block boundary (R155, R156, R157). -/
def acknowledge (x : Sink) : Sink :=
  let y := { x with done := false, overrun := false }
  if x.mode = .paced ∧ x.state = .halted then
    { y with
      state := .running
      blockStart :=
        match x.blockStart, x.expected with
        | some b, some e => some (boundaryFor b e x.blockSize)
        | b, _ => b }
  else y

end Sys2Proof.Machine
end

