-- ==== Sys2Proof/Machine/Streams.lean ====
section
/-! DEFINITION. The shared operations of the Stream Table and the Path Controller: matching a message, suspension, removal,
activation, the end of a retune, re-pack, and what a port reset, a loss of time and the end of the drain do to every
record. -/

namespace Sys2Proof.Machine

open Sys2Proof

/-! ### Messages of a record (R93) -/

/-- A BREAK of a record. -/
def breakOf (r : StreamRecord) (c : ReasonCode) (d : Direction) : Msg := .break_ r.id r.gen c d

/-- A BREAK toward the origin. -/
def breakUp (r : StreamRecord) (c : ReasonCode) (s : State) : State := sendSide (upstream r) (breakOf r c .towardOrigin) s

/-- A BREAK toward the terminus. Where a record breaks both ways in one event, the BREAK toward the origin is offered first (R104,
R109, R110, R134 list them so; DESIGN CHOICE, log entry 64). -/
def breakDown (r : StreamRecord) (c : ReasonCode) (s : State) : State :=
  sendSide (downstream r) (breakOf r c .towardTerminus) s

/-- A RELEASE toward the terminus. -/
def releaseDown (r : StreamRecord) (s : State) : State := sendSide (downstream r) (.release r.id r.gen) s

/-! ### Matching (R114) -/

/-- The outcome of matching a stream message to a record (R114). -/
inductive Match where
  | unmatched | stale
  | misdirected
  | matched (r : StreamRecord)
  deriving DecidableEq, Repr

/-- The first outcome of R114 that applies. -/
def matchMessage (s : State) (p : PortId) (id : StreamId) (gen : Gen) (d : Direction) : Match :=
  match recordOf s id with
  | none => .unmatched
  | some r =>
    if r.state = .closed then .unmatched
    else if r.gen ≠ gen then .stale
    else
      let facing := match d with | .towardOrigin => downstream r | .towardTerminus => upstream r
      if facing = some p then .matched r else .misdirected

/-- A stream message other than SETUP and CONFIRM: a matched one is handled, a misdirected one is captured, an unmatched or
stale one is ignored (R114). -/
def whenMatched (p : PortId) (m : Msg) (id : StreamId) (gen : Gen) (d : Direction) (handle : StreamRecord → State → State)
    (s : State) : State :=
  match matchMessage s p id gen d with
  | .unmatched | .stale => s
  | .misdirected => protocolError .misdirected m p s
  | .matched r => handle r s

/-! ### Leaving service -/

/-- The reasons of a BREAK or REFUSE, or of the part's own suspensions, that free every slot (R106). -/
def freesSlots (c : ReasonCode) : Bool := c == .capacity || c == .timeLost || c == .departing

/-- The fields of a record that enters SUSPENDED (R106, R126, R137). -/
def suspended (c : ReasonCode) (r : StreamRecord) : StreamRecord :=
  { r with
    state := .suspended, reason := some (.code c), refusing := none, retuneCause := none
    setupTimer := none, retuneTimer := none, staged := none, switchEpoch := none
    suspendTimer := some (r.suspendTimer.getD r.suspendLimit)
    rerouteTimer := if r.source.any (·.autoReroute) then some Figures.rerouteEpochs else none
    queue := [] }

/-- A suspension (R106): `free` says whether the cause leaves no slots. A record already SUSPENDED takes only the slot
consequence. The sinks of a record suspended before its switch settle at once to its C (R131, R150). -/
def suspend (i : Nat) (c : ReasonCode) (free : Bool) (s : State) : State :=
  match recordAt s i with
  | none => s
  | some r =>
    if r.state = .suspended then (if free then releaseSlots i 0 s else s)
    else
      let s := releaseSlots i (if free then 0 else r.cells) (changeRecord i (suspended c) s)
      if r.state = .retuning then setSettle r none (reserveSinks r r.cells s) else s

/-- The record leaves the table (R96): slots freed, sinks detached, queue and index entry gone, a STREAM notice. -/
def removeRecord (i : Nat) (s : State) : State :=
  match recordAt s i with
  | none => s
  | some r =>
    let s := match r.egress with
      | some p => s.setSlotMap p (keepSlots 0 i (s.port p).slotMap)
      | none => s
    let s := r.sinks.foldl (fun s k => detachSink k s) s
    raise .stream (s.setRecords (s.streams.records.filter fun r => r.index != i))

/-- An origin becomes CLOSED: slots released to 0, timers stopped, source queue emptied (R107, R122, R125, R137). -/
def closeRecord (i : Nat) (reason : StreamReason) (refusing : Option FrameId) (s : State) : State :=
  releaseSlots i 0
    (changeRecord i
      (fun r =>
        { r with
          state := .closed, reason := some reason, refusing := refusing, retuneCause := none
          setupTimer := none, retuneTimer := none, suspendTimer := none, rerouteTimer := none, queue := [] }) s)

/-- A record becomes ACTIVE and takes the next activation order; its setup, suspend and reroute retry timers stop and its
queue opens empty (R113, R121, R126, R137). -/
def activate (i : Nat) (pathLength : Option Nat) (s : State) : State :=
  let order := s.streams.activations
  let s := changeRecord i
    (fun r =>
      { r with
        state := .active, activation := some order, pathLength := pathLength
        setupTimer := none, suspendTimer := none, rerouteTimer := none, queue := [] }) s
  { s with streams := { s.streams with activations := order + 1 } }

/-! ### Retune -/

/-- A retune reverts: slots down to C, the staged demand gone, ACTIVE again, sinks back to C (R132, R133, R150). A
transit queue keeps its cells, also above twice the slots then held (DESIGN CHOICE, log entry 57: R136 bounds it, R137 keeps it,
and R132 names no trim). -/
def revertRetune (i : Nat) (s : State) : State :=
  match recordAt s i with
  | none => s
  | some r =>
    reserveSinks r r.cells
      (releaseSlots i r.cells
        (changeRecord i
          (fun r => { r with state := .active, staged := none, switchEpoch := none, retuneTimer := none }) s))

/-- The retune of an origin ends as refused: reverted, with the reason RETUNE_REFUSED and the refusal's code (R95, R132). -/
def refuseRetune (i : Nat) (c : ReasonCode) (s : State) : State :=
  changeRecord i (fun r => { r with reason := some .retuneRefused, refusing := none, retuneCause := some c })
    (revertRetune i s)

/-- One TRANSIT_OVERFLOW capture for each cell that a switch trims from a transit queue (R131, R143), the oldest lost cell first
(DESIGN CHOICE, log entry 55: the spec gives no order). -/
def captureTrim (p : PortId) (cs : List QueuedCell) (s : State) : State :=
  cs.foldl (fun s c => capturePort p .transitOverflow none (some c.id) (.overflow c.sequence true) s) s

/-- The bound of a record's queue once it runs at `cells`: twice C at an origin, twice the slots held at a transit hop
(R131, R136). -/
def queueBound (s : State) (r : StreamRecord) (cells : Nat) : Nat :=
  match r.role with
  | .origin => 2 * cells
  | .transit => 2 * slotsHeld s r
  | .terminus | .loopback => 0

/-- The source overrun count of an origin raised by the cells it lost (R131, R138). -/
def countOverruns (n : Nat) (x : Option Source) : Option Source :=
  x.map fun x => { x with overrunCount := saturate (x.overrunCount + n) }

/-- The switch of a record to its new C (R131): slots down to a smaller C, C and rate taken, ACTIVE with its activation
order kept, and a queue above its bound loses its newest cells. -/
def switchRecord (i : Nat) (s : State) : State :=
  match recordAt s i with
  | none => s
  | some r =>
    match r.staged with
    | none => s
    | some d =>
      let s := if d.cells < r.cells then releaseSlots i d.cells s else s
      let lost := if d.cells < r.cells then r.queue.length - queueBound s r d.cells else 0
      let s := changeRecord i
        (fun r =>
          { r with
            state := .active, cells := d.cells, rate := d.rate, staged := none, switchEpoch := none, retuneTimer := none
            queue := dropNewest lost r.queue
            source := if r.role = .origin then countOverruns lost r.source else r.source }) s
      match r.role, r.egress with
      | .transit, some p => captureTrim p (r.queue.drop (r.queue.length - lost)) s
      | _, _ => s

/-! ### Every record at once (R108 to R110, R112) -/

/-- The indices of all records, ascending. -/
def recordIndices (s : State) : List Nat := s.streams.records.map (·.index)

/-- The states in which a record carries or sets up a stream. -/
def inService (r : StreamRecord) : Bool := r.state == .pending || r.state == .active || r.state == .retuning

/-- One record on a loss of time (R109). -/
def timeLostRecord (i : Nat) (s : State) : State :=
  match recordAt s i with
  | some r => if inService r then breakDown r .timeLost (breakUp r .timeLost (suspend i .timeLost true s)) else s
  | none => s

/-- A loss of time (R109). -/
def loseTime (s : State) : State := (recordIndices s).foldl (fun s i => timeLostRecord i s) s

/-- One record on the reset of a port (R108). -/
def portResetRecord (p : PortId) (i : Nat) (s : State) : State :=
  match recordAt s i with
  | none => s
  | some r =>
    if r.egress = some p then
      if inService r then breakUp r .pathLost (suspend i .pathLost true s)
      else if r.state = .suspended then releaseSlots i 0 s
      else s
    else if r.ingress = .port p ∧ inService r then breakDown r .pathLost (suspend i .pathLost false s)
    else s

/-- The Stream Table's reaction to the reset of a port (R108). -/
def portResetStreams (p : PortId) (s : State) : State := (recordIndices s).foldl (fun s i => portResetRecord p i s) s

/-- One record at the end of the drain (R110). -/
def drainEndRecord (i : Nat) (s : State) : State :=
  match recordAt s i with
  | none => s
  | some r =>
    if r.state = .closed then s
    else
      let s := match r.role with
        | .origin => releaseDown r s
        | .transit => breakDown r .departing (breakUp r .departing s)
        | .terminus => breakUp r .departing s
        | .loopback => s
      suspend i .departing true s

/-- The Stream Table's reaction to the end of the drain (R110): one STREAM notice covers all the records. -/
def drainEndStreams (s : State) : State := (recordIndices s).foldl (fun s i => drainEndRecord i s) s

/-- The messages CLEAR_STREAMS offers for one record (R112). -/
def clearMessages (r : StreamRecord) (s : State) : State :=
  if r.state = .closed then s
  else
    match r.role with
    | .origin => releaseDown r s
    | .transit => releaseDown r (breakUp r .pathLost s)
    | .terminus => breakUp r .pathLost s
    | .loopback => s

/-! ### Re-pack (R104, R105) -/

/-- An element put before the first element it precedes. -/
def insertBy {α : Type} (before : α → α → Bool) (a : α) (l : List α) : List α :=
  match l with
  | [] => [a]
  | x :: rest => if before a x then a :: x :: rest else x :: insertBy before a rest

/-- A list ordered by `before`, elements of equal rank in their given order. -/
def sortBy {α : Type} (before : α → α → Bool) (l : List α) : List α := l.foldl (fun acc a => insertBy before a acc) []

/-- A record with a newer activation order than another (R113). -/
def newerRecord (a b : StreamRecord) : Bool := ahead (a.activation.getD 0) (b.activation.getD 0)

/-- The records whose egress is a port, in one of some states, ascending. -/
def recordsOn (s : State) (p : PortId) (states : List StreamState) : List StreamRecord :=
  s.streams.records.filter fun r => r.egress == some p && states.contains r.state

/-- The order in which a re-pack takes slots back (R104). -/
def repackOrder (s : State) (p : PortId) : List Nat :=
  (((recordsOn s p [.suspended]).filter fun r => 0 < slotsHeld s r).reverse ++ (recordsOn s p [.pending]).reverse ++
      sortBy newerRecord (recordsOn s p [.active, .retuning])).map (·.index)

/-- One record in a re-pack, taken only while the entries of the port outnumber its U (R104). -/
def repackTake (p : PortId) (s : State) (i : Nat) : State :=
  if (s.port p).slotMap.length ≤ usableCount (s.port p).delay then s
  else
    match recordAt s i with
    | none => s
    | some r =>
      if r.state = .suspended then releaseSlots i 0 s
      else breakDown r .capacity (breakUp r .capacity (suspend i .capacity true s))

/-- The order in which a re-pack moves slots (R105). -/
def moveOrder (s : State) (p : PortId) : List Nat :=
  (sortBy (fun a b => newerRecord b a) (recordsOn s p [.active, .retuning]) ++ recordsOn s p [.pending] ++
      recordsOn s p [.suspended]).map (·.index)

/-- A slot of a map moved to the lowest free entry in 2..U + 1 (R105). -/
def moveSlot (i u : Nat) (m : List SlotEntry) (slot : Nat) : List SlotEntry :=
  let m' := m.filter fun e => e.slot != slot
  match freeSlots u m with
  | [] => m
  | n :: _ => insertSlot ⟨n, i⟩ m'

/-- A record's slots above U + 1 are moved, in ascending order (R105). -/
def moveRecord (u : Nat) (m : List SlotEntry) (i : Nat) : List SlotEntry :=
  ((slotsNaming i m).filter fun n => u + 1 < n).foldl (moveSlot i u) m

/-- The re-pack of an ADMITTED port on a report of its U (R103 to R105). A U that needs nothing taken or moved leaves
everything as it is. -/
def repack (p : PortId) (s : State) : State :=
  if (s.port p).state = .admitted then
    let s := (repackOrder s p).foldl (repackTake p) s
    s.setSlotMap p ((moveOrder s p).foldl (moveRecord (usableCount (s.port p).delay)) (s.port p).slotMap)
  else s

end Sys2Proof.Machine
end

