-- ==== Sys2Proof/Machine/Timing.lean ====
section
/-! DEFINITION. The shared operations of the Frame Directory and the Timebase Unit: own announces (R40, R41), the route
lookup (R50), the election (R51 to R53), a handed result (R65), a change of timing state (R75), observations (R68 to
R74). -/

namespace Sys2Proof.Machine

open Sys2Proof

/-! ### Own announces (R40, R41) -/

/-- Reference present: the REFIN flag set and USE_REFERENCE on (R64). -/
def referencePresent (s : State) : Bool := s.time.refin.qualified && s.req.config.useReference

/-- The ANNOUNCE of the part's own frame as it stands (R40). -/
def ownAnnounce (s : State) : AnnounceMsg :=
  { frame := ownFrame s, serial := s.dir.serial, hops := 0, restart := decide (0 < s.dir.restartCount)
    departing := departing s, reference := referencePresent s, priority := s.req.config.timingPriority
    timing := s.time.state }

/-- A repeating own announce on one port; none while the own frame id is 0 (R41). -/
def announceRepeating (p : PortId) (s : State) : State :=
  if ownFrame s = 0 then s else offerAnnounce (ownAnnounce s) p s

/-- An advancing own announce on the ports in UP or ADMITTED: the serial advances before it is formed and the restart
count falls after (R40); the announce timer is set to 256. None while the own frame id is 0 (R41), and then the announce timer
runs on as it is, whatever the occasion (DESIGN CHOICE, log entry 60: R55 has it 256 after a change of timing state). -/
def announceAdvancing (s : State) : State :=
  if ownFrame s = 0 then s
  else
    let s := { s with dir := { s.dir with serial := s.dir.serial + 1 } }
    let a := ownAnnounce s
    let s :=
      { s with dir := { s.dir with restartCount := s.dir.restartCount - 1, announceTimer := Figures.announcePeriod } }
    offerAll (offerAnnounce a) (upOrAdmitted s) s

/-! ### Routes (R50) -/

/-- The answers of a route lookup (R50). -/
inductive Route where
  | here
  | unknownFrame
  | departing (port : PortId) (distance : Nat)
  | notAdmitted (port : PortId) (distance : Nat)
  | route (port : PortId) (distance : Nat)
  deriving DecidableEq, Repr

/-- The directory entry of a frame; none is UNKNOWN (R39). -/
def entryOf (s : State) (x : FrameId) : Option DirEntry := s.dir.entries.find? fun e => e.frame == x

/-- The route toward a terminal frame (R50). -/
def routeTo (s : State) (x : FrameId) : Route :=
  if x = 0 then .unknownFrame
  else if x = ownFrame s then .here
  else
    match entryOf s x with
    | none => .unknownFrame
    | some e =>
      match e.state with
      | .lost => .unknownFrame
      | .departing => .departing e.nextHop e.distance
      | .reachable =>
        if (s.port e.nextHop).state = .admitted then .route e.nextHop e.distance else .notAdmitted e.nextHop e.distance

/-! ### The election (R51, R52) -/

/-- A candidate for the master role (R51): its frame, its result if it wins, and what it is ranked by. -/
structure Candidate where
  result : ElectionResult
  reference : Bool
  priority : Nat
  rank : Nat
  deriving DecidableEq, Repr

/-- This part as a candidate; its own frame id, if 0, ranks after every other (R51). -/
def ownCandidate (s : State) : Candidate :=
  { result := .thisPart, reference := referencePresent s, priority := s.req.config.timingPriority
    rank := if ownFrame s = 0 then 32 else (ownFrame s).val }

/-- A directory entry as a candidate (R51). -/
def entryCandidate (e : DirEntry) : Candidate :=
  { result := .frame e.frame e.nextHop, reference := e.reference, priority := e.priority, rank := e.frame.val }

/-- One candidate ranks before another: reference present first, then lower priority, then lower frame id (R51). -/
def ranksBefore (a b : Candidate) : Bool :=
  if a.reference != b.reference then a.reference
  else if a.priority != b.priority then decide (a.priority < b.priority)
  else decide (a.rank < b.rank)

/-- The REACHABLE entries (R51). -/
def reachable (s : State) : List DirEntry := s.dir.entries.filter fun e => e.state == .reachable

/-- The candidates of the first kind (R51). -/
def firstKind (s : State) : List Candidate :=
  (if !departing s && (s.time.role == .master || s.time.state == .locked) then [ownCandidate s] else []) ++
    ((reachable s).filter fun e => e.timing == .locked).map entryCandidate

/-- The candidates of the second kind (R51). -/
def secondKind (s : State) : List Candidate :=
  (if !departing s && (!(reachable s).isEmpty || referencePresent s) then [ownCandidate s] else []) ++
    (reachable s).map entryCandidate

/-- The candidate that ranks first. -/
def bestOf (cs : List Candidate) : Option Candidate :=
  cs.foldl (fun best c =>
    match best with
    | none => some c
    | some b => if ranksBefore c b then some c else some b) none

/-- The winner of an evaluation, or NONE (R51). -/
def winner (s : State) : ElectionResult :=
  match bestOf (if firstKind s = [] then secondKind s else firstKind s) with
  | some c => c.result
  | none => .nobody

/-- Whether another frame is a candidate of either kind: its entry is REACHABLE (R51, R52). -/
def isCandidate (s : State) (x : FrameId) : Bool := (reachable s).any fun e => e.frame == x

/-- The outcome an evaluation hands, and the election hold it leaves (R52). A handed outcome that names frame X counts as
another frame even once FRAME_ID has taken the value X: X is not compared with the own frame id, and a hold may begin (DESIGN
CHOICE, log entry 47). -/
def electionOutcome (s : State) : ElectionResult × Option ElectionHold :=
  let w := winner s
  match s.dir.hold with
  | some h =>
    match w with
    | .thisPart => (w, none)
    | .frame y _ => if y = h.frame then (w, none) else (.nobody, some h)
    | .nobody => (.nobody, some h)
  | none =>
    match s.time.result, w with
    | .frame x p, .frame y q =>
      if !isCandidate s x && y != x && q != p then (.nobody, some ⟨Figures.electionHold, x⟩) else (w, none)
    | _, _ => (w, none)

/-! ### Timing state, handed results, evaluations (R53, R65, R66, R75)

An evaluation may hand a result, a handed result may change the timing state, and a change of timing state evaluates the
election again. The operations below take the further evaluation as an argument; `evaluate` closes the circle. -/

/-- A timing port is usable: ADMITTED or DRAINING, with a VALID delay record (R67). -/
def timingUsable (s : State) (p : PortId) : Bool :=
  ((s.port p).state == .admitted || (s.port p).state == .draining) && (delayOf (s.port p).delay).isSome

/-- The timing counts cleared and nothing pending (R57, R69). -/
def clearCounts (s : State) : State :=
  { s with time := { s.time with counts := ⟨0, 0, 0, 0⟩, pending := none } }

/-- One change of the timing state with its effects, the announce before the evaluation (DESIGN CHOICE, log entry 50: R75
gives the two no order) (R75): counts and pending cleared, the holdover timer set or stopped
(R74), a TIMING notice, a loss of time (R109), an advancing own announce (R41), and the election evaluated again (R53). -/
def shiftTiming (eval : State → State) (x : TimingState) (s : State) : State :=
  let lost := timed s && (x == .acquiring || x == .free)
  let s := clearCounts s
  let s :=
    { s with
      time :=
        { s.time with
          state := x, holdoverTimer := if x = .holdover then some s.req.config.holdoverLimit else none } }
  let s := raise .timing s
  let s := if lost then loseTime s else s
  eval (announceAdvancing s)

/-- The timing state becomes `x`, if it is another; a HOLDOVER_LIMIT of 0 sends the part straight on to FREE (R74, R75). -/
def toTiming (eval : State → State) (x : TimingState) (s : State) : State :=
  if s.time.state = x then s
  else
    let s := shiftTiming eval x s
    if s.time.state = .holdover ∧ s.time.holdoverTimer = some 0 then shiftTiming eval .free s else s

/-- The role and timing port of a result (R65). -/
def roleOf (r : ElectionResult) : TimingRole × Option PortId :=
  match r with
  | .thisPart => (.master, none)
  | .frame _ p => (.follower, some p)
  | .nobody => (.follower, none)

/-- The timing state after a result is handed (R65). -/
def stateAfter (s : State) (r : ElectionResult) : TimingState :=
  match r, s.time.state with
  | .thisPart, _ => .locked
  | .frame _ p, .locked => if timingUsable s p then .locked else .holdover
  | .frame _ p, .acquiring => if timingUsable s p then .acquiring else .free
  | .nobody, .locked => .holdover
  | .nobody, .acquiring => .free
  | .frame _ _, .holdover | .nobody, .holdover => .holdover
  | .frame _ _, .free | .nobody, .free => .free

/-- A result handed to the Timebase Unit, as one event (R65, R66): role and timing port, counts and pending cleared, a
TIMING notice when role or port changed, and the timing state the table gives. -/
def handResult (eval : State → State) (r : ElectionResult) (s : State) : State :=
  let x := stateAfter s r
  let moved := (roleOf r).1 != s.time.role || (roleOf r).2 != s.time.port
  let phase := if (roleOf r).2 = s.time.port then s.time.lastPhase else none
  let s := clearCounts s
  let s :=
    { s with
      time := { s.time with result := r, role := (roleOf r).1, port := (roleOf r).2, lastPhase := phase } }
  let s := raiseIf moved .timing s
  if s.time.state = x then (if moved then eval s else s) else toTiming eval x s

/-- The election evaluated again (R53): the hold as R52 leaves it, and an outcome that differs from the one last handed is
handed, with a DIRECTORY notice. The fuel bounds how often an evaluation can call for another. -/
def evaluateFor (fuel : Nat) (s : State) : State :=
  match fuel with
  | 0 => s
  | n + 1 =>
    let o := electionOutcome s
    let s := { s with dir := { s.dir with hold := o.2 } }
    if o.1 = s.time.result then s else handResult (evaluateFor n) o.1 (raise .directory s)

/-- The election evaluated again (R53). What an evaluation hands depends on the part's own state only in whether it is a
first-kind candidate, so a chain of evaluations settles within three; eight are allowed for. -/
def evaluate (s : State) : State := evaluateFor 8 s

/-- A change of the timing state (R75). -/
def changeTiming (x : TimingState) (s : State) : State := toTiming evaluate x s

/-- The timing port stops being usable, if this port is it: the counts clear, LOCKED becomes HOLDOVER and ACQUIRING
becomes FREE (R67). -/
def timingPortLost (p : PortId) (s : State) : State :=
  if s.time.port = some p then
    match s.time.state with
    | .locked => changeTiming .holdover (clearCounts s)
    | .acquiring => changeTiming .free (clearCounts s)
    | .holdover | .free => clearCounts s
  else s

/-- The effects of a change of reference present (R64): the announce (R41), the election (R53), a TIMING notice. -/
def referenceChanged (s : State) : State := evaluate (announceAdvancing (raise .timing s))

/-! ### Observations (R68 to R74) -/

/-- The correction for a phase error: itself up to 4 ticks, otherwise 4 ticks with its sign (R71, R73). -/
def correctionFor (e : Int) : Int := if e.natAbs ≤ 4 then e else if 0 < e then 4 else -4

/-- The observation calls for a step: a mismatch, or |e| above 1024 (R71). -/
def callsForStep (o : Observation) : Bool := o.mismatch || decide (1024 < o.error.natAbs)

/-- A usable observation of a marker with epoch number `number`, first heard when the stamp count stood at `arrival`, over a
cable of delay `d` (R68; u of R72). Its arrival tick is counted from the start of the current epoch by the stamps that have
passed since, and is negative for a marker that began in the epoch before. -/
def observationOf (s : State) (arrival : Stamp) (number : Epoch) (d : Nat) : Observation :=
  let n := s.clock.epoch
  let len : Int := epochLength s.clock
  let t : Int := s.clock.tick - (s.clock.stamp - arrival).toNat
  let next := decide (4096 ≤ t)
  let a := if next then t - len else t
  let expected := if next then n + 1 else n
  { error := a - d, mismatch := number != expected
    start := if s.clock.gap.isSome then t - d - len else t - d, number := number }

/-- An observation in ACQUIRING (R71, R69). -/
def acquire (o : Observation) (s : State) : State :=
  { s with
    time :=
      { s.time with
        pending := some (if callsForStep o then .step o.start o.number else .correction (correctionFor o.error))
        counts :=
          { s.time.counts with
            unusable := 0
            near := if !o.mismatch && decide (o.error.natAbs ≤ 4) then min 64 (s.time.counts.near + 1) else 0 } } }

/-- An observation without mismatch in LOCKED as a follower (R73, R69). -/
def track (o : Observation) (s : State) : State :=
  { s with
    time :=
      { s.time with
        pending := some (.correction (correctionFor o.error))
        counts :=
          { s.time.counts with
            unusable := 0
            far := if 64 < o.error.natAbs then min 16 (s.time.counts.far + 1) else 0 } } }

/-- Entry to ACQUIRING with the observation handled there (R70, R73, R74). -/
def enterAcquiring (o : Observation) (s : State) : State :=
  let s := changeTiming .acquiring s
  if s.time.state = .acquiring then acquire o s else s

/-- A usable observation, by timing state (R69 to R74). -/
def observeUsable (o : Observation) (s : State) : State :=
  let s := { s with time := { s.time with lastPhase := some o } }
  match s.time.state with
  | .free => enterAcquiring o s
  | .acquiring => acquire o s
  | .locked => if o.mismatch then enterAcquiring o s else track o s
  | .holdover =>
    { s with time := { s.time with counts := { s.time.counts with back := min 4 (s.time.counts.back + 1) } } }

/-- The counts after an unusable observation (R69). -/
def countUnusable (x : TimingState) (c : TimingCounts) : TimingCounts :=
  match x with
  | .locked => { c with unusable := min 4 (c.unusable + 1) }
  | .acquiring => { c with unusable := min 4 (c.unusable + 1), near := 0 }
  | .holdover => { c with back := 0 }
  | .free => c

/-- An unusable observation (R68, R69). -/
def observeUnusable (s : State) : State :=
  { s with time := { s.time with counts := countUnusable s.time.state s.time.counts } }

/-- The observation a marker accepted on a port gives (R68): `usable` when its USABLE bit is set and the port was usable when
it was accepted. The port must be the timing port of a follower, and a gap that carries a step gives none. -/
def observeMarker (p : PortId) (usable : Bool) (arrival : Stamp) (number : Epoch) (s : State) : State :=
  if s.time.role = .follower ∧ s.time.port = some p then
    if s.clock.gap.any (·.step.isSome) then s
    else
      match usable, delayOf (s.port p).delay with
      | true, some d => observeUsable (observationOf s arrival number d) s
      | _, _ => observeUnusable s
  else s

/-- A missed-marker report for a port (R6, R68). -/
def observeMiss (p : PortId) (s : State) : State :=
  if s.time.role = .follower ∧ s.time.port = some p then observeUnusable s else s

end Sys2Proof.Machine
end

