-- ==== Sys2Proof/Machine/Ports.lean ====
section
/-! DEFINITION. The shared operations of the Swap Controller and the Port Engines: entry to UP (R26), admission (R27), entry
to FAULT (R25, R29), the port reset with the reactions to it (R30, R31), the end of the drain (R35), a new own frame id
(R29, R49, R173), the delay records (R59 to R62), and what an accepted marker does (R5). -/

namespace Sys2Proof.Machine

open Sys2Proof

/-! ### UP, ADMITTED, FAULT -/

/-- The stored neighbour frame id of a port; none without a stored identity. -/
def neighbourFrame (s : State) (p : PortId) : Option FrameId := (s.port p).neighbour.map (·.frame)

/-- The reason of a port in UP: NO_ID if either frame id is 0 (R26). -/
def upReason (s : State) (p : PortId) : Option PortReason :=
  if ownFrame s = 0 ∨ (neighbourFrame s p).getD 0 = 0 then some .noId else none

/-- The admission conditions of R27. -/
def admissible (s : State) (p : PortId) : Bool :=
  ownFrame s != 0 && (neighbourFrame s p).getD 0 != 0 && (s.port p).announceSeen

/-- The test of admission on a port in UP (R27). -/
def admitPort (p : PortId) (s : State) : State :=
  if (s.port p).state = .up ∧ admissible s p then
    changePort p (if s.swap.departure = .drained then .draining else .admitted) none s
  else s

/-- Entry to UP (R26): announce-seen clear, the reason, a PORT notice, a repeating own announce, and R27's test. -/
def enterUp (p : PortId) (s : State) : State :=
  let s := changePort p .up (upReason s p) s
  let s := s.setPort p { s.port p with announceSeen := false }
  admitPort p (announceRepeating p s)

/-- Next hops through a port are lost (R47): its REACHABLE and DEPARTING entries become LOST, with one DIRECTORY notice if
any changed, and the election is evaluated again. -/
def nextHopLost (p : PortId) (s : State) : State :=
  let hit (e : DirEntry) : Bool := e.state != .lost && e.nextHop == p
  evaluate
    (raiseIf (s.dir.entries.any hit) .directory
      { s with
        dir := { s.dir with entries := s.dir.entries.map fun e => if hit e then { e with state := .lost } else e } })

/-- Entry to FAULT (R25, R29, R60). From UP or DRAINING it is reported to the Frame Directory (R47), and a timing port that
leaves DRAINING stops being usable (R67). -/
def enterFault (p : PortId) (reason : PortReason) (s : State) : State :=
  let before := (s.port p).state
  let s := changePort p .fault (some reason) s
  let s := if before = .up ∨ before = .draining then nextHopLost p s else s
  if before = .draining then timingPortLost p s else s

/-! ### The port reset (R31) -/

/-- The port's own state after a reset (R18, R31), but for its slot map and its delay record, which follow with the
reactions of their blocks. -/
def resetOwnState (x : Port) : Port :=
  { x with
    state := if x.presence.qualified then .training else .down
    reason := none
    training := if x.presence.qualified then some (.locking 0) else none
    symbolLock := false
    announceSeen := false
    neighbourDeparting := false
    recognizer := Recognizer.searching
    missCount := 0
    lossDue := false
    jumpStands := false
    symbolErrors := 0
    neighbour := none
    lastMarker := none
    echo := none
    protocolQueue := []
    floodQueue := [] }

/-- The Timebase Unit's reaction to a port reset (R63). -/
def closeDelay (p : PortId) (s : State) : State :=
  timingPortLost p (s.setPort p { s.port p with delay := .closed })

/-- A port reset: the port's own state with a PORT notice, then the Frame Directory, the Timebase Unit, the Stream Table
with its queues, and the capture (R31). -/
def portReset (p : PortId) (cause : ErrorKind) (detail : Detail) (s : State) : State :=
  let s := raise .port (s.setPort p (resetOwnState (s.port p)))
  let s := portResetStreams p (closeDelay p (nextHopLost p s))
  capturePort p cause none none detail (s.setSlotMap p [])

/-- The port states in which each cause resets a port (R30). -/
def resetsIn (cause : ErrorKind) (x : PortState) : Bool :=
  match cause with
  | .presenceLost | .resetPort => x != .down
  | .markerLoss => x == .probing || x == .up || x == .admitted || x == .draining
  | .symbolBurst => x == .probing || x == .up || x == .admitted || x == .draining || x == .fault
  | .delayJump => x == .up || x == .admitted
  | .markerCorrected | .negativeDelay | .lateSwitch | .markerRejected | .headerBad | .unknownStream | .wrongPort
  | .staleGen | .payloadBad | .transitOverflow | .protocol | .unknown | .format => false

/-- A cause of a port reset taken in a state that the table of R30 lists for it; the capture carries the state before. -/
def takeCause (p : PortId) (cause : ErrorKind) (s : State) : State :=
  if resetsIn cause (s.port p).state then portReset p cause (.portState (s.port p).state) s else s

/-- The receiver gives up symbol lock in TRAINING (R23): the recognizer stops and the miss count becomes 0. -/
def giveUpLock (x : Port) : Port :=
  if x.state = .training then
    { x with symbolLock := false, recognizer := Recognizer.searching, missCount := 0, lossDue := false }
  else { x with symbolLock := false }

/-- One symbol error on a port (R7). The sixteenth of an epoch resets the port, or in TRAINING takes its lock; those after
it are counted in the state it left. In DOWN none is counted. -/
def countError (p : PortId) (s : State) : State :=
  if (s.port p).state = .down then s
  else
    let s := s.setPort p { s.port p with symbolErrors := (s.port p).symbolErrors + 1 }
    if (s.port p).symbolErrors = 16 then
      if (s.port p).state = .training then s.setPort p (giveUpLock (s.port p)) else takeCause p .symbolBurst s
    else s

/-- Symbol errors one after another (R7). -/
def countErrors (n : Nat) (p : PortId) (s : State) : State :=
  match n with
  | 0 => s
  | n + 1 => countErrors n p (countError p s)

/-! ### Departure (R34 to R36) -/

/-- The end of the drain (R35): DRAINED with a PORT notice, every record broken, every ADMITTED port to DRAINING. -/
def endDrain (s : State) : State :=
  let s := raise .port { s with swap := { s.swap with departure := .drained } }
  let s := drainEndStreams s
  (admittedPorts s).foldl (fun s p => changePort p .draining none s) s

/-! ### A new own frame id (R29, R49, R173) -/

/-- One port examined against a new own frame id (R29). -/
def reexaminePort (p : PortId) (s : State) : State :=
  let same := ownFrame s != 0 && neighbourFrame s p == some (ownFrame s)
  match (s.port p).state with
  | .up =>
    let s := s.setPort p { s.port p with announceSeen := false }
    if same then enterFault p .idConflict s
    else admitPort p (s.setPort p { s.port p with reason := upReason s p })
  | .fault =>
    if (s.port p).reason = some .idConflict ∧ neighbourFrame s p ≠ some (ownFrame s) then enterUp p s else s
  | .draining => if same then enterFault p .idConflict s else s
  | .down | .training | .probing | .admitted => s

/-- The Frame Directory on a new own frame id (R49). -/
def renumberDirectory (s : State) : State :=
  let held := s.dir.entries.any fun e => e.frame == ownFrame s
  let s := { s with
    dir := { s.dir with entries := s.dir.entries.filter fun e => e.frame != ownFrame s, restartCount := 4 } }
  evaluate (announceAdvancing (raiseIf held .directory s))

/-- FRAME_ID takes a new value (R173): first the Swap Controller, then the Frame Directory. The spec gives the ports that R29
examines no order, and they are taken from P0 to P5; the elections and the entry announces that this causes use the new own
frame id, while a directory entry of that id still stands (DESIGN CHOICE both, log entry 46). -/
def takeFrameId (f : FrameId) (s : State) : State :=
  let s := { s with req := { s.req with config := { s.req.config with frameId := f } } }
  renumberDirectory (allPorts.foldl (fun s p => reexaminePort p s) s)

/-! ### Delay records (R24, R25, R58 to R62) -/

/-- The verdict on a validated delay (R25; R60 for a port in DRAINING). A record that was re-opened in DRAINING and becomes
VALID when the port has left it, by CANCEL_DEPART to ADMITTED, leaves the port as it is whatever d (DESIGN CHOICE, log entry
48: R25 and R60 speak of PROBING and DRAINING). -/
def delayVerdict (p : PortId) (d : Nat) (s : State) : State :=
  match (s.port p).state with
  | .probing =>
    if Figures.maxDelay < d then enterFault p .long s
    else if ownFrame s ≠ 0 ∧ neighbourFrame s p = some (ownFrame s) then enterFault p .idConflict s
    else enterUp p s
  | .draining => if Figures.maxDelay < d then enterFault p .long s else s
  | .down | .training | .up | .admitted | .fault => s

/-- The port's states in which an accepted marker gives a delay sample (R58). -/
def samplesIn (x : PortState) : Bool := x == .probing || x == .up || x == .admitted || x == .draining

/-- The jump count of a VALID record stands at 8; its reported delay (R62). -/
def jumpDue (r : DelayRecord) : Option Nat :=
  match r with
  | .valid _ d16 jumps => if 8 ≤ jumps then some (reportedDelay d16) else none
  | .closed | .sampling _ => none

/-- Whether a delay jump stands for a port whose record takes a value: found with this value, or before and in the state that
the port is still in (R30). A value in which the jump count no longer stands at 8 drops a jump that DELAY_JUMP has not taken
(DESIGN CHOICE, log entry 49). -/
def jumpFound (x : Port) (r : DelayRecord) : Bool :=
  (jumpDue r).isSome && ((jumpDue x.delay).isNone || x.jumpStands)

/-- A port's delay record takes a value; a change of U is reported to the Stream Table (R16), which re-packs an ADMITTED
port (R103). -/
def setDelay (p : PortId) (r : DelayRecord) (s : State) : State :=
  let moved := usableCount r != usableCount (s.port p).delay
  let s := s.setPort p { s.port p with delay := r, jumpStands := jumpFound (s.port p) r }
  if moved then repack p s else s

/-- The delay record before and after shows a validation: it was OPEN and is VALID (R60). -/
def validated (before after : DelayRecord) : Option Nat :=
  match before with
  | .sampling _ => delayOf after
  | .closed | .valid _ _ _ => none

/-- A sample from the four stamps of an accepted marker (R59 to R61), with what it leads to. -/
def sampleDelay (p : PortId) (m : Marker) (arrival : Stamp) (s : State) : State :=
  if samplesIn (s.port p).state && m.echoValid && (s.port p).delay != .closed then
    match roundTrip m.echoTx m.echoRx m.tx arrival with
    | none => s
    | some x =>
      let s := if x < 0 then capturePort p .negativeDelay (some 0) none (.delay x) s else s
      let before := (s.port p).delay
      let s := setDelay p (takeSample before (sampleOf x)) s
      match validated before (takeSample before (sampleOf x)) with
      | some d => delayVerdict p d s
      | none => s
  else s

/-! ### Accepted markers (R5) -/

/-- What the Port Engine and the Swap Controller record of an accepted marker (R5, R6, R37). -/
def recordMarker (p : PortId) (m : Marker) (i : InfoBits) (arrival : Stamp) (s : State) : State :=
  let x := s.port p
  raiseIf (x.neighbourDeparting != i.departing) .port
    (s.setPort p
      { x with
        neighbour := some ⟨m.frame, m.port⟩
        lastMarker := some ⟨i, m.timing, m.priority, m.master⟩
        echo := some ⟨m.tx, arrival⟩
        missCount := 0
        lossDue := false
        markerThisEpoch := true
        neighbourDeparting := i.departing })

/-- The port's part in an accepted marker: from TRAINING it enters PROBING with its delay record opened empty (R24);
otherwise the marker may give a delay sample (R59). -/
def bringUp (p : PortId) (m : Marker) (arrival : Stamp) (s : State) : State :=
  if (s.port p).state = .training then
    let s := changePort p .probing none s
    s.setPort p { s.port p with training := none, delay := .sampling [] }
  else sampleDelay p m arrival s

/-- An accepted marker (R5): the Port Engine, the Swap Controller and the delay record, and last the phase observation of
the timing port (R68), with the delay as the sample left it. A port that becomes usable by this marker's own sample is used
from the next one (R67). -/
def acceptMarker (p : PortId) (m : Marker) (i : InfoBits) (first : Stamp) (s : State) : State :=
  let usable := i.usable && timingUsable s p
  observeMarker p usable first m.epoch (bringUp p m first (recordMarker p m i first s))

/-- A rejected marker (R3 to R5). -/
def rejectMarker (p : PortId) (c : MarkerCheck) (s : State) : State :=
  capturePort p .markerRejected (some 0) none (.marker c) s

/-- The check that a marker fails first, if any (R5). The marker check is taken with the info byte as R4 corrected it. -/
def failedCheck (x : Port) (bytes : List Byte) (i : InfoBits) : Option MarkerCheck :=
  let m := readMarker bytes
  let body := (bytes.take 19).set 1 (infoByte i)
  if (crc16 body).toNat ≠ numberAt bytes 19 2 then some .check
  else if cellKindOf ((byteAt bytes 0).toNat / 64) ≠ .marker then some .kind
  else if i.epochOdd ≠ m.epoch.getLsbD 0 then some .inconsistent
  else if x.neighbour.any fun n => n != ⟨m.frame, m.port⟩ then some .identity
  else none

/-- A whole marker of 21 bytes: decoded, checked and accepted or rejected (R4, R5). -/
def takeMarker (p : PortId) (bytes : List Byte) (first : Stamp) (s : State) : State :=
  let judge (i : InfoBits) (s : State) : State :=
    match failedCheck (s.port p) bytes i with
    | some c => rejectMarker p c s
    | none => acceptMarker p (readMarker bytes) i first s
  match decodeInfo (byteAt bytes 1) with
  | .doubleError => rejectMarker p .doubleError s
  | .clean i => judge i s
  | .corrected position i => judge i (capturePort p .markerCorrected (some 0) none (.hammingPosition position) s)

/-! ### The marker recognizer (R3) -/

/-- The recognizer runs in every state but DOWN, and in TRAINING only with symbol lock (R3). -/
def recognizerRuns (x : Port) : Bool :=
  match x.state with
  | .down => false
  | .training => x.symbolLock
  | .probing | .up | .admitted | .draining | .fault => true

/-- The recognizer of a port, written back. -/
def setRecognizer (p : PortId) (r : Recognizer) (s : State) : State := s.setPort p { s.port p with recognizer := r }

/-- A symbol that begins a search: a preamble symbol is the first of a new preamble (R3). -/
def beginSearch (c : Symbol) (a : Stamp) : Recognizer :=
  match c with
  | .preamble => ⟨1, some a, []⟩
  | .cellStart | .idle | .data _ | .invalid => Recognizer.searching

/-- A byte read after the preamble; the twenty-first completes the marker. -/
def readByte (p : PortId) (b : Byte) (s : State) : State :=
  let r := (s.port p).recognizer
  let bytes := r.bytes ++ [b]
  if bytes.length < Figures.markerBytes then setRecognizer p { r with bytes := bytes } s
  else
    match r.first with
    | some a => takeMarker p bytes a (setRecognizer p Recognizer.searching s)
    | none => setRecognizer p Recognizer.searching s

/-- One symbol received while the recognizer runs (R3), with the stamp count of its arrival. Idle symbols among the marker bytes
are no bytes and are passed over; a symbol that decodes to nothing leaves a byte of no known value. Any three preamble symbols
make the preamble, since there is one such symbol (DESIGN CHOICE both, log entry 15). -/
def recognize (p : PortId) (c : Symbol) (a : Stamp) (s : State) : State :=
  let r := (s.port p).recognizer
  if r.found < 3 then
    match c with
    | .preamble => setRecognizer p ⟨r.found + 1, if r.found = 0 then some a else r.first, []⟩ s
    | .idle => s
    | .cellStart | .data _ | .invalid => setRecognizer p Recognizer.searching s
  else
    match c with
    | .data b => readByte p b s
    | .invalid => readByte p (Figures.wrongByte p s.clock.epoch a) s
    | .idle => s
    | .preamble | .cellStart => rejectMarker p .truncated (setRecognizer p (beginSearch c a) s)

/-- The stamp count `n` ticks ago. -/
def arrivalAgo (s : State) (n : Nat) : Stamp := s.clock.stamp - BitVec.ofNat 24 n

/-- One symbol received (R3, R7): one that decodes to nothing is first counted as a symbol error, and then shown to the
recognizer if that still runs (DESIGN CHOICE, log entry 15: the spec orders the two nowhere). -/
def receiveSymbol (p : PortId) (c : Symbol) (a : Stamp) (s : State) : State :=
  let s := if c = .invalid then countError p s else s
  if recognizerRuns (s.port p) then recognize p c a s else s

/-- Symbols received in turn, one a tick, the last of them now. -/
def recognizeAll (p : PortId) (cs : List Symbol) (s : State) : State :=
  match cs with
  | [] => s
  | c :: rest => recognizeAll p rest (receiveSymbol p c (arrivalAgo s rest.length) s)

end Sys2Proof.Machine
end

