-- ==== Sys2Proof/Machine/Scheduler.lean ====
section
/-! DEFINITION. The shared operations of the Trigger Scheduler: table order, insertion and eviction (R79), the dropped list
(R80), new ids (R81), firing (R85), time steps (R86), retention (R87). -/

namespace Sys2Proof.Machine

open Sys2Proof

/-- The Trigger Scheduler's state replaced. -/
def State.setTrig (s : State) (t : TriggerUnit) : State := { s with trig := t }

/-- The number by which trigger ids ascend, origin first (R79). -/
def triggerRank (t : TriggerId) : Nat := t.origin.val * 256 + t.serial.toNat

/-- One entry stands before another: earlier fire time, or equal fire time and lower id (R79). -/
def entryBefore (a b : TriggerEntry) : Bool :=
  later b.fire a.fire || (a.fire == b.fire && decide (triggerRank a.id < triggerRank b.id))

/-- The entry is ARMED. -/
def isArmed (e : TriggerEntry) : Bool := e.state == .armed

/-- Whether an entry can be stored: room, or an entry that is not ARMED to make room (R79). -/
def canStore (s : State) : Bool :=
  decide (s.trig.table.length < Figures.triggerEntries) || s.trig.table.any fun e => !isArmed e

/-- The earliest non-ARMED entry of a table in its order (R79). -/
def earliestNonArmed (t : List TriggerEntry) : Option TriggerEntry := t.find? fun e => !isArmed e

/-- An entry leaves the table, which is reported to the sinks that wait for it (R90, R156). -/
def dropEntry (id : TriggerId) (s : State) : State :=
  reportTrigger id (s.setTrig { s.trig with table := s.trig.table.filter fun e => e.id != id })

/-- A full table makes room: the earliest non-ARMED entry leaves (R79). -/
def makeRoom (s : State) : State :=
  if s.trig.table.length < Figures.triggerEntries then s
  else
    match earliestNonArmed s.trig.table with
    | some e => dropEntry e.id s
    | none => s

/-- An entry inserted at its place in the order: before the first entry that it precedes (R79). Where the fire times held lie so
far apart that R56's comparison is cyclic, no ascending order exists and that place is the model's (DESIGN CHOICE, log entry
67). -/
def insertEntry (e : TriggerEntry) (s : State) : State :=
  let s := makeRoom s
  s.setTrig { s.trig with table := insertBy entryBefore e s.trig.table }

/-- A trigger that is not stored is noted in the dropped list, counted, with a TRIGGER notice (R80). -/
def dropTrigger (n : DroppedNote) (s : State) : State :=
  let kept := if s.trig.dropped.length < Figures.droppedNotes then s.trig.dropped else s.trig.dropped.drop 1
  raise .trigger (s.setTrig { s.trig with dropped := kept ++ [n], notStored := saturate (s.trig.notStored + 1) })

/-- An entry stored, or noted in the dropped list when all 32 entries are ARMED (R79, R80). -/
def storeTrigger (e : TriggerEntry) (s : State) : State :=
  if canStore s then insertEntry e s else dropTrigger ⟨e.id, e.fire, e.channel⟩ s

/-- A table entry or a dropped note holds the id (R81, R83). -/
def holdsTrigger (s : State) (id : TriggerId) : Bool :=
  s.trig.table.any (fun e => e.id == id) || s.trig.dropped.any fun n => n.id == id

/-- The next serial: one on, wrapping from 255 to 1, past those whose id is held (R81). -/
def nextTriggerSerial (s : State) : Byte :=
  let tries := (List.range 255).map fun i => BitVec.ofNat 8 ((s.trig.serial.toNat + i) % 255 + 1)
  (tries.find? fun n => !holdsTrigger s ⟨ownFrame s, n⟩).getD s.trig.serial

/-- A trigger created by this part: its id from the serial counter (R81, R88), stored ARMED, and a TRIGGER offered on every
ADMITTED port. -/
def createTrigger (fire : RackTime) (channel : Nat) (s : State) : State :=
  let id : TriggerId := ⟨ownFrame s, nextTriggerSerial s⟩
  let s := s.setTrig { s.trig with serial := id.serial }
  let s := storeTrigger ⟨id, fire, channel, .armed⟩ s
  offerAll (offerFlood (.trigger ⟨id, fire, channel⟩)) (admittedPorts s) s

/-- The state of the entries of one id replaced. -/
def setTriggerState (id : TriggerId) (x : TriggerState) (s : State) : State :=
  s.setTrig { s.trig with table := s.trig.table.map fun e => if e.id = id then { e with state := x } else e }

/-- An ARMED entry is cancelled, with a TRIGGER notice and the report to waiting sinks (R82, R84). -/
def cancelEntry (id : TriggerId) (s : State) : State :=
  raise .trigger (reportTrigger id (setTriggerState id .cancelled s))

/-- A pulse begins on the lines of a mask, `left` ticks of it still to run; a mask that names none gives no pulse (R85). -/
def beginPulse (lines : Byte) (left : Nat) (s : State) : State :=
  if lines = 0 then s else s.setTrig { s.trig with pulses := s.trig.pulses ++ [⟨lines, left⟩] }

/-- An ARMED entry at its fire time (R85). Its pulse has `left` ticks still to run: 64, but fewer where the clock has moved
on from that tick in the same event. The mask is that of CHANNEL_MAP as it applies to firings at the tick (R174). -/
def fireEntry (left : Nat) (e : TriggerEntry) (s : State) : State :=
  raise .trigger
    (if timed s then
      beginPulse (s.trig.firingMap.get e.channel) left
        (setTriggerState e.id (.fired (s.time.state == .holdover)) s)
    else reportTrigger e.id (setTriggerState e.id (.missed .noTime) s))

/-- The ARMED entries that a test picks out fire or are missed, in table order, each on its own (R85). -/
def fireThose (hit : TriggerEntry → Bool) (left : TriggerEntry → Nat) (s : State) : State :=
  (s.trig.table.filter fun e => isArmed e && hit e).foldl (fun s e => fireEntry (left e) e s) s

/-- The rack time is not earlier than a fire time (R85). -/
def reached (s : State) (fire : RackTime) : Bool := !later fire (now s)

/-- An ARMED entry fires or is missed once its fire time is reached; before that, nothing (R85). -/
def fireIfReached (id : TriggerId) (s : State) : State :=
  match triggerAt s id with
  | none => s
  | some e => if isArmed e && reached s e.fire then fireEntry Figures.pulseTicks e s else s

/-- ARMED entries whose fire time is earlier than the rack time, which R79 does not let stand, fire or are missed now: this
is the first tick at which they are reached (R85). -/
def fireOverdue (s : State) : State := fireThose (fun e => later (now s) e.fire) (fun _ => Figures.pulseTicks) s

/-- Every input's hold-off ends (R86, R88). -/
def endHoldOffs (t : PerInput InputLine) : PerInput InputLine :=
  t.map fun x =>
    match x.arm with
    | .repeated lead channel _ => { x with arm := .repeated lead channel none }
    | .disarmed | .oneShot _ _ => x

/-- A time step reported to the Trigger Scheduler (R86): ARMED entries become MISSED(TIME_STEP), one TRIGGER notice is
raised, and every hold-off ends. -/
def stepReport (s : State) : State :=
  let armed := (s.trig.table.filter isArmed).map (·.id)
  let s := s.setTrig
    { s.trig with
      table := s.trig.table.map fun e => if isArmed e then { e with state := .missed .timeStep } else e
      inputs := endHoldOffs s.trig.inputs }
  raise .trigger (armed.foldl (fun s id => reportTrigger id s) s)

/-- A fire epoch plus 64 is not ahead of the current epoch number (R87); R80's "at least" is read the same (log entry 71). -/
def outlived (s : State) (fire : RackTime) : Bool :=
  !ahead (fire.epoch + BitVec.ofNat 48 Figures.retention) s.clock.epoch

/-- Retention at the start of an epoch (R80, R87). -/
def retain (s : State) : State :=
  let gone := (s.trig.table.filter fun e => !isArmed e && outlived s e.fire).map (·.id)
  let s := s.setTrig { s.trig with dropped := s.trig.dropped.filter fun n => !outlived s n.fire }
  gone.foldl (fun s id => dropEntry id s) s

/-! ### Trigger inputs (R88) -/

/-- Lead and channel of an armed input. -/
def armOf (a : Arm) : Option (Nat × Nat) :=
  match a with
  | .disarmed => none
  | .oneShot lead channel | .repeated lead channel _ => some (lead, channel)

/-- The hold-off time of an arm, if it has one (R88). -/
def holdOffOf (a : Arm) : Option RackTime :=
  match a with
  | .repeated _ _ hold => hold
  | .disarmed | .oneShot _ _ => none

/-- An edge earlier than the hold-off of a repeating arm is ignored (R88, case 1). -/
def heldOff (a : Arm) (edge : RackTime) : Bool := (holdOffOf a).any fun hold => later hold edge

/-- The arm after an edge that created a trigger (R88, case 3). -/
def armAfter (a : Arm) (edge : RackTime) : Arm :=
  match a with
  | .repeated lead channel _ => .repeated lead channel (some ⟨edge.epoch + 1, edge.tick⟩)
  | .disarmed | .oneShot _ _ => .disarmed

/-- An input line replaced. -/
def setInput (i : InputId) (x : InputLine) (s : State) : State :=
  s.setTrig { s.trig with inputs := s.trig.inputs.set i x }

/-- A qualified edge (R88). An edge in a lengthened or stepped gap has a tick above 8191, and the trigger's fire tick is that
tick, stored and flooded as it is (DESIGN CHOICE, log entry 52: the spec does not say what becomes of it). A fire time that
the counter has passed is reached as the entry is inserted. -/
def takeEdge (i : InputId) (edge : RackTime) (s : State) : State :=
  let x := s.trig.inputs.get i
  match armOf x.arm with
  | none => s
  | some (lead, channel) =>
    if heldOff x.arm edge then s
    else if !timed s || ownFrame s == 0 then
      raise .trigger (setInput i { x with ignored := saturate (x.ignored + 1) } s)
    else
      let s := fireOverdue (createTrigger ⟨edge.epoch + BitVec.ofNat 48 lead, edge.tick⟩ channel s)
      raise .trigger (setInput i { x with arm := armAfter x.arm edge } s)

end Sys2Proof.Machine
end

