-- ==== Sys2Proof/Machine/Clock.lean ====
section
/-! DEFINITION. The movements of the clock within a local epoch (R56, R57), with the triggers whose fire time it reaches on
the way (R79, R85). -/

namespace Sys2Proof.Machine

open Sys2Proof

/-- Tick, stamp count and output pulses run on by `n` ticks, and firings from now on read CHANNEL_MAP as it stands (R56,
R85, R174). -/
def moveClock (n : Nat) (s : State) : State :=
  { s with
    clock := { s.clock with tick := s.clock.tick + n, stamp := s.clock.stamp + BitVec.ofNat 24 n }
    trig :=
      { s.trig with
        pulses := s.trig.pulses.map fun p => { p with left := p.left - n }, firingMap := s.req.config.channelMap } }

/-- `n` ticks pass within the epoch. ARMED entries that have reached their fire time at the present tick fire before it ends,
and those that reach it on the way fire at their own tick (R85). One whose fire time is the last tick come to is ARMED
still, and reaches it there. -/
def passTicks (n : Nat) (s : State) : State :=
  if n = 0 then s
  else
    let s := moveClock n (fireThose (fun e => reached s e.fire) (fun _ => Figures.pulseTicks) s)
    fireThose (fun e => later (now s) e.fire) (fun e => Figures.pulseTicks - (s.clock.tick - e.fire.tick)) s

/-- The gap begins at tick 7936: its length is fixed and handed to every Port Engine, and what was pending is cleared
(R57). A gap that has begun is not begun again. -/
def beginGap (s : State) : State :=
  match s.clock.gap with
  | some _ => s
  | none =>
    let s := passTicks (Figures.slotsTicks - s.clock.tick) s
    { s with
      clock := { s.clock with gap := some (planGap s.time.pending) }
      time := { s.time with pending := none }
      ports := s.ports.map fun x => { x with nextSlot := Figures.slots, wire := quietWire x.state } }

/-- The clock runs on to a later tick of the current epoch, through the start of the gap if that lies between. A tick
that has passed, or that the epoch does not have, changes nothing. -/
def runTo (t : Nat) (s : State) : State :=
  let u := if Figures.slotsTicks ≤ t then beginGap s else s
  if s.clock.tick < t ∧ t < epochLength u.clock then passTicks (t - u.clock.tick) u else s

/-- An entry whose fire time lies in the rest of the current epoch brings the clock to it. -/
def runToFire (fire : RackTime) (s : State) : State :=
  if fire.epoch = s.clock.epoch then runTo fire.tick s else s

end Sys2Proof.Machine
end

