-- ==== Sys2Proof/Machine/Epoch.lean ====
section
/-! DEFINITION. What happens where one local epoch ends and the next begins (R6, R21, R23, R35, R41, R46, R52, R56, R64, R72,
R74, R80, R87, R107, R125 to R134): the counts that fall or rise once an epoch. A count or timer that comes to its end here
stays there; what its end causes is the command of its own that the table names for it. -/

namespace Sys2Proof.Machine

open Sys2Proof

/-! ### The end of an epoch -/

/-- A port in whose state an epoch without an accepted marker counts as a miss (R6). -/
def countsMisses (x : Port) : Bool :=
  match x.state with
  | .down => false
  | .training => x.symbolLock
  | .probing | .up | .admitted | .draining | .fault => true

/-- The miss count of a port advanced by one, up to 4. The count that reaches 4 in a state in which R6 resets the port makes
its MARKER_LOSS due; in TRAINING and FAULT it has no further effect, and none later (R6). -/
def countMiss (x : Port) : Port :=
  { x with
    missCount := min 4 (x.missCount + 1)
    lossDue := x.lossDue || (x.missCount == 3 && resetsIn .markerLoss x.state) }

/-- One port at the end of an epoch: the miss count, with the report to the Timebase Unit (R6). -/
def closePort (s : State) (p : PortId) : State :=
  if countsMisses (s.port p) && !(s.port p).markerThisEpoch then
    observeMiss p (s.setPort p (countMiss (s.port p)))
  else s

/-- A qualified input after one sample (R21, R64): 32 present samples in a row qualify it, 4 absent ones end that. The
counts stop at these values. -/
def sampleInput (active : Bool) (q : Qualifier) : Qualifier :=
  if q.qualified then
    if active then { q with absent := 0 } else { q with absent := min 4 (q.absent + 1) }
  else if active then { q with present := min 32 (q.present + 1) }
  else { q with present := 0 }

/-- The epoch ends: misses (R6) and the REFIN activity of the epoch (R64). -/
def endEpoch (s : State) : State :=
  let s := allPorts.foldl closePort s
  { s with time := { s.time with refin := sampleInput s.pins.refin s.time.refin } }

/-! ### The turn of the counter (R56, R72) -/

/-- The gap of the current epoch; 256 ticks if none is fixed. -/
def currentGap (s : State) : Gap := s.clock.gap.getD ⟨Figures.nominalGap, none⟩

/-- The rest of the epoch passes and the next epoch begins at tick 0, with the number that follows or, after a gap that
carries a step, the number fixed with it. -/
def turnCounter (s : State) : State :=
  let g := currentGap s
  let s := passTicks (Figures.slotsTicks + g.length - s.clock.tick) s
  { s with
    clock :=
      { s.clock with
        epoch := g.step.getD (s.clock.epoch + 1), tick := 0, gap := none
        past := some ⟨s.clock.epoch, Figures.slotsTicks + g.length⟩ }
    ports := s.ports.map fun x => { x with nextSlot := 0, markerThisEpoch := false, symbolErrors := 0 } }

/-- A step taken by the Timebase Unit: a TIMING notice, the step count, and the report to the Trigger Scheduler (R72,
R86). -/
def reportStep (s : State) : State :=
  stepReport
    (raise .timing { s with time := { s.time with stepCount := saturate (s.time.stepCount + 1) } })

/-! ### The start of an epoch -/

/-- The training or pause count of a port (R23). -/
def advanceTraining (t : Training) : Training :=
  match t with
  | .locking n => .locking (min 256 (n + 1))
  | .pause n => .pause (n - 1)

/-- One port at the start of an epoch: its presence sample (R21) and its training count (R23). -/
def samplePort (presence : BitVec 6) (s : State) (p : PortId) : State :=
  let x := s.port p
  s.setPort p
    { x with presence := sampleInput (presence.getLsbD p.val) x.presence, training := x.training.map advanceTraining }

/-- A timer falls by one and stops at 0. -/
def countDown (t : Option Nat) : Option Nat := t.map fun n => n - 1

/-- A record's timers (R107, R125, R126, R133, R134). -/
def ageRecord (r : StreamRecord) : StreamRecord :=
  { r with
    setupTimer := countDown r.setupTimer, retuneTimer := countDown r.retuneTimer
    suspendTimer := countDown r.suspendTimer, rerouteTimer := countDown r.rerouteTimer }

/-- A directory entry's age (R46). -/
def ageEntry (e : DirEntry) : DirEntry :=
  if e.state = .lost then e else { e with age := min Figures.expiryAge (e.age + 1) }

/-- The drain timer falls while this frame is DEPARTING (R35). -/
def ageSwap (x : Swap) : Swap :=
  if x.departure = .departing then { x with drainTimer := x.drainTimer - 1 } else x

/-- The directory's timers and ages (R41, R46, R52). -/
def ageDirectory (d : Directory) : Directory :=
  { d with
    entries := d.entries.map ageEntry, announceTimer := d.announceTimer - 1
    announceDue := d.announceDue || decide (d.announceTimer ≤ 1)
    hold := d.hold.map fun h => { h with timer := h.timer - 1 } }

/-- The start of an epoch: samples, counts and timers, and the retention of triggers. -/
def beginEpoch (s : State) : State :=
  let s := allPorts.foldl (samplePort s.pins.presence) s
  retain
    { s with
      swap := ageSwap s.swap, dir := ageDirectory s.dir
      time := { s.time with holdoverTimer := countDown s.time.holdoverTimer }
      streams := { s.streams with records := s.streams.records.map ageRecord } }

/-- The gap ends and the next local epoch begins. A step carried in the gap is reported before the retention test, and before
ARMED entries whose fire time falls at its moment or is passed over by it are looked at, so that these are MISSED(TIME_STEP)
(DESIGN CHOICE both, log entry 11). Without a step, a fire tick that the shortened epoch did not have is reached at tick 0 (R85).
The miss counts of the ended epoch advance before the counter turns, and MARKER_LOSS comes after it, in the epoch that begins
(DESIGN CHOICE, log entry 49). -/
def crossBoundary (s : State) : State :=
  let stepped := (currentGap s).step.isSome
  let s := turnCounter (endEpoch s)
  beginEpoch (if stepped then reportStep s else fireOverdue s)

/-! ### Moments that fall due on their own -/

/-- The record switches: RETUNING, and its switch epoch has begun (R130, R131). The switch epoch of hop j is E + j + 1. -/
def switchDue (s : State) (r : StreamRecord) : Bool :=
  r.state == .retuning &&
    r.switchEpoch.any fun e => !ahead (e + BitVec.ofNat 48 (r.hop + 1)) s.clock.epoch

/-- The sink settles: its settle epoch is not ahead of the current epoch (R150). One that has begun when it is handed settles in
the current epoch (DESIGN CHOICE, log entry 56: R130 and R150 speak of the start of an epoch). -/
def settleDue (s : State) (x : Sink) : Bool := x.settle.any fun e => !ahead e s.clock.epoch

/-- The budget of a sink's record. -/
def budgetOf (s : State) (x : Sink) : Nat := ((recordAt s x.record).map (·.budget)).getD 0

/-- The sink has held cells to release (R153), also where they came due within the epoch (DESIGN CHOICE, log entry 74). -/
def releasesNow (s : State) (x : Sink) : Bool := x.held.any fun c => !staysHeld (epochLow s) (budgetOf s x) c

end Sys2Proof.Machine
end

