-- ==== Sys2Proof/Machine/Transactions.lean ====
section
/-! DEFINITION. The bytes of a SPI transaction's request (R168, R169): kind, length and fields of each of the 29 requests,
formed and read. -/

namespace Sys2Proof.Machine

open Sys2Proof

/-- An optional field: its presence byte, then the field (R168). -/
def optionalBytes (v : Option (BitVec 16)) : List Byte :=
  match v with
  | none => [0]
  | some x => 1 :: bytesOf 2 x.toNat

/-- A selector in place of an index: 0 and the index, or 1 for the summary or all (R168). -/
def selectorBytes (v : Option Byte) : List Byte :=
  match v with
  | some n => [0, n]
  | none => [1]

/-- A configuration item as SET_CONFIG and GET_CONFIG name it: its choice byte, then its index where it has one (R172). -/
def itemBytes (i : ConfigItem) : List Byte :=
  match i with
  | .frameId => [0] | .timingPriority => [1] | .useReference => [2] | .holdoverLimit => [3] | .drainDefault => [4]
  | .suspendDefault => [5] | .noticeLevel n => [6, n] | .noticeMask => [7] | .channelMap n => [8, n]

/-- The kind code of a SPI request (R168) and its field bytes; other commands are no requests. -/
def requestBytes (i : Instr) : Option (Nat × List Byte) :=
  match i with
  | .identify => some (1, [])
  | .setConfigFrameId v => some (2, itemBytes .frameId ++ bytesOf 2 v.toNat)
  | .setConfigTimingPriority v => some (2, itemBytes .timingPriority ++ bytesOf 2 v.toNat)
  | .setConfigUseReference v => some (2, itemBytes .useReference ++ bytesOf 2 v.toNat)
  | .setConfigHoldoverLimit v => some (2, itemBytes .holdoverLimit ++ bytesOf 2 v.toNat)
  | .setConfigDrainDefault v => some (2, itemBytes .drainDefault ++ bytesOf 2 v.toNat)
  | .setConfigSuspendDefault v => some (2, itemBytes .suspendDefault ++ bytesOf 2 v.toNat)
  | .setConfigNoticeLevel n v => some (2, itemBytes (.noticeLevel n) ++ bytesOf 2 v.toNat)
  | .setConfigNoticeMask v => some (2, itemBytes .noticeMask ++ bytesOf 2 v.toNat)
  | .setConfigChannelMap n v => some (2, itemBytes (.channelMap n) ++ bytesOf 2 v.toNat)
  | .getConfig (some i) => some (3, 0 :: itemBytes i)
  | .getConfig none => some (3, [1])
  | .getPort p => some (4, [p])
  | .resetPort p => some (5, [p])
  | .depart count => some (6, optionalBytes count)
  | .cancelDepart => some (7, [])
  | .getFrame f => some (8, [f])
  | .getTiming => some (9, [])
  | .restartTiming => some (10, [])
  | .openStream lane terminal rate size budget limit reroute =>
    some (11, [lane, terminal] ++ bytesOf 4 rate.toNat ++ [size, budget] ++ optionalBytes limit ++ [reroute])
  | .lookupStream id => some (12, bytesOf 2 id.toNat)
  | .nextStream start => some (13, [start])
  | .closeStream id => some (14, bytesOf 2 id.toNat)
  | .retuneStream id rate => some (15, bytesOf 2 id.toNat ++ bytesOf 4 rate.toNat)
  | .clearStreams => some (16, [])
  | .attachSink id lane mode block threshold start =>
    some (17, bytesOf 2 id.toNat ++ [lane, mode] ++ bytesOf 2 block.toNat ++ [threshold] ++ optionalBytes start)
  | .detachSink k => some (18, [k])
  | .armSink k start => some (19, k :: optionalBytes start)
  | .getSink k => some (20, selectorBytes k)
  | .scheduleTrigger channel tick (.epoch e) => some (21, [channel] ++ bytesOf 2 tick.toNat ++ [0] ++ bytesOf 6 e.toNat)
  | .scheduleTrigger channel tick (.lead n) => some (21, [channel] ++ bytesOf 2 tick.toNat ++ [1] ++ bytesOf 2 n.toNat)
  | .cancelTrigger id => some (22, bytesOf 2 id.toNat)
  | .getTrigger (.id id) => some (23, 0 :: bytesOf 2 id.toNat)
  | .getTrigger (.position n) => some (23, [1, n])
  | .getTrigger .summary => some (23, [2])
  | .armInput input lead channel mode => some (24, [input] ++ bytesOf 2 lead.toNat ++ [channel, mode])
  | .disarmInput input => some (25, [input])
  | .readNotices => some (26, [])
  | .readCapture n => some (27, selectorBytes n)
  | .clearCapture n => some (28, selectorBytes n)
  | .resetDevice => some (29, [])
  | .unknownRequestKind .. | .transactionAbandoned _ | .deviceReset _ | .localEpochStart .. | .gapStart | .timeStep
  | .markerSend _ | .managementCellBuild _ | .dataSlot .. | .symbolLockGained _ | .symbolLockLost _ | .symbolBurst ..
  | .markerReceived .. | .cellReceived .. | .setup .. | .confirm .. | .refuse .. | .release .. | .break_ .. | .retune ..
  | .retuneOk .. | .retuneRefuse .. | .retuneCommit .. | .retuneAbort .. | .announce .. | .trigger .. | .cancel ..
  | .presenceQualified _ | .presenceLost _ | .trainingPause _ | .trainingPauseEnd _ | .markerLoss _ | .delayJump _
  | .drainEnd | .announceTimerExpiry | .entryAgedOut _ | .electionHoldEnd | .nearCountFull | .unusableCountFull
  | .farCountFull | .returnCountFull | .holdoverExpiry | .refinQualified | .refinUnqualified | .triggerFireTime _
  | .triggerPulseEnd | .triggerInputEdge .. | .setupTimerExpiry _ | .suspendTimerExpiry _ | .rerouteRetryExpiry _
  | .originRetuneTimeout _ | .hopRetuneTimeout _ | .retuneSwitch _ | .sinkSettle _ | .cellRelease _ | .lanePush ..
  | .lanePull .. | .laneAcknowledgement .. | .resetPinAsserted => none

/-- The bytes that the frame controller sends for a request: kind, length, fields (R168). -/
def transactionBytes (i : Instr) : Option (List Byte) :=
  (requestBytes i).map fun r => bytesOf 1 r.1 ++ bytesOf 1 r.2.length ++ r.2

/-! ### Reading a request (R169) -/

/-- A 16-bit field of two bytes. -/
def word16 (a b : Byte) : BitVec 16 := BitVec.ofNat 16 (numberOf [a, b])

/-- A 32-bit field of four bytes. -/
def word32 (a b c d : Byte) : BitVec 32 := BitVec.ofNat 32 (numberOf [a, b, c, d])

/-- A 48-bit field of six bytes. -/
def word48 (a b c d e f : Byte) : BitVec 48 := BitVec.ofNat 48 (numberOf [a, b, c, d, e, f])

/-- An optional 16-bit field that ends the request; none when its form is wrong. -/
def readOptional (f : List Byte) : Option (Option (BitVec 16)) :=
  match f with
  | [c] => if c = 0 then some none else none
  | [c, a, b] => if c = 1 then some (some (word16 a b)) else none
  | _ => none

/-- A selector that ends the request; none when its form is wrong. -/
def readSelector (f : List Byte) : Option (Option Byte) :=
  match f with
  | [c] => if c = 1 then some none else none
  | [c, n] => if c = 0 then some (some n) else none
  | _ => none

/-- A configuration item that stands first, with the bytes after it. -/
def readItem (f : List Byte) : Option (ConfigItem × List Byte) :=
  match f with
  | [] => none
  | c :: rest =>
    match c.toNat, rest with
    | 0, _ => some (.frameId, rest)
    | 1, _ => some (.timingPriority, rest)
    | 2, _ => some (.useReference, rest)
    | 3, _ => some (.holdoverLimit, rest)
    | 4, _ => some (.drainDefault, rest)
    | 5, _ => some (.suspendDefault, rest)
    | 6, n :: rest => some (.noticeLevel n, rest)
    | 7, _ => some (.noticeMask, rest)
    | 8, n :: rest => some (.channelMap n, rest)
    | _, _ => none

/-- The SET_CONFIG of an item. -/
def setConfigOf (i : ConfigItem) (v : BitVec 16) : Instr :=
  match i with
  | .frameId => .setConfigFrameId v | .timingPriority => .setConfigTimingPriority v
  | .useReference => .setConfigUseReference v | .holdoverLimit => .setConfigHoldoverLimit v
  | .drainDefault => .setConfigDrainDefault v | .suspendDefault => .setConfigSuspendDefault v
  | .noticeLevel n => .setConfigNoticeLevel n v | .noticeMask => .setConfigNoticeMask v
  | .channelMap n => .setConfigChannelMap n v

/-- The fields of SET_CONFIG. -/
def readSetConfig (f : List Byte) : Option Instr :=
  match readItem f with
  | some (i, [a, b]) => some (setConfigOf i (word16 a b))
  | _ => none

/-- The fields of GET_CONFIG: 0 and the item, or 1 for all. -/
def readGetConfig (f : List Byte) : Option Instr :=
  match f with
  | [] => none
  | c :: rest =>
    if c = 1 then (if rest = [] then some (.getConfig none) else none)
    else if c = 0 then
      match readItem rest with
      | some (i, []) => some (.getConfig (some i))
      | _ => none
    else none

/-- The fields of OPEN_STREAM. -/
def readOpenStream (f : List Byte) : Option Instr :=
  match f with
  | lane :: terminal :: a :: b :: c :: d :: size :: budget :: rest =>
    match rest.getLast? with
    | some reroute =>
      (readOptional rest.dropLast).map fun limit =>
        .openStream lane terminal (word32 a b c d) size budget limit reroute
    | none => none
  | _ => none

/-- The fields of ATTACH_SINK. -/
def readAttachSink (f : List Byte) : Option Instr :=
  match f with
  | a :: b :: lane :: mode :: c :: d :: threshold :: rest =>
    (readOptional rest).map fun start => .attachSink (word16 a b) lane mode (word16 c d) threshold start
  | _ => none

/-- The fields of SCHEDULE_TRIGGER. -/
def readSchedule (f : List Byte) : Option Instr :=
  match f with
  | [channel, a, b, c, d, e] =>
    if c = 1 then some (.scheduleTrigger channel (word16 a b) (.lead (word16 d e))) else none
  | [channel, a, b, c, d, e, g, h, i, j] =>
    if c = 0 then some (.scheduleTrigger channel (word16 a b) (.epoch (word48 d e g h i j))) else none
  | _ => none

/-- The fields of GET_TRIGGER. -/
def readGetTrigger (f : List Byte) : Option Instr :=
  match f with
  | [c] => if c = 2 then some (.getTrigger .summary) else none
  | [c, n] => if c = 1 then some (.getTrigger (.position n)) else none
  | [c, a, b] => if c = 0 then some (.getTrigger (.id (word16 a b))) else none
  | _ => none

/-- The request that a kind code and field bytes give; none when their form is wrong (R169). -/
def readRequest (kind : Byte) (f : List Byte) : Option Instr :=
  match kind.toNat, f with
  | 1, [] => some .identify
  | 2, f => readSetConfig f
  | 3, f => readGetConfig f
  | 4, [p] => some (.getPort p)
  | 5, [p] => some (.resetPort p)
  | 6, f => (readOptional f).map .depart
  | 7, [] => some .cancelDepart
  | 8, [x] => some (.getFrame x)
  | 9, [] => some .getTiming
  | 10, [] => some .restartTiming
  | 11, f => readOpenStream f
  | 12, [a, b] => some (.lookupStream (word16 a b))
  | 13, [n] => some (.nextStream n)
  | 14, [a, b] => some (.closeStream (word16 a b))
  | 15, [a, b, c, d, e, g] => some (.retuneStream (word16 a b) (word32 c d e g))
  | 16, [] => some .clearStreams
  | 17, f => readAttachSink f
  | 18, [k] => some (.detachSink k)
  | 19, k :: rest => (readOptional rest).map (.armSink k)
  | 20, f => (readSelector f).map .getSink
  | 21, f => readSchedule f
  | 22, [a, b] => some (.cancelTrigger (word16 a b))
  | 23, f => readGetTrigger f
  | 24, [i, a, b, c, m] => some (.armInput i (word16 a b) c m)
  | 25, [i] => some (.disarmInput i)
  | 26, [] => some .readNotices
  | 27, f => (readSelector f).map .readCapture
  | 28, f => (readSelector f).map .clearCapture
  | 29, [] => some .resetDevice
  | _, _ => none

/-- The request of a whole transaction's bytes: none when it is released before it is taken or its form is wrong. Bytes
after the last field byte are not read (R168). -/
def readTransaction (bs : List Byte) : Option Instr :=
  match bs with
  | kind :: len :: rest =>
    if rest.length < len.toNat then none else readRequest kind (rest.take len.toNat)
  | _ => none

/-- How many bytes of a transaction its request takes; none when it is released before its request is taken (R168). -/
def requestEnd (bs : List Byte) : Option Nat :=
  match bs with
  | _ :: len :: rest => if rest.length < len.toNat then none else some (2 + len.toNat)
  | _ => none

/-- The command that a transaction is, from its select to its release: the request that its bytes form, UNKNOWN_REQUEST_KIND for
a request of wrong form (R169), TRANSACTION_ABANDONED for one released before its request is taken. It reads the transaction's
own bytes from the kind byte on, whatever the last transaction left unread (R168). -/
def transactionCommand (bs : List Byte) : Instr :=
  match bs with
  | kind :: len :: rest =>
    if rest.length < len.toNat then .transactionAbandoned bs
    else (readRequest kind (rest.take len.toNat)).getD (.unknownRequestKind kind (rest.take len.toNat))
  | _ => .transactionAbandoned bs

end Sys2Proof.Machine
end

