-- ==== Sys2Proof/Machine/RequestPort.lean ====
section
/-! DEFINITION. The requests of the frame controller port's own chapter and of the capture chapter: identification (R171),
configuration items (R172 to R174), notices (R176), captures (R165, R166), device reset (R177), and transactions that give no
request (R168, R169). -/

namespace Sys2Proof.Machine

open Sys2Proof

/-- The configuration items replaced. -/
def State.setConfig (s : State) (c : Config) : State := { s with req := { s.req with config := c } }

/-- The value of an item, on two bytes (R172); none for an index out of its range. -/
def itemValue (c : Config) (i : ConfigItem) : Option (BitVec 16) :=
  match i with
  | .frameId => some (BitVec.ofNat 16 c.frameId.val)
  | .timingPriority => some (BitVec.ofNat 16 c.timingPriority)
  | .useReference => some (BitVec.ofNat 16 (bit c.useReference))
  | .holdoverLimit => some (BitVec.ofNat 16 c.holdoverLimit)
  | .drainDefault => some (BitVec.ofNat 16 c.drainDefault)
  | .suspendDefault => some (BitVec.ofNat 16 c.suspendDefault)
  | .noticeLevel n => (noticeOf n).map fun k => BitVec.ofNat 16 (c.noticeLevel.get k)
  | .noticeMask => some (BitVec.ofNat 16 c.noticeMask)
  | .channelMap n => if n.toNat < 8 then some ((c.channelMap.get n.toNat).setWidth 16) else none

/-- The OK answer of SET_CONFIG: the value stored (R172). -/
def answerItem (i : ConfigItem) (s : State) : State :=
  match itemValue s.req.config i with
  | some v => answer .ok (.value v) s
  | none => answer .badArgument .empty s

/-- IDENTIFY (R171). -/
def execIdentify (s : State) : Host.Outcome State Fault Refusal :=
  request s fun s => answer .ok (.identity s.req.strap (ownFrame s) s.clock.epoch) s

/-- SET_CONFIG of FRAME_ID (R172, R173). -/
def execSetConfigFrameId (v : BitVec 16) (s : State) : Host.Outcome State Fault Refusal :=
  request s fun s =>
    let f := clampFrame v
    if (allPorts.any fun p => (s.port p).state == .admitted) ||
        (f == 0 && allPorts.any fun p => (s.port p).state == .draining) then answer .busy .empty s
    else answerItem .frameId (if f = ownFrame s then s else takeFrameId f s)

/-- SET_CONFIG of TIMING_PRIORITY (R172, R174): a new value is announced and the election is evaluated. -/
def execSetConfigTimingPriority (v : BitVec 16) (s : State) : Host.Outcome State Fault Refusal :=
  request s fun s =>
    let x := clamp 0 15 v.toNat
    answerItem .timingPriority
      (if x = s.req.config.timingPriority then s
      else evaluate (announceAdvancing (s.setConfig { s.req.config with timingPriority := x })))

/-- SET_CONFIG of USE_REFERENCE (R172, R174): a change of reference present has the effects of R64. -/
def execSetConfigUseReference (v : BitVec 16) (s : State) : Host.Outcome State Fault Refusal :=
  request s fun s =>
    let t := s.setConfig { s.req.config with useReference := v != 0 }
    answerItem .useReference (if referencePresent t = referencePresent s then t else referenceChanged t)

/-- SET_CONFIG of HOLDOVER_LIMIT (R172, R174). -/
def execSetConfigHoldoverLimit (v : BitVec 16) (s : State) : Host.Outcome State Fault Refusal :=
  request s fun s => answerItem .holdoverLimit (s.setConfig { s.req.config with holdoverLimit := v.toNat })

/-- SET_CONFIG of DRAIN_DEFAULT (R172, R174). -/
def execSetConfigDrainDefault (v : BitVec 16) (s : State) : Host.Outcome State Fault Refusal :=
  request s fun s => answerItem .drainDefault (s.setConfig { s.req.config with drainDefault := v.toNat })

/-- SET_CONFIG of SUSPEND_DEFAULT, at least 1 (R172, R174). -/
def execSetConfigSuspendDefault (v : BitVec 16) (s : State) : Host.Outcome State Fault Refusal :=
  request s fun s => answerItem .suspendDefault (s.setConfig { s.req.config with suspendDefault := max 1 v.toNat })

/-- SET_CONFIG of NOTICE_LEVEL (R172, R174). -/
def execSetConfigNoticeLevel (index : Byte) (v : BitVec 16) (s : State) : Host.Outcome State Fault Refusal :=
  request s fun s =>
    match noticeOf index with
    | none => answer .badArgument .empty s
    | some k =>
      answerItem (.noticeLevel index)
        (s.setConfig { s.req.config with noticeLevel := s.req.config.noticeLevel.set k (clamp 0 7 v.toNat) })

/-- SET_CONFIG of NOTICE_MASK (R172, R174). -/
def execSetConfigNoticeMask (v : BitVec 16) (s : State) : Host.Outcome State Fault Refusal :=
  request s fun s => answerItem .noticeMask (s.setConfig { s.req.config with noticeMask := clamp 0 7 v.toNat })

/-- SET_CONFIG of CHANNEL_MAP: the low eight bits are stored (R172, R174). -/
def execSetConfigChannelMap (index : Byte) (v : BitVec 16) (s : State) : Host.Outcome State Fault Refusal :=
  request s fun s =>
    if index.toNat < 8 then
      answerItem (.channelMap index)
        (s.setConfig { s.req.config with channelMap := s.req.config.channelMap.set index.toNat (v.setWidth 8) })
    else answer .badArgument .empty s

/-- GET_CONFIG of an item or of all (R172). -/
def execGetConfig (item : Option ConfigItem) (s : State) : Host.Outcome State Fault Refusal :=
  request s fun s =>
    match item with
    | none => answer .ok (.config s.req.config) s
    | some i => answerItem i s

/-- READ_NOTICES (R176): the flags and ATTN as they stood, then every flag clear. -/
def execReadNotices (s : State) : Host.Outcome State Fault Refusal :=
  request s fun s =>
    answer .ok (.notices s.req.pending (attn s)) { s with req := { s.req with pending := PerNotice.all false } }

/-- A capture record by number: 0..5 of the ports, 6 of the lanes, 7 of the protocol (R161). -/
def captureAt (s : State) (n : Byte) : Option CaptureRecord :=
  match portOf n with
  | some p => some (s.captures.port.get p)
  | none => if n = 6 then some s.captures.lane else if n = 7 then some s.captures.protocol else none

/-- An empty capture record with LOST clear. -/
def emptyCapture : CaptureRecord := ⟨none, false⟩

/-- A capture record emptied (R166). -/
def clearCaptureAt (n : Byte) (s : State) : State :=
  { s with
    captures :=
      match portOf n with
      | some p => { s.captures with port := s.captures.port.set p emptyCapture }
      | none =>
        if n = 6 then { s.captures with lane := emptyCapture }
        else if n = 7 then { s.captures with protocol := emptyCapture }
        else s.captures }

/-- READ_CAPTURE of a record or the summary (R165). -/
def execReadCapture (record : Option Byte) (s : State) : Host.Outcome State Fault Refusal :=
  request s fun s =>
    match record with
    | none => answer .ok (.captures s.captures) s
    | some n =>
      match captureAt s n with
      | some r => answer .ok (.capture r) s
      | none => answer .badArgument .empty s

/-- CLEAR_CAPTURE of a record or of all, answered with the content before (R166). -/
def execClearCapture (record : Option Byte) (s : State) : Host.Outcome State Fault Refusal :=
  request s fun s =>
    match record with
    | none =>
      answer .ok (.captures s.captures)
        { s with captures := ⟨PerPort.all emptyCapture, emptyCapture, emptyCapture⟩ }
    | some n =>
      match captureAt s n with
      | some r => answer .ok (.capture r) (clearCaptureAt n s)
      | none => answer .badArgument .empty s

/-- The end of a device reset whose cause has ended (R177): the straps are sampled, here as `straps`, and every block takes its
values after device reset. -/
def endReset (straps : BitVec 5) (s : State) : State :=
  State.afterReset s.pending { s.pins with straps := straps, reset := false, samplings := s.pins.samplings + 1 }

/-- RESET_DEVICE: answered OK, and the device reset that follows when the select wire is released at the end of its
transaction (R177). The command is the whole transaction, its release included, and the levels that FID0..FID4 then show are a
free value (DESIGN CHOICE, log entry 30). -/
def execResetDevice (s : State) : Host.Outcome State Fault Refusal :=
  request s fun s => answer .ok .empty (endReset (Figures.strapLevels s.pins.samplings) s)

/-- A taken request whose form is wrong is answered BAD_REQUEST and changes nothing (R169). Bytes that do form a request are
that request's command and are not this one. -/
def execUnknownRequestKind (kind : Byte) (fields : List Byte) (s : State) : Host.Outcome State Fault Refusal :=
  request s fun s =>
    match readRequest kind fields with
    | none => answer .badRequest .empty s
    | some _ => s

/-- A transaction released before its request is taken takes nothing (R168); only what is sent while the part is held in
reset differs (R177). -/
def execTransactionAbandoned (_received : List Byte) (s : State) : Host.Outcome State Fault Refusal :=
  request s fun s => s

end Sys2Proof.Machine
end

