-- ==== Sys2Proof/Machine/FrameRequests.lean ====
section
/-! DEFINITION. The requests on ports and departure (R32, R34, R36), the Frame Directory (R54) and rack time (R76, R77). -/

namespace Sys2Proof.Machine

open Sys2Proof

/-! ### Ports and departure -/

/-- GET_PORT's fields (R32). -/
def portReport (x : Port) : PortReport where
  state := x.state
  reason := x.reason
  training := x.training
  presence := x.presence
  neighbour := x.neighbour
  announceSeen := x.announceSeen
  neighbourDeparting := x.neighbourDeparting
  lastMarker := x.lastMarker
  delay := delayOf x.delay
  usable := usableCount x.delay
  missCount := x.missCount
  protocolLength := x.protocolQueue.length
  floodLength := x.floodQueue.length

/-- GET_PORT (R32). -/
def execGetPort (port : Byte) (s : State) : Host.Outcome State Fault Refusal :=
  request s fun s =>
    match portOf port with
    | none => answer .badArgument .empty s
    | some p => answer .ok (.port (portReport (s.port p))) s

/-- RESET_PORT (R30, R32): a port in DOWN stays as it is; any other is reset and the answer carries its state after. -/
def execResetPort (port : Byte) (s : State) : Host.Outcome State Fault Refusal :=
  request s fun s =>
    match portOf port with
    | none => answer .badArgument .empty s
    | some p =>
      if (s.port p).state = .down then answer .ok .empty s
      else
        let s := takeCause p .resetPort s
        answer .ok (.portState (s.port p).state) s

/-- DEPART (R34): from IN_SERVICE to DEPARTING, announced and with the election evaluated; a count of 0 ends the drain in
the same event. -/
def execDepart (count : Option (BitVec 16)) (s : State) : Host.Outcome State Fault Refusal :=
  request s fun s =>
    if departing s then answer .busy .empty s
    else
      let m := match count with
        | some n => n.toNat
        | none => s.req.config.drainDefault
      let s := raise .port { s with swap := ⟨.departing, m⟩ }
      let s := evaluate (announceAdvancing s)
      answer .ok .empty (if m = 0 then endDrain s else s)

/-- The ports in DRAINING, ascending. -/
def drainingPorts (s : State) : List PortId := allPorts.filter fun p => (s.port p).state == .draining

/-- CANCEL_DEPART (R36): back to IN_SERVICE, DRAINING ports to ADMITTED, announced and with the election evaluated. R36, R41
and R48 name no order of the ports' change and the announce: the ports change first and take the announce (DESIGN CHOICE, log
entry 66). -/
def execCancelDepart (s : State) : Host.Outcome State Fault Refusal :=
  request s fun s =>
    if !departing s then answer .ok .empty s
    else
      let s := raise .port { s with swap := { s.swap with departure := .inService } }
      let s := (drainingPorts s).foldl (fun s p => changePort p .admitted none s) s
      answer .ok .empty (evaluate (announceAdvancing s))

/-! ### Frame Directory -/

/-- How many entries are in a state. -/
def entriesIn (s : State) (x : EntryState) : Nat := (s.dir.entries.filter fun e => e.state == x).length

/-- The directory summary of GET_FRAME (R54). -/
def directoryReport (s : State) : DirectoryReport where
  frameId := ownFrame s
  serial := s.dir.serial
  restartCount := s.dir.restartCount
  announceTimer := s.dir.announceTimer
  forwarding := !departing s
  outcome := s.time.result
  hold := s.dir.hold.map (·.timer)
  reachable := entriesIn s .reachable
  departing := entriesIn s .departing
  lost := entriesIn s .lost

/-- GET_FRAME (R54). -/
def execGetFrame (frame : Byte) (s : State) : Host.Outcome State Fault Refusal :=
  request s fun s =>
    match frameOf frame.toNat with
    | none => answer .badArgument .empty s
    | some x =>
      if x = 0 ∨ x = ownFrame s then answer .ok (.directory (directoryReport s)) s
      else answer .ok (.entry (entryOf s x)) s

/-! ### Rack time -/

/-- A delay record as GET_TIMING reports it (R77). -/
def delayReport (r : DelayRecord) : DelayReport :=
  match r with
  | .closed => .closed
  | .sampling _ => .sampling
  | .valid _ d16 jumps => .valid (reportedDelay d16) jumps

/-- GET_TIMING's fields (R77). The quality of a master is REF (true) while reference present holds, RUN otherwise (R64). -/
def timingReport (s : State) : TimingReport where
  time := now s
  stamp := s.clock.stamp
  state := s.time.state
  role := s.time.role
  quality := if s.time.role = .master then some (referencePresent s) else none
  result := s.time.result
  port := s.time.port.map fun p => (p, timingUsable s p)
  phase := s.time.lastPhase.map fun o => (o.error, o.mismatch)
  counts := s.time.counts
  holdoverTimer := s.time.holdoverTimer
  refin := s.time.refin
  reference := referencePresent s
  stepCount := s.time.stepCount
  delays := s.ports.map fun x => delayReport x.delay

/-- GET_TIMING (R77). -/
def execGetTiming (s : State) : Host.Outcome State Fault Refusal :=
  request s fun s => answer .ok (.timing (timingReport s)) s

/-- The restart of timing (R76). The part gives up the master role with its time, so that the election which the change to
FREE calls for finds it no candidate of the first kind (R55); then the result held is handed again. -/
def restartTimebase (s : State) : State :=
  let s := clearCounts { s with time := { s.time with role := .follower, holdoverTimer := none } }
  let s := changeTiming .free s
  let s := reportStep s
  handResult evaluate s.time.result s

/-- RESTART_TIMING (R76). -/
def execRestartTiming (s : State) : Host.Outcome State Fault Refusal :=
  request s fun s => answer .ok .empty (restartTimebase s)

end Sys2Proof.Machine
end

