-- ==== Sys2Proof/Machine/StreamRequests.lean ====
section
/-! DEFINITION. The requests on stream records (R98, R99, R111, R112, R115, R116, R127), and the outcomes that an origin takes
from its own full queue (R14, R122, R132). -/

namespace Sys2Proof.Machine

open Sys2Proof

/-! ### Shared parts -/

/-- A REFUSE taken by an origin in PENDING (R122): a first setup, whose suspend timer is stopped, becomes CLOSED; a re-route
attempt becomes SUSPENDED again. -/
def refuseOrigin (i : Nat) (c : ReasonCode) (refusing : FrameId) (s : State) : State :=
  match recordAt s i with
  | none => s
  | some r =>
    if r.suspendTimer.isNone then closeRecord i (.code c) (some refusing) s
    else editRecord i (fun r => { r with refusing := some refusing }) (suspend i c (freesSlots c) s)

/-- The SETUP of an origin record (R116, R126). -/
def setupOf (r : StreamRecord) : Msg :=
  .setup
    { id := r.id, gen := r.gen, terminal := r.terminal, hop := 0, rate := BitVec.ofNat 32 r.rate
      sampleBytes := BitVec.ofNat 8 r.sampleBytes, cells := BitVec.ofNat 8 r.cells, budget := BitVec.ofNat 8 r.budget }

/-- An origin offers its SETUP; a full queue is a REFUSE(CONGESTED) from downstream, refused by this frame (R14, R116). -/
def offerSetup (i : Nat) (s : State) : State :=
  match recordAt s i with
  | none => s
  | some r =>
    match r.egress with
    | none => s
    | some p =>
      match protocolAnswer s p (setupOf r) with
      | .taken => joinProtocol p (setupOf r) s
      | .full => refuseOrigin i .congested (ownFrame s) s
      | .noPort => s

/-- A retune's demand staged (R127, R128): RETUNING with its timer, the extra slots on the egress, the sinks raised to the
greater demand. -/
def stageRetune (i : Nat) (d : Staged) (timer : Option Nat) (s : State) : State :=
  match recordAt s i with
  | none => s
  | some r =>
    reserveSinks r (max r.cells d.cells)
      (assignSlots i (d.cells - r.cells)
        (changeRecord i
          (fun r => { r with state := .retuning, staged := some d, switchEpoch := none, retuneTimer := timer }) s))

/-- A record takes its switch epoch E, stops its retune timer and hands E + B to its sinks (R127, R129, R130, R150). -/
def takeSwitchEpoch (i : Nat) (e : Epoch) (s : State) : State :=
  match recordAt s i with
  | none => s
  | some r =>
    setSettle r (some (e + BitVec.ofNat 48 r.budget))
      (editRecord i (fun r => { r with switchEpoch := some e, retuneTimer := none }) s)

/-! ### OPEN_STREAM (R115, R116) -/

/-- The origin records of a lane, CLOSED ones included (R138). -/
def laneOrigins (s : State) (l : LaneId) : List StreamRecord :=
  s.streams.records.filter fun r => r.ingress == .lane l && isOrigin r

/-- The next serial of this frame's streams: one on, wrapping from 2047 to 1, past ids that a record holds (R97). -/
def nextStreamSerial (s : State) : Nat :=
  let tries := (List.range 2047).map fun i => (s.streams.serial + i) % 2047 + 1
  (tries.find? fun n => (recordOf s (streamIdOf (ownFrame s) n)).isNone).getD s.streams.serial

/-- The checks of OPEN_STREAM in their order (R115). -/
def openRefusal (s : State) (lane : LaneId) (terminal : FrameId) (rate size budget : Nat) : Option RefusalReason :=
  if rate = 0 ∨ size ∉ sampleSizes then some .badFormat
  else if Figures.originsPerLane ≤ (laneOrigins s lane).length then some .laneFull
  else if (freeIndex s).isNone then some (.code .noRecord)
  else if !timed s then some (.code .notTimed)
  else if departing s then some (.code .departing)
  else
    let tooFast := decide (Figures.maxCells < demand rate size)
    match routeTo s terminal with
    | .unknownFrame | .departing _ _ | .notAdmitted _ _ => some (.code .noRoute)
    | .here => if tooFast then some (.code .tooFast) else none
    | .route p d =>
      if tooFast then some (.code .tooFast)
      else if budget < d + 1 then some (.code .latency)
      else if freeUsable s p < demand rate size then some (.code .noSlots)
      else none

/-- A new origin record, as R116 lays it down; a loopback is ACTIVE at once, any other origin is PENDING. -/
def originRecord (i : Nat) (id : StreamId) (lane : LaneId) (terminal : FrameId) (rate size budget limit : Nat)
    (reroute : Bool) (egress : Option PortId) (order : Epoch) : StreamRecord where
  index := i
  id := id
  gen := 0
  role := if egress.isSome then .origin else .loopback
  ingress := .lane lane
  egress := egress
  terminal := terminal
  hop := 0
  pathLength := if egress.isSome then none else some 0
  rate := rate
  sampleBytes := size
  cells := demand rate size
  staged := none
  switchEpoch := none
  budget := budget
  sinks := []
  state := if egress.isSome then .pending else .active
  reason := none
  refusing := none
  retuneCause := none
  activation := if egress.isSome then none else some order
  source := some ⟨0, 0, reroute⟩
  expected := none
  poisonCount := 0
  suspendLimit := limit
  setupTimer := if egress.isSome then some Figures.setupEpochs else none
  retuneTimer := none
  suspendTimer := none
  rerouteTimer := none
  changed := false
  queue := []

/-- The record created by an OPEN_STREAM that passed its checks, and what follows by the route (R116). -/
def openRecord (i : Nat) (lane : LaneId) (terminal : FrameId) (rate size budget limit : Nat) (reroute : Bool) (s : State) :
    State :=
  let serial := nextStreamSerial s
  let egress := match routeTo s terminal with
    | .route p _ => some p
    | .here | .unknownFrame | .departing _ _ | .notAdmitted _ _ => none
  let r := originRecord i (streamIdOf (ownFrame s) serial) lane terminal rate size budget limit reroute egress
    s.streams.activations
  let s :=
    { s with
      streams :=
        { records := insertRecord r s.streams.records, serial := serial
          activations := if egress.isSome then s.streams.activations else s.streams.activations + 1 } }
  if egress.isSome then offerSetup i (assignSlots i r.cells s) else s

/-- The reroute choice byte: 0 clear, 1 set. -/
def rerouteOf (b : Byte) : Option Bool :=
  match b.toNat with
  | 0 => some false | 1 => some true | _ => none

/-- The arguments of OPEN_STREAM as lane, terminal frame, limit and reroute choice; none is BAD_ARGUMENT (R115). -/
def openArguments (s : State) (lane terminal : Byte) (rate : BitVec 32) (budget : Byte) (limit : Option (BitVec 16))
    (reroute : Byte) : Option (LaneId × FrameId × Nat × Bool) :=
  match laneOf lane, frameOf terminal.toNat, rerouteOf reroute with
  | some l, some f, some b =>
    if f = 0 ∨ Figures.maxRate < rate.toNat ∨ budget.toNat < 2 ∨ 32 < budget.toNat ∨ limit = some 0 then none
    else some (l, f, (limit.map (·.toNat)).getD s.req.config.suspendDefault, b)
  | _, _, _ => none

/-- OPEN_STREAM (R115, R116). -/
def execOpenStream (lane terminal : Byte) (rate : BitVec 32) (sampleBytes budget : Byte) (limit : Option (BitVec 16))
    (reroute : Byte) (s : State) : Host.Outcome State Fault Refusal :=
  request s fun s =>
    match openArguments s lane terminal rate budget limit reroute with
    | none => answer .badArgument .empty s
    | some (l, f, epochs, again) =>
      match openRefusal s l f rate.toNat sampleBytes.toNat budget.toNat, freeIndex s with
      | some c, _ => refuseWith c s
      | none, none => refuseWith (.code .noRecord) s
      | none, some i =>
        let s := openRecord i l f rate.toNat sampleBytes.toNat budget.toNat epochs again s
        match recordAt s i with
        | some r => answer .ok (.opened r.id i r.cells r.state r.reason) s
        | none => s

/-! ### Reading (R98, R99) -/

/-- A record as LOOKUP_STREAM and NEXT_STREAM report it (R98): every field, the slot list, and the length of its queue when
it has one (R136). -/
def streamReport (s : State) (r : StreamRecord) : StreamReport where
  record := r
  slots := slotList s r
  queueLength := match r.role with
    | .origin | .transit => some r.queue.length
    | .terminus | .loopback => none

/-- LOOKUP_STREAM (R98): reported with its changed mark, which is then cleared. -/
def execLookupStream (id : StreamId) (s : State) : Host.Outcome State Fault Refusal :=
  request s fun s =>
    match recordOf s id with
    | none => answer .notFound .empty s
    | some r => answer .ok (.stream (streamReport s r)) (editRecord r.index (fun r => { r with changed := false }) s)

/-- NEXT_STREAM (R99). -/
def execNextStream (start : Byte) (s : State) : Host.Outcome State Fault Refusal :=
  request s fun s =>
    if 127 < start.toNat then answer .badArgument .empty s
    else
      match s.streams.records.find? fun r => decide (start.toNat ≤ r.index) with
      | none => answer .notFound .empty s
      | some r => answer .ok (.stream (streamReport s r)) s

/-! ### Closing and clearing (R111, R112) -/

/-- CLOSE_STREAM (R111). -/
def execCloseStream (id : StreamId) (s : State) : Host.Outcome State Fault Refusal :=
  request s fun s =>
    match recordOf s id with
    | none => answer .notFound .empty s
    | some r =>
      if !isOrigin r then refuseWith .notOrigin s
      else
        let s := if r.state = .closed then s else releaseDown r s
        answer .ok .empty (removeRecord r.index s)

/-- Every record, sink and slot entry goes at once (R96, R112, R160). -/
def clearTable (s : State) : State :=
  raiseIf (!s.sinks.isEmpty) .sink
    (raise .stream
      { s with
        streams := { s.streams with records := [] }, sinks := []
        ports := s.ports.map fun x => { x with slotMap := [] } })

/-- CLEAR_STREAMS (R112). -/
def execClearStreams (s : State) : Host.Outcome State Fault Refusal :=
  request s fun s =>
    let count := s.streams.records.length
    answer .ok (.removed count) (clearTable (s.streams.records.foldl (fun s r => clearMessages r s) s))

/-! ### RETUNE_STREAM (R127) -/

/-- The refusals of RETUNE_STREAM at an ACTIVE origin, in their order (R127). -/
def retuneRefusal (s : State) (r : StreamRecord) (rate : Nat) : Option RefusalReason :=
  let c := demand rate r.sampleBytes
  if departing s then some (.code .departing)
  else if rate = 0 then some .badFormat
  else if Figures.maxCells < c then some (.code .tooFast)
  else if r.cells < c ∧ r.egress.any (fun p => decide (freeUsable s p < c - r.cells)) then some (.code .noSlots)
  else if !poolAdmits s r (max r.cells c) then some (.code .noPool)
  else none

/-- A retune begun at an origin (R127). -/
def beginRetune (r : StreamRecord) (d : Staged) (s : State) : State :=
  match r.egress with
  | none => takeSwitchEpoch r.index (s.clock.epoch + 2) (stageRetune r.index d none s)
  | some p =>
    let m := Msg.retune r.id r.gen (BitVec.ofNat 32 d.rate) (BitVec.ofNat 8 d.cells)
    let s := stageRetune r.index d (some Figures.originRetuneEpochs) s
    match protocolAnswer s p m with
    | .taken => joinProtocol p m s
    | .full => refuseRetune r.index .congested s
    | .noPort => s

/-- RETUNE_STREAM (R127). -/
def execRetuneStream (id : StreamId) (rate : BitVec 32) (s : State) : Host.Outcome State Fault Refusal :=
  request s fun s =>
    if Figures.maxRate < rate.toNat then answer .badArgument .empty s
    else
      match recordOf s id with
      | none => answer .notFound .empty s
      | some r =>
        if !isOrigin r then refuseWith .notOrigin s
        else if r.state ≠ .active ∨ settlePending s r then answer .busy .empty s
        else
          match retuneRefusal s r rate.toNat with
          | some c => refuseWith c s
          | none =>
            let c := demand rate.toNat r.sampleBytes
            let s := beginRetune r ⟨c, rate.toNat⟩ s
            match recordAt s r.index with
            | some r => answer .ok (.retuned c r.state) s
            | none => s

end Sys2Proof.Machine
end

