-- ==== Sys2Proof/Machine/SinkRequests.lean ====
section
/-! DEFINITION. The requests on sinks (R148, R149, R156, R159). -/

namespace Sys2Proof.Machine

open Sys2Proof

/-- The sinks of a lane. -/
def sinksOnLane (s : State) (l : LaneId) : List Sink := s.sinks.filter fun x => x.lane == l

/-- A sink as it is created (R148). A start of LOST stands from the beginning when the named trigger cannot start it. -/
def newSink (s : State) (k : Nat) (r : StreamRecord) (l : LaneId) (mode : SinkMode) (block threshold : Nat)
    (start : Option TriggerId) : Sink where
  index := k
  record := r.index
  stream := r.id
  lane := l
  hop := r.hop
  mode := mode
  blockSize := block
  threshold := threshold
  start := if mode = .single then some (startFor s start) else none
  state := if mode = .single then .waiting else .running
  done := false
  overrun := false
  held := []
  released := []
  reservation := reservationFor r.cells r.budget r.hop
  settle := none
  lateCount := 0
  gapCount := 0
  blockStart := none
  expected := none

/-- A sink joins the table and the tail of its record's list, with the START_LOST notice if its start is LOST (R148). -/
def addSink (x : Sink) (s : State) : State :=
  raiseIf (x.start == some .lost) .sink
    (editRecord x.record (fun r => { r with sinks := r.sinks ++ [x.index] })
      { s with sinks := insertSink x s.sinks })

/-- The arguments of ATTACH_SINK as lane and mode; none is BAD_ARGUMENT (R148). -/
def attachArguments (lane mode : Byte) (block : Nat) (start : Option (BitVec 16)) : Option (LaneId × SinkMode) :=
  match laneOf lane, modeOf mode with
  | some l, some m =>
    if block < 1 ∨ 4096 < block ∨ (start.isSome ∧ m ≠ .single) then none else some (l, m)
  | _, _ => none

/-- ATTACH_SINK (R148). -/
def execAttachSink (id : StreamId) (lane mode : Byte) (blockSize : BitVec 16) (threshold : Byte)
    (start : Option (BitVec 16)) (s : State) : Host.Outcome State Fault Refusal :=
  request s fun s =>
    match attachArguments lane mode blockSize.toNat start with
    | none => answer .badArgument .empty s
    | some (l, m) =>
      match recordOf s id with
      | none => answer .notFound .empty s
      | some r =>
        if r.state ≠ .active ∨ settlePending s r then answer .busy .empty s
        else
          match s.sinks.find? fun x => x.record == r.index && x.lane == l with
          | some x => answer .busy (.sinkIndex x.index) s
          | none =>
            if Figures.sinksPerRecord ≤ r.sinks.length then answer .full (.limit .record) s
            else if Figures.sinksPerLane ≤ (sinksOnLane s l).length then answer .full (.limit .lane) s
            else
              match freeSink s with
              | none => answer .full (.limit .table) s
              | some k =>
                let x := newSink s k r l m blockSize.toNat (clampThreshold threshold) (start.map triggerIdOf)
                if Figures.poolCells < reservedCells s + x.reservation then refuseWith (.code .noPool) s
                else answer .ok (.attached k x.reservation) (addSink x s)

/-- DETACH_SINK (R149). -/
def execDetachSink (sink : Byte) (s : State) : Host.Outcome State Fault Refusal :=
  request s fun s =>
    if Figures.sinkEntries ≤ sink.toNat then answer .badArgument .empty s
    else
      match sinkAt s sink.toNat with
      | none => answer .notFound .empty s
      | some _ => answer .ok .empty (dropSink sink.toNat s)

/-- A sink armed again (R156): held cells discarded, WAITING with its start, block start absent. -/
def armed (start : SinkStart) (x : Sink) : Sink :=
  { x with held := [], state := .waiting, start := some start, blockStart := none }

/-- ARM_SINK (R156). -/
def execArmSink (sink : Byte) (start : Option (BitVec 16)) (s : State) : Host.Outcome State Fault Refusal :=
  request s fun s =>
    if Figures.sinkEntries ≤ sink.toNat then answer .badArgument .empty s
    else
      match sinkAt s sink.toNat with
      | none => answer .notFound .empty s
      | some x =>
        if x.mode ≠ .single then answer .busy .empty s
        else
          let begun := startFor s (start.map triggerIdOf)
          answer .ok .empty (raiseIf (begun == .lost) .sink (changeSink sink.toNat (armed begun) s))

/-- A list of cells by its length, first and last sequence (R159). -/
def listReport (cs : List SinkCell) : ListReport :=
  ⟨cs.length, cs.head?.map (·.sequence), cs.getLast?.map (·.sequence)⟩

/-- A sink as GET_SINK reports it (R159). -/
def sinkReport (x : Sink) : SinkReport :=
  ⟨{ x with held := [], released := [] }, listReport x.held, listReport x.released, effectiveThreshold x⟩

/-- The summary of the pool (R159). -/
def poolReport (s : State) : PoolReport :=
  ⟨s.sinks.length, reservedCells s, Figures.poolCells - reservedCells s, (s.sinks.map occupied).sum⟩

/-- GET_SINK of a sink or the summary (R159). -/
def execGetSink (sink : Option Byte) (s : State) : Host.Outcome State Fault Refusal :=
  request s fun s =>
    match sink with
    | none => answer .ok (.pool (poolReport s)) s
    | some k =>
      if Figures.sinkEntries ≤ k.toNat then answer .badArgument .empty s
      else
        match sinkAt s k.toNat with
        | none => answer .notFound .empty s
        | some x => answer .ok (.sink (sinkReport x)) s

end Sys2Proof.Machine
end

