-- ==== Sys2Proof/Machine/TriggerRequests.lean ====
section
/-! DEFINITION. The requests on triggers and trigger inputs (R81, R82, R89, R90). -/

namespace Sys2Proof.Machine

open Sys2Proof

/-- The fire epoch of SCHEDULE_TRIGGER (R81). -/
def fireEpoch (s : State) (w : FireWhen) : Epoch :=
  match w with
  | .epoch e => e
  | .lead n => s.clock.epoch + n.setWidth 48

/-- The lead of SCHEDULE_TRIGGER lies in 32..65535: carried, or as the difference from the current epoch, of which a
negative one is never in the range (R81). -/
def leadAdmits (s : State) (w : FireWhen) : Bool :=
  match w with
  | .epoch e => decide (32 ≤ (e - s.clock.epoch).toNat ∧ (e - s.clock.epoch).toNat ≤ 65535)
  | .lead n => decide (32 ≤ n.toNat)

/-- SCHEDULE_TRIGGER (R81). -/
def execScheduleTrigger (channel : Byte) (fireTick : BitVec 16) (fireWhen : FireWhen) (s : State) :
    Host.Outcome State Fault Refusal :=
  request s fun s =>
    if 7 < channel.toNat ∨ 8191 < fireTick.toNat then answer .badArgument .empty s
    else if ownFrame s = 0 then refuseWith .noId s
    else if !timed s then refuseWith (.code .notTimed) s
    else if !leadAdmits s fireWhen then refuseWith .lead s
    else if !canStore s then answer .full .empty s
    else
      answer .ok (.scheduled ⟨ownFrame s, nextTriggerSerial s⟩ (fireEpoch s fireWhen))
        (createTrigger ⟨fireEpoch s fireWhen, fireTick.toNat⟩ channel.toNat s)

/-- CANCEL_TRIGGER (R82). -/
def execCancelTrigger (id : BitVec 16) (s : State) : Host.Outcome State Fault Refusal :=
  request s fun s =>
    let t := triggerIdOf id
    match triggerAt s t with
    | none => answer .notFound .empty s
    | some e =>
      if !isArmed e then answer .busy (.triggerState e.state) s
      else
        let s := cancelEntry t s
        answer .ok .empty (offerAll (offerFlood (.cancel t)) (admittedPorts s) s)

/-- How many entries satisfy a test of their state. -/
def countTriggers (s : State) (f : TriggerState → Bool) : Nat := (s.trig.table.filter fun e => f e.state).length

/-- The entry has fired. -/
def isFired (x : TriggerState) : Bool :=
  match x with
  | .fired _ => true
  | .armed | .missed _ | .cancelled => false

/-- The entry was missed. -/
def isMissed (x : TriggerState) : Bool :=
  match x with
  | .missed _ => true
  | .armed | .fired _ | .cancelled => false

/-- The summary of GET_TRIGGER (R90). -/
def triggerReport (s : State) : TriggerReport where
  armed := countTriggers s (· == .armed)
  fired := countTriggers s isFired
  missed := countTriggers s isMissed
  cancelled := countTriggers s (· == .cancelled)
  dropped := s.trig.dropped.length
  notStored := s.trig.notStored
  serial := s.trig.serial
  channelMap := s.req.config.channelMap
  inputs := s.trig.inputs

/-- GET_TRIGGER (R90). A position counts from 1. -/
def execGetTrigger (selector : TriggerSelector) (s : State) : Host.Outcome State Fault Refusal :=
  request s fun s =>
    match selector with
    | .summary => answer .ok (.triggers (triggerReport s)) s
    | .position n =>
      if n = 0 ∨ Figures.triggerEntries < n.toNat then answer .badArgument .empty s
      else
        match s.trig.table[n.toNat - 1]? with
        | some e => answer .ok (.trigger e) s
        | none => answer .notFound .empty s
    | .id bits =>
      let t := triggerIdOf bits
      match triggerAt s t, s.trig.dropped.find? fun n => n.id == t with
      | some e, _ => answer .ok (.trigger e) s
      | none, some n => answer .ok (.note n) s
      | none, none => answer .notFound .empty s

/-- The arm that a mode byte names: 0 ONE_SHOT, 1 REPEAT (R89). -/
def armFor (mode : Byte) (lead channel : Nat) : Option Arm :=
  match mode.toNat with
  | 0 => some (.oneShot lead channel)
  | 1 => some (.repeated lead channel none)
  | _ => none

/-- ARM_INPUT (R89). -/
def execArmInput (input : Byte) (lead : BitVec 16) (channel mode : Byte) (s : State) : Host.Outcome State Fault Refusal :=
  request s fun s =>
    match inputOf input, armFor mode lead.toNat channel.toNat with
    | some i, some a =>
      if lead.toNat < 32 ∨ 7 < channel.toNat then answer .badArgument .empty s
      else answer .ok .empty (setInput i { s.trig.inputs.get i with arm := a } s)
    | _, _ => answer .badArgument .empty s

/-- DISARM_INPUT (R89). -/
def execDisarmInput (input : Byte) (s : State) : Host.Outcome State Fault Refusal :=
  request s fun s =>
    match inputOf input with
    | none => answer .badArgument .empty s
    | some i => answer .ok .empty (setInput i { s.trig.inputs.get i with arm := .disarmed } s)

end Sys2Proof.Machine
end

