-- ==== Sys2Proof/Machine/ClockEvents.lean ====
section
/-! DEFINITION. The commands of the clock and the pins (R56, R57, R72, R177). -/

namespace Sys2Proof.Machine

open Sys2Proof

/-- The end of the RESET pin, of power-on, or the release that follows RESET_DEVICE (R177): the straps are sampled and every
block takes its values after device reset. -/
def execDeviceReset (straps : BitVec 5) (s : State) : Host.Outcome State Fault Refusal :=
  .next (endReset straps s)

/-- The start of the next local epoch (R56), with the presence inputs as they then are (R21) and whether REFIN showed a
rising edge in the epoch that ends (R64). What is left of the current epoch passes first. -/
def execLocalEpochStart (presence : BitVec 6) (refin : Bool) (s : State) : Host.Outcome State Fault Refusal :=
  event s fun s => crossBoundary (beginGap { s with pins := { s.pins with presence := presence, refin := refin } })

/-- The gap begins at tick 7936 (R57). -/
def execGapStart (s : State) : Host.Outcome State Fault Refusal := event s beginGap

/-- The end of a gap that carries a step (R72); a gap without one gives nothing. The command carries no pins: the presence
sample of the new epoch and the REFIN activity of the one it ends are those of the pins as the last LOCAL_EPOCH_START gave
them (DESIGN CHOICE, log entry 12). -/
def execTimeStep (s : State) : Host.Outcome State Fault Refusal :=
  event s fun s => if s.clock.gap.any (·.step.isSome) then crossBoundary s else s

/-- The RESET pin is asserted or power is coming up (R177): nothing is sent on the cables and SPI carries all ones. ATTN, the
lane notice lines and the trigger outputs read deasserted while the pin is held. -/
def execResetPinAsserted (s : State) : Host.Outcome State Fault Refusal :=
  .next
    { s with
      pins := { s.pins with reset := true }
      ports := s.ports.map fun x => { x with wire := .nothing }
      req := { s.req with spi := .allOnes } }

end Sys2Proof.Machine
end

