-- ==== Sys2Proof/Machine/Cables.lean ====
section
/-! DEFINITION. The commands of the cables: markers, management cells and data slots sent (R1, R2, R12, R17, R141), symbol
lock and symbol errors (R7, R23), markers and cells received (R3 to R5, R8 to R11, R142 to R144). -/

namespace Sys2Proof.Machine

open Sys2Proof

/-! ### Sending -/

/-- A slot of a port begins: the clock has come to it, the port's engine has begun it, and sends `w`. -/
def beginSlot (p : PortId) (n : Nat) (w : Wire) (s : State) : State :=
  s.setPort p { s.port p with nextSlot := n + 1, wire := w }

/-- Slot n of a port has not begun and its moment has not passed. -/
def slotAhead (s : State) (p : PortId) (n : Nat) : Bool :=
  decide ((s.port p).nextSlot ≤ n ∧ s.clock.tick ≤ Figures.slotTicks * n)

/-- R1 calls for a marker in slot 0. -/
def sendsMarker (x : Port) : Bool :=
  match x.state with
  | .down => false
  | .training => x.symbolLock
  | .probing | .up | .admitted | .draining | .fault => true

/-- The info bits of a marker sent now (R2). -/
def infoNow (s : State) : InfoBits where
  usable := s.time.role == .master || s.time.state == .locked
  holdover := s.time.state == .holdover
  departing := departing s
  epochOdd := s.clock.epoch.getLsbD 0

/-- The marker that a port sends now (R2, R20). -/
def markerNow (s : State) (p : PortId) : Marker where
  epoch := s.clock.epoch
  frame := ownFrame s
  port := BitVec.ofNat 3 p.val
  tx := s.clock.stamp
  echoTx := ((s.port p).echo.map (·.tx)).getD 0
  echoRx := ((s.port p).echo.map (·.rx)).getD 0
  timing := s.time.state
  echoValid := (s.port p).echo.isSome
  master := s.time.role == .master
  priority := s.req.config.timingPriority

/-- Slot 0 begins on a port: a marker where R1 calls for one (R2). -/
def execMarkerSend (port : PortId) (s : State) : Host.Outcome State Fault Refusal :=
  event s fun s =>
    if slotAhead s port 0 then
      beginSlot port 0
        (if sendsMarker (s.port port) then .marker (markerBytes (markerNow s port) (infoNow s))
        else quietWire (s.port port).state) s
    else s

/-- How many messages of the two queues the next management cell takes (R12). -/
def takenCounts (x : Port) : Nat × Nat :=
  let fromProtocol := min Figures.messagesPerCell x.protocolQueue.length
  (fromProtocol, min (Figures.messagesPerCell - fromProtocol) x.floodQueue.length)

/-- Slot 1 begins on a port: in UP, ADMITTED and DRAINING a management cell is built from the two queues (R12). -/
def execManagementCellBuild (port : PortId) (s : State) : Host.Outcome State Fault Refusal :=
  event s fun s =>
    if slotAhead s port 1 then
      let s := runTo Figures.slotTicks s
      let x := s.port port
      if takesOffers x.state then
        let n := takenCounts x
        let cell := managementCell (x.protocolQueue.take n.1 ++ x.floodQueue.take n.2)
        beginSlot port 1 (.cell cell)
          (s.setPort port { x with protocolQueue := x.protocolQueue.drop n.1, floodQueue := x.floodQueue.drop n.2 })
      else beginSlot port 1 (quietWire x.state) s
    else s

/-- The oldest cell of a record's queue, when the queue is open and the cell was taken in an earlier epoch (R141). -/
def eligibleCell (s : State) (r : StreamRecord) : Option QueuedCell :=
  if r.state = .active ∨ r.state = .retuning then
    match r.queue with
    | [] => none
    | c :: _ => if ahead s.clock.epoch c.taken then some c else none
  else none

/-- What a data slot of an ADMITTED port sends for a record (R17). -/
def sendRecord (p : PortId) (n : Nat) (r : StreamRecord) (s : State) : State :=
  match eligibleCell s r with
  | some c => beginSlot p n (.cell (dataCell c n)) (editRecord r.index (fun r => { r with queue := r.queue.drop 1 }) s)
  | none => beginSlot p n (.cell (fillCell r.gen n)) s

/-- The record that an entry of a slot map names. -/
def slotRecord (s : State) (p : PortId) (n : Nat) : Option StreamRecord :=
  ((s.port p).slotMap.find? fun e => e.slot == n).bind fun e => recordAt s e.record

/-- A data slot begins on a port (R17, R141). -/
def execDataSlot (port : PortId) (slot : Nat) (s : State) : Host.Outcome State Fault Refusal :=
  event s fun s =>
    if 2 ≤ slot ∧ slot < Figures.slots ∧ slotAhead s port slot then
      let s := runTo (Figures.slotTicks * slot) s
      if (s.port port).state = .admitted then
        match slotRecord s port slot with
        | some r => sendRecord port slot r s
        | none => beginSlot port slot .idleSymbols s
      else beginSlot port slot (quietWire (s.port port).state) s
    else s

/-! ### Symbol lock and symbol errors -/

/-- The receiver gains symbol lock (R23). In the pause phase and in DOWN the receiver does not seek it. -/
def execSymbolLockGained (port : PortId) (s : State) : Host.Outcome State Fault Refusal :=
  event s fun s =>
    let x := s.port port
    match x.state, x.training with
    | .down, _ | .training, some (.pause _) => s
    | .training, _ => s.setPort port { x with symbolLock := true, recognizer := Recognizer.searching }
    | _, _ => s.setPort port { x with symbolLock := true }

/-- The receiver gives up symbol lock (R23): in TRAINING the recognizer stops and the miss count becomes 0; other states
keep everything else. -/
def execSymbolLockLost (port : PortId) (s : State) : Host.Outcome State Fault Refusal :=
  event s fun s =>
    if (s.port port).symbolLock then s.setPort port (giveUpLock (s.port port)) else s

/-- Symbol errors on a port, other than those that a MARKER_RECEIVED carries (R7). -/
def execSymbolBurst (port : PortId) (errors : Nat) (s : State) : Host.Outcome State Fault Refusal :=
  event s (countErrors errors port)

/-! ### Receiving -/

/-- Symbols that arrive on a port and end with a marker's last (R3 to R5). -/
def execMarkerReceived (port : PortId) (symbols : List Symbol) (s : State) : Host.Outcome State Fault Refusal :=
  event s (recognizeAll port symbols)

/-- The first condition of R8 that makes a cell HEADER_BAD. -/
def headerFault (bs : List Byte) : Option HeaderCheck :=
  let h := readHeader bs
  if bs.length < Figures.cellBytes then some .truncated
  else if !headerCheckOk bs then some .headerCheck
  else
    match h.kind with
    | .marker => some .markerKind
    | .mgmt => if h.slot = 1 then none else some .mgmtSlot
    | .data | .fill => if 2 ≤ h.slot.toNat ∧ h.slot.toNat ≤ 61 then none else some .dataSlot

/-- The slot number of a HEADER_BAD capture: that of a header whose own check is right, as its byte gives it, also above the
61 of R161 (DESIGN CHOICE, log entry 63). -/
def headerSlot (bs : List Byte) : Option Nat := if headerCheckOk bs then some (readHeader bs).slot.toNat else none

/-- One envelope of a management cell (R10, R11): a valid message is passed on with its port, a malformed one is captured. -/
def passEnvelope (p : PortId) (s : State) (e : Envelope) : State :=
  match e with
  | .message m => { s with inbox := s.inbox ++ [⟨p, m⟩] }
  | .malformed kind stream trigger =>
    captureProtocol .protocol stream (.protocol .malformedMessage kind p trigger) s

/-- A management cell unpacked (R10). -/
def unpack (p : PortId) (bs : List Byte) (s : State) : State :=
  if !payloadCheckOk bs then capturePort p .payloadBad (some 1) none .management s
  else
    let payload := readPayload bs
    let count := (byteAt payload 0).toNat
    if Figures.messagesPerCell < count then
      captureProtocol .protocol none (.protocol .malformedCell none p none) s
    else (readEnvelopes count (payload.drop 1)).foldl (passEnvelope p) s

/-- A received cell as a sink holds it. -/
def sinkCellOf (h : CellHeader) (poison : Bool) (payload : List Byte) : SinkCell :=
  ⟨h.sequence, h.originEpoch, h.samples, poison, false, payload⟩

/-- The transit queue takes an arriving cell, or drops it with a TRANSIT_OVERFLOW capture (R143). -/
def takeTransit (r : StreamRecord) (p : PortId) (c : QueuedCell) (s : State) : State :=
  if r.queue.length < 2 * slotsHeld s r then editRecord r.index (fun r => { r with queue := r.queue ++ [c] }) s
  else capturePort p .transitOverflow none (some c.id) (.overflow c.sequence false) s

/-- A cell handed on by classification (R142): taken by an ACTIVE or RETUNING record, discarded by any other. -/
def arrive (h : CellHeader) (poison : Bool) (payload : List Byte) (r : StreamRecord) (s : State) : State :=
  if r.state = .active ∨ r.state = .retuning then
    let s := editRecord r.index
      (fun r =>
        { r with
          expected := some (h.sequence + 1)
          poisonCount := if poison then saturate (r.poisonCount + 1) else r.poisonCount }) s
    let s := copyToSinks r (sinkCellOf h poison payload) s
    match r.role, r.egress with
    | .transit, some p =>
      takeTransit r p ⟨h.id, h.gen, h.sequence, h.originEpoch, h.samples, poison, payload, s.clock.epoch⟩ s
    | _, _ => s
  else s

/-- A DATA cell classified against the stream index (R9). -/
def classify (p : PortId) (bs : List Byte) (s : State) : State :=
  let h := readHeader bs
  let report (kind : ErrorKind) (d : Detail) (s : State) : State :=
    capturePort p kind (some h.slot.toNat) (some h.id) d s
  match recordOf s h.id with
  | none => report .unknownStream (.unknownStream h.gen h.sequence) s
  | some r =>
    if r.ingress ≠ .port p then report .wrongPort (.wrongPort h.sequence r.ingress) s
    else if h.gen ≠ r.gen then report .staleGen (.staleGen h.gen r.gen) s
    else if !payloadCheckOk bs then
      arrive h true (readPayload bs) r (report .payloadBad (.sequence h.sequence) s)
    else arrive h h.poison (readPayload bs) r s

/-- The cell-start symbol of a cell at the marker recognizer, while that runs (R3): it abandons a partial preamble and ends a
half-read marker as TRUNCATED. The bytes of the cell after it leave the recognizer searching. -/
def cellStarts (p : PortId) (bytes : List Byte) (s : State) : State :=
  if recognizerRuns (s.port p) then recognize p .cellStart (arrivalAgo s bytes.length) s else s

/-- A non-marker cell completes, or is cut short by a control symbol (R8). The receiver is inactive in DOWN. -/
def execCellReceived (port : PortId) (bytes : List Byte) (s : State) : Host.Outcome State Fault Refusal :=
  event s fun s =>
    let x := (s.port port).state
    if x = .down then s
    else
      let s := cellStarts port bytes s
      match headerFault bytes with
      | some c =>
        capturePort port .headerBad (headerSlot bytes)
          (if headerCheckOk bytes then some (readHeader bytes).id else none) (.header c) s
      | none =>
        match (readHeader bytes).kind with
        | .mgmt => if takesOffers x then unpack port bytes s else s
        | .data => if x = .admitted then classify port bytes s else s
        | .fill | .marker => s

end Sys2Proof.Machine
end

