-- ==== Sys2Proof/Machine/Paths.lean ====
section
/-! DEFINITION. The ten stream messages as the Path Controller takes them (R114, R117 to R124, R128 to R133). -/

namespace Sys2Proof.Machine

open Sys2Proof

/-! ### SETUP (R117 to R120) -/

/-- The fields of a SETUP give no admissible stream (R117). -/
def setupMalformed (m : SetupMsg) : Bool :=
  decide
    (streamOrigin m.id = 0 ∨ streamSerial m.id = 0 ∨ m.terminal = 0 ∨ m.rate = 0 ∨ Figures.maxRate < m.rate.toNat ∨
      m.sampleBytes.toNat ∉ sampleSizes ∨ m.cells = 0 ∨ Figures.maxCells < m.cells.toNat ∨ m.budget.toNat < 2 ∨
      32 < m.budget.toNat)

/-- A generation is newer than a record's: the difference modulo 16 is 1..7 (R117). -/
def newerGen (a b : Gen) : Bool := ahead a b

/-- The SETUP meets a LOOP (R117). -/
def setupLoops (s : State) (m : SetupMsg) : Bool :=
  streamOrigin m.id == (ownFrame s).val || (recordOf s m.id).any fun r => !newerGen m.gen r.gen

/-- The SETUP as a transit hop forwards it: the hop index is this hop's (R118). -/
def forwarded (m : SetupMsg) : Msg := .setup { m with hop := m.hop + 1 }

/-- The slots that a record to be superseded holds on a port (R117). -/
def slotsReturned (s : State) (m : SetupMsg) (p : PortId) : Nat :=
  match recordOf s m.id with
  | some r => if r.egress = some p then slotsHeld s r else 0
  | none => 0

/-- The checks of SETUP that concern a transit hop with next-hop port p (R117); i is this hop's index. -/
def transitRefusal (s : State) (q : PortId) (m : SetupMsg) (p : PortId) : Option ReasonCode :=
  let i := m.hop + 1
  if p = q then some .uTurn
  else if m.budget.toNat < i + 2 ∨ 29 < i then some .latency
  else if freeUsable s p + slotsReturned s m p < m.cells.toNat then some .noSlots
  else if protocolAnswer s p (forwarded m) = .full then some .congested
  else none

/-- What a SETUP that is not refused does: confirm here, or go on over a port. -/
inductive SetupPath where
  | terminus
  | transit (p : PortId)
  deriving DecidableEq, Repr

/-- The checks of SETUP in their order (R117): the refusal, or the way on. -/
def judgeSetup (s : State) (q : PortId) (m : SetupMsg) : ReasonCode ⊕ SetupPath :=
  let route := routeTo s m.terminal
  let toDeparting := match route with
    | .departing _ _ => true
    | .here | .unknownFrame | .notAdmitted _ _ | .route _ _ => false
  if !timed s then .inl .notTimed
  else if departing s || toDeparting then .inl .departing
  else if setupLoops s m then .inl .loop
  else if (recordOf s m.id).isNone && (freeIndex s).isNone then .inl .noRecord
  else if (s.port q).state ≠ .admitted then .inl .noRoute
  else
    match route with
    | .unknownFrame | .notAdmitted _ _ | .departing _ _ => .inl .noRoute
    | .here => if m.budget.toNat < m.hop + 2 ∨ 30 < m.hop + 1 then .inl .latency else .inr .terminus
    | .route p _ =>
      match transitRefusal s q m p with
      | some c => .inl c
      | none => .inr (.transit p)

/-- A record as a SETUP gives it at a hop (R118, R119); `old` is a record it supersedes, whose index, sinks, poison count
and expected sequence it keeps (R120). A new one has no expected sequence, as R118 and R92 say (DEDUCED, log entry 58: R145 speaks of
0). -/
def hopRecord (s : State) (i : Nat) (old : Option StreamRecord) (q : PortId) (m : SetupMsg) (egress : Option PortId) :
    StreamRecord where
  index := i
  id := m.id
  gen := m.gen
  role := if egress.isSome then .transit else .terminus
  ingress := .port q
  egress := egress
  terminal := m.terminal
  hop := m.hop + 1
  pathLength := if egress.isSome then none else some (m.hop + 1)
  rate := m.rate.toNat
  sampleBytes := m.sampleBytes.toNat
  cells := m.cells.toNat
  staged := none
  switchEpoch := none
  budget := m.budget.toNat
  sinks := (old.map (·.sinks)).getD []
  state := if egress.isSome then .pending else .active
  reason := none
  refusing := none
  retuneCause := none
  activation := if egress.isSome then none else some s.streams.activations
  source := none
  expected := old.bind (·.expected)
  poisonCount := (old.map (·.poisonCount)).getD 0
  suspendLimit := s.req.config.suspendDefault
  setupTimer := if egress.isSome then some Figures.setupEpochs else none
  retuneTimer := none
  suspendTimer := none
  rerouteTimer := none
  changed := true
  queue := []

/-- What a supersession does to the old record before the new values are set (R120): a BREAK of the old generation on its
old egress, and its slots released. -/
def breakOld (r : StreamRecord) (s : State) : State :=
  match r.egress with
  | none => s
  | some p =>
    let s := if inService r then breakDown r .pathLost s else s
    s.setSlotMap p (keepSlots 0 r.index (s.port p).slotMap)

/-- One sink of a superseded record takes the new hop index and reservation, or is detached when it does not fit (R150). -/
def carrySink (hop cells budget : Nat) (s : State) (k : Nat) : State :=
  match sinkAt s k with
  | none => s
  | some x =>
    let r := reservationFor cells budget hop
    if r ≤ x.reservation ∨ reservedCells s - x.reservation + r ≤ Figures.poolCells then
      changeSink k (fun x => withReservation r { x with hop := hop, settle := none }) s
    else detachSink k s

/-- The record stands in the table at its index, in place of the one it supersedes. -/
def putRecord (r : StreamRecord) (s : State) : State :=
  s.setRecords (insertRecord r (s.streams.records.filter fun x => x.index != r.index))

/-- A record created or superseded by a SETUP (R118 to R120), with its slots and a STREAM notice. -/
def placeRecord (q : PortId) (m : SetupMsg) (egress : Option PortId) (s : State) : State :=
  let old := recordOf s m.id
  match (old.map (·.index)).or (freeIndex s) with
  | none => s
  | some i =>
    let r := hopRecord s i old q m egress
    let s := match old with
      | some x => breakOld x s
      | none => s
    let s := putRecord r s
    let s := r.sinks.foldl (carrySink r.hop r.cells r.budget) s
    let s := if egress.isSome then assignSlots i r.cells s
      else { s with streams := { s.streams with activations := s.streams.activations + 1 } }
    raise .stream s

/-- A SETUP handled at a hop (R117 to R120). -/
def takeSetup (q : PortId) (m : SetupMsg) (s : State) : State :=
  if setupMalformed m then protocolError .malformedMessage (.setup m) q s
  else
    match judgeSetup s q m with
    | .inl c => send q (.refuse m.id m.gen c (ownFrame s)) s
    | .inr .terminus => send q (.confirm m.id m.gen (m.hop + 1)) (placeRecord q m none s)
    | .inr (.transit p) => placeRecord q m (some p) (joinProtocol p (forwarded m) s)

/-- SETUP (R117 to R120). -/
def execSetup (port : PortId) (m : SetupMsg) (s : State) : Host.Outcome State Fault Refusal :=
  event s fun s => takeSetup port m (takeMessage port (.setup m) s)

/-! ### Replies and teardown (R121 to R124) -/

/-- A matched message in a state for which its rule names no handling (R114, R162). -/
def unexpected (p : PortId) (m : Msg) (s : State) : State := protocolError .unexpected m p s

/-- A matched CONFIRM (R121). R125 says that one taken after the expiry of the setup timer is unmatched or stale and answered by
RELEASE; at an origin that a re-route attempt left SUSPENDED at the same generation it is matched by R114, and R121 has it
ignored: the model follows R114 and R121 and sends no RELEASE (DESIGN CHOICE, log entry 68). -/
def confirmRecord (p : PortId) (m : Msg) (h : Nat) (r : StreamRecord) (s : State) : State :=
  match r.state with
  | .pending =>
    let s := activate r.index (some h) s
    if r.role = .transit then sendSide (upstream r) m s else s
  | .suspended => s
  | .active | .retuning | .closed => unexpected p m s

/-- CONFIRM (R114, R121): an unmatched or stale one is answered with a RELEASE on the port it arrived on. -/
def execConfirm (port : PortId) (id : StreamId) (gen : Gen) (pathLength : Nat) (s : State) :
    Host.Outcome State Fault Refusal :=
  event s fun s =>
    let m := Msg.confirm id gen pathLength
    let s := takeMessage port m s
    match matchMessage s port id gen .towardOrigin with
    | .unmatched | .stale => send port (.release id gen) s
    | .misdirected => protocolError .misdirected m port s
    | .matched r => confirmRecord port m pathLength r s

/-- A matched REFUSE (R122). -/
def refuseRecord (p : PortId) (m : Msg) (c : ReasonCode) (refusing : FrameId) (r : StreamRecord) (s : State) : State :=
  match r.state with
  | .pending =>
    if isOrigin r then refuseOrigin r.index c refusing s else removeRecord r.index (sendSide (upstream r) m s)
  | .active | .retuning | .suspended | .closed => unexpected p m s

/-- REFUSE (R114, R122). -/
def execRefuse (port : PortId) (id : StreamId) (gen : Gen) (reason : ReasonCode) (refusing : FrameId) (s : State) :
    Host.Outcome State Fault Refusal :=
  event s fun s =>
    let m := Msg.refuse id gen reason refusing
    whenMatched port m id gen .towardOrigin (refuseRecord port m reason refusing) (takeMessage port m s)

/-- RELEASE (R114, R123). -/
def execRelease (port : PortId) (id : StreamId) (gen : Gen) (s : State) : Host.Outcome State Fault Refusal :=
  event s fun s =>
    let m := Msg.release id gen
    whenMatched port m id gen .towardTerminus
      (fun r s => removeRecord r.index (sendSide (downstream r) m s)) (takeMessage port m s)

/-- A matched BREAK (R124): the record is suspended and the message goes on in its own direction. -/
def breakRecord (m : Msg) (c : ReasonCode) (d : Direction) (r : StreamRecord) (s : State) : State :=
  let s := suspend r.index c (freesSlots c) s
  match d with
  | .towardOrigin => sendSide (upstream r) m s
  | .towardTerminus => sendSide (downstream r) m s

/-- BREAK (R114, R124). -/
def execBreak (port : PortId) (id : StreamId) (gen : Gen) (reason : ReasonCode) (dir : Direction) (s : State) :
    Host.Outcome State Fault Refusal :=
  event s fun s =>
    let m := Msg.break_ id gen reason dir
    whenMatched port m id gen dir (breakRecord m reason dir) (takeMessage port m s)

/-! ### Retune (R128 to R133) -/

/-- The refusals of a RETUNE at an ACTIVE hop, in their order (R128). -/
def hopRetuneRefusal (s : State) (m : Msg) (r : StreamRecord) (cells : Nat) : Option ReasonCode :=
  if departing s then some .departing
  else if r.egress.any (fun p => decide (freeUsable s p < cells - r.cells)) then some .noSlots
  else if !poolAdmits s r (max r.cells cells) then some .noPool
  else if r.egress.any (fun p => protocolAnswer s p m == .full) then some .congested
  else none

/-- A matched RETUNE at a hop (R128). -/
def retuneRecord (p : PortId) (m : Msg) (rate cells : Nat) (r : StreamRecord) (s : State) : State :=
  if r.state ≠ .active ∨ settlePending s r then sendSide (upstream r) (.retuneRefuse r.id r.gen .busy) s
  else if rate = 0 ∨ Figures.maxRate < rate ∨ cells = 0 ∨ Figures.maxCells < cells then
    protocolError .malformedMessage m p s
  else
    match hopRetuneRefusal s m r cells with
    | some c => sendSide (upstream r) (.retuneRefuse r.id r.gen c) s
    | none =>
      let s := match r.egress with
        | some e => joinProtocol e m s
        | none => s
      let s := stageRetune r.index ⟨cells, rate⟩ (some Figures.hopRetuneEpochs) s
      if r.role = .terminus then sendSide (upstream r) (.retuneOk r.id r.gen) s else s

/-- RETUNE (R114, R128). -/
def execRetune (port : PortId) (id : StreamId) (gen : Gen) (rate : BitVec 32) (cells : Byte) (s : State) :
    Host.Outcome State Fault Refusal :=
  event s fun s =>
    let m := Msg.retune id gen rate cells
    whenMatched port m id gen .towardTerminus (retuneRecord port m rate.toNat cells.toNat) (takeMessage port m s)

/-- A record in RETUNING that holds no switch epoch yet. -/
def proposing (r : StreamRecord) : Bool := r.state == .retuning && r.switchEpoch.isNone

/-- A matched RETUNE_OK (R129): forwarded by a transit hop; an origin takes its switch epoch and commits. -/
def retuneOkRecord (p : PortId) (m : Msg) (r : StreamRecord) (s : State) : State :=
  if !proposing r then unexpected p m s
  else if isOrigin r then
    let e := s.clock.epoch + 2
    sendSide (downstream r) (.retuneCommit r.id r.gen e) (takeSwitchEpoch r.index e s)
  else sendSide (upstream r) m s

/-- RETUNE_OK (R114, R129). -/
def execRetuneOk (port : PortId) (id : StreamId) (gen : Gen) (s : State) : Host.Outcome State Fault Refusal :=
  event s fun s =>
    let m := Msg.retuneOk id gen
    whenMatched port m id gen .towardOrigin (retuneOkRecord port m) (takeMessage port m s)

/-- The retune of a hop ends as refused: reverted, with the code of the RETUNE_REFUSE as the record's reason (R95, R132). -/
def refuseRetuneHop (i : Nat) (c : ReasonCode) (s : State) : State :=
  changeRecord i (fun r => { r with reason := some (.code c) }) (revertRetune i s)

/-- A matched RETUNE_REFUSE (R132). -/
def retuneRefuseRecord (p : PortId) (m : Msg) (c : ReasonCode) (r : StreamRecord) (s : State) : State :=
  if r.state ≠ .retuning then s
  else if r.switchEpoch.isSome then unexpected p m s
  else if isOrigin r then refuseRetune r.index c s
  else sendSide (upstream r) m (refuseRetuneHop r.index c s)

/-- RETUNE_REFUSE (R114, R132). -/
def execRetuneRefuse (port : PortId) (id : StreamId) (gen : Gen) (reason : ReasonCode) (s : State) :
    Host.Outcome State Fault Refusal :=
  event s fun s =>
    let m := Msg.retuneRefuse id gen reason
    whenMatched port m id gen .towardOrigin (retuneRefuseRecord port m reason) (takeMessage port m s)

/-- The switch epoch of a hop, E + j + 1 (R130). -/
def hopSwitch (r : StreamRecord) (e : Epoch) : Epoch := e + BitVec.ofNat 48 (r.hop + 1)

/-- A matched RETUNE_COMMIT (R130): the switch epoch is taken and the commit goes on; a switch epoch that has begun makes
the record switch at once, with a LATE_SWITCH capture. -/
def commitRecord (p : PortId) (m : Msg) (e : Epoch) (r : StreamRecord) (s : State) : State :=
  if !proposing r then unexpected p m s
  else
    let s := sendSide (downstream r) m (takeSwitchEpoch r.index e s)
    if ahead (hopSwitch r e) s.clock.epoch then s
    else
      captureProtocol .lateSwitch (some r.id) (.lateSwitch (s.clock.epoch - hopSwitch r e).toNat p)
        (switchRecord r.index s)

/-- RETUNE_COMMIT (R114, R130). -/
def execRetuneCommit (port : PortId) (id : StreamId) (gen : Gen) (switch : Epoch) (s : State) :
    Host.Outcome State Fault Refusal :=
  event s fun s =>
    let m := Msg.retuneCommit id gen switch
    whenMatched port m id gen .towardTerminus (commitRecord port m switch) (takeMessage port m s)

/-- A matched RETUNE_ABORT (R133). -/
def abortRecord (p : PortId) (m : Msg) (r : StreamRecord) (s : State) : State :=
  if r.state = .active then s
  else if proposing r then sendSide (downstream r) m (revertRetune r.index s)
  else unexpected p m s

/-- RETUNE_ABORT (R114, R133). -/
def execRetuneAbort (port : PortId) (id : StreamId) (gen : Gen) (s : State) : Host.Outcome State Fault Refusal :=
  event s fun s =>
    let m := Msg.retuneAbort id gen
    whenMatched port m id gen .towardTerminus (abortRecord port m) (takeMessage port m s)

end Sys2Proof.Machine
end

