-- ==== Sys2Proof/Machine/Floods.lean ====
section
/-! DEFINITION. The three flooded messages: ANNOUNCE as the Swap Controller and the Frame Directory take it (R26, R27, R42 to
R45), TRIGGER and CANCEL as the Trigger Scheduler takes them (R83, R84). -/

namespace Sys2Proof.Machine

open Sys2Proof

/-! ### ANNOUNCE -/

/-- The announce-seen mark of a port in UP, and the test of admission that follows when it is set (R26, R27). -/
def markAnnounce (p : PortId) (a : AnnounceMsg) (s : State) : State :=
  if (s.port p).state = .up ∧ a.hops = 0 ∧ neighbourFrame s p = some a.frame then
    admitPort p (s.setPort p { s.port p with announceSeen := true })
  else s

/-- An announce passes the four conditions of R42. -/
def screened (s : State) (p : PortId) (a : AnnounceMsg) : Bool :=
  a.frame != 0 && a.frame != ownFrame s && decide (a.hops + 1 ≤ Figures.maxHops) && takesOffers (s.port p).state

/-- An announce that passed R42 is accepted (R43): new, restart, newer, shorter, or lower port. -/
def accepted (s : State) (p : PortId) (a : AnnounceMsg) : Bool :=
  match entryOf s a.frame with
  | none => true
  | some e =>
    e.state == .lost || (a.restart && a.serial != e.serial) || ahead a.serial e.serial ||
      (a.serial == e.serial &&
        (decide (a.hops + 1 < e.distance) || (a.hops + 1 == e.distance && decide (p < e.nextHop))))

/-- The entry that an accepted announce gives (R44). -/
def entryFrom (p : PortId) (a : AnnounceMsg) : DirEntry where
  frame := a.frame
  state := if a.departing then .departing else .reachable
  nextHop := p
  distance := a.hops + 1
  serial := a.serial
  restartSeen := a.restart
  age := 0
  priority := a.priority
  reference := a.reference
  timing := a.timing

/-- An entry put in place of the one for its frame, at its place in the order of frame ids. -/
def putEntry (e : DirEntry) (es : List DirEntry) : List DirEntry :=
  insertBy (fun a b => decide (a.frame < b.frame)) e (es.filter fun x => x.frame != e.frame)

/-- What the election ranks by differs between two entries (R44, R53). -/
def ranksDiffer (old : Option DirEntry) (e : DirEntry) : Bool :=
  match old with
  | none => true
  | some o =>
    o.state != e.state || o.nextHop != e.nextHop || o.priority != e.priority || o.reference != e.reference ||
      o.timing != e.timing

/-- An accepted announce forwarded (R45): hop count one more, to the other ports in UP or ADMITTED, unless this frame is
departing. -/
def forwardAnnounce (p : PortId) (a : AnnounceMsg) (s : State) : State :=
  if departing s then s
  else offerAll (offerAnnounce { a with hops := a.hops + 1 }) ((upOrAdmitted s).filter fun x => x != p) s

/-- An accepted announce (R44, R45). -/
def acceptAnnounce (p : PortId) (a : AnnounceMsg) (s : State) : State :=
  let old := entryOf s a.frame
  let e := entryFrom p a
  let s := { s with dir := { s.dir with entries := putEntry e s.dir.entries } }
  let s := raiseIf (old.map (·.state) != some e.state) .directory s
  forwardAnnounce p a (if ranksDiffer old e then evaluate s else s)

/-- ANNOUNCE (R26, R27, R42 to R45). -/
def execAnnounce (port : PortId) (m : AnnounceMsg) (s : State) : Host.Outcome State Fault Refusal :=
  event s fun s =>
    let s := markAnnounce port m (takeMessage port (.announce m) s)
    if screened s port m && accepted s port m then acceptAnnounce port m s else s

/-! ### TRIGGER and CANCEL -/

/-- The ports in ADMITTED other than one. -/
def otherAdmitted (p : PortId) (s : State) : List PortId := (admittedPorts s).filter fun x => x != p

/-- A TRIGGER whose id is not held and whose origin is another frame (R83): inserted ARMED or MISSED(LATE), or noted as
dropped; forwarded; and fired at once when its fire time is now. -/
def takeTrigger (p : PortId) (m : TriggerMsg) (s : State) : State :=
  let late := later (now s) m.fire
  let e : TriggerEntry := ⟨m.id, m.fire, m.channel, if late then .missed .late else .armed⟩
  let s := raiseIf (canStore s) .trigger (storeTrigger e s)
  let s := offerAll (offerFlood (.trigger m)) (otherAdmitted p s) s
  if late then s else fireIfReached m.id s

/-- TRIGGER (R83). -/
def execTrigger (port : PortId) (m : TriggerMsg) (s : State) : Host.Outcome State Fault Refusal :=
  event s fun s =>
    let s := takeMessage port (.trigger m) s
    if holdsTrigger s m.id || m.id.origin == ownFrame s then s else takeTrigger port m s

/-- CANCEL (R84). -/
def execCancel (port : PortId) (id : TriggerId) (s : State) : Host.Outcome State Fault Refusal :=
  event s fun s =>
    let s := takeMessage port (.cancel id) s
    match triggerAt s id with
    | none => s
    | some e =>
      if isArmed e then
        let s := cancelEntry id s
        offerAll (offerFlood (.cancel id)) (otherAdmitted port s) s
      else s

end Sys2Proof.Machine
end

