-- ==== Sys2Proof/Machine/PortEvents.lean ====
section
/-! DEFINITION. The part's own events on ports, on this frame's departure and in the Frame Directory: a count or a timer that
has come to its end (R6, R21 to R23, R35, R41, R46, R52, R62). Each acts when its count stands at its end, and changes nothing
otherwise. -/

namespace Sys2Proof.Machine

open Sys2Proof

/-- The present run count stands at 32 (R21). -/
def presenceGained (x : Port) : Bool := !x.presence.qualified && decide (32 ≤ x.presence.present)

/-- PRESENCE_QUALIFIED (R21, R22): the flag is set, and a port in DOWN enters TRAINING. -/
def execPresenceQualified (port : PortId) (s : State) : Host.Outcome State Fault Refusal :=
  event s fun s =>
    if presenceGained (s.port port) then
      let s := s.setPort port { s.port port with presence := ⟨true, 0, 0⟩ }
      if (s.port port).state = .down then
        let s := changePort port .training none s
        s.setPort port { s.port port with training := some (.locking 0) }
      else s
    else s

/-- The absent run count stands at 4 (R21). -/
def presenceGone (x : Port) : Bool := x.presence.qualified && decide (4 ≤ x.presence.absent)

/-- PRESENCE_LOST (R21, R22, R30): the flag is cleared, and a port in any state but DOWN is reset, to DOWN. -/
def execPresenceLost (port : PortId) (s : State) : Host.Outcome State Fault Refusal :=
  event s fun s =>
    if presenceGone (s.port port) then
      takeCause port .presenceLost (s.setPort port { s.port port with presence := ⟨false, 0, 0⟩ })
    else s

/-- The training count stands at 256 in TRAINING (R23). -/
def pauseDue (x : Port) : Bool :=
  x.state == .training &&
    match x.training with
    | some (.locking n) => decide (256 ≤ n)
    | some (.pause _) | none => false

/-- TRAINING_PAUSE (R23): the pause phase, with symbol lock given up. -/
def execTrainingPause (port : PortId) (s : State) : Host.Outcome State Fault Refusal :=
  event s fun s =>
    if pauseDue (s.port port) then s.setPort port { giveUpLock (s.port port) with training := some (.pause 32) } else s

/-- The pause count stands at 0 in TRAINING (R23). -/
def pauseOver (x : Port) : Bool := x.state == .training && x.training == some (.pause 0)

/-- TRAINING_PAUSE_END (R23): back to the locking phase. -/
def execTrainingPauseEnd (port : PortId) (s : State) : Host.Outcome State Fault Refusal :=
  event s fun s =>
    if pauseOver (s.port port) then s.setPort port { s.port port with training := some (.locking 0) } else s

/-- MARKER_LOSS (R6, R30): the miss count has reached 4 in PROBING, UP, ADMITTED or DRAINING, and no marker has been accepted
since. It comes after the turn of the counter, so that its capture carries the number of the epoch that has begun, not of the
fourth one missed (DESIGN CHOICE, log entry 49). -/
def execMarkerLoss (port : PortId) (s : State) : Host.Outcome State Fault Refusal :=
  event s fun s =>
    if (s.port port).lossDue then takeCause port .markerLoss (s.setPort port { s.port port with lossDue := false }) else s

/-- The jump count of a record set to 0 (R62). -/
def clearJumps (r : DelayRecord) : DelayRecord :=
  match r with
  | .valid w d16 _ => .valid w d16 0
  | .closed => .closed
  | .sampling w => .sampling w

/-- DELAY_JUMP (R30, R62): in UP and ADMITTED the port is reset, if it has not left the state in which the jump was found; in
DRAINING the record goes back to OPEN and the port is no longer usable as timing port; otherwise the port stays as it is and only the
jump count is set to 0. -/
def execDelayJump (port : PortId) (s : State) : Host.Outcome State Fault Refusal :=
  event s fun s =>
    match jumpDue (s.port port).delay with
    | none => s
    | some d =>
      let before := (s.port port).state
      if resetsIn .delayJump before && (s.port port).jumpStands then
        portReset port .delayJump (.jump before d) s
      else if before = .draining then
        timingPortLost port (s.setPort port { s.port port with delay := .sampling [], jumpStands := false })
      else s.setPort port { s.port port with delay := clearJumps (s.port port).delay, jumpStands := false }

/-- DRAIN_END (R35): the drain timer stands at 0 in DEPARTING. -/
def execDrainEnd (s : State) : Host.Outcome State Fault Refusal :=
  event s fun s => if s.swap.departure = .departing ∧ s.swap.drainTimer = 0 then endDrain s else s

/-- ANNOUNCE_TIMER_EXPIRY (R41): the announce timer has reached 0. An advancing own announce, and the timer reloads; with own
frame id 0 it only reloads. An announce of another occasion taken since does not stand for this one. -/
def execAnnounceTimerExpiry (s : State) : Host.Outcome State Fault Refusal :=
  event s fun s =>
    if s.dir.announceDue then
      announceAdvancing { s with dir := { s.dir with announceTimer := Figures.announcePeriod, announceDue := false } }
    else s

/-- An entry whose age has reached 1024 (R46). -/
def agedOut (e : DirEntry) : Bool := e.state != .lost && decide (Figures.expiryAge ≤ e.age)

/-- ENTRY_AGED_OUT (R46): the entry becomes LOST, with a DIRECTORY notice, and the election is evaluated. -/
def execEntryAgedOut (frame : FrameId) (s : State) : Host.Outcome State Fault Refusal :=
  event s fun s =>
    if (entryOf s frame).any agedOut then
      evaluate
        (raise .directory
          { s with
            dir :=
              { s.dir with
                entries := s.dir.entries.map fun e => if e.frame = frame then { e with state := .lost } else e } })
    else s

/-- ELECTION_HOLD_END (R52): the hold timer stands at 0; the hold ends and the election is evaluated. -/
def execElectionHoldEnd (s : State) : Host.Outcome State Fault Refusal :=
  event s fun s =>
    if s.dir.hold.any fun h => h.timer == 0 then evaluate { s with dir := { s.dir with hold := none } } else s

end Sys2Proof.Machine
end

