-- ==== Sys2Proof/Machine/TimingEvents.lean ====
section
/-! DEFINITION. The part's own events in the Timebase Unit (R64, R69 to R74) and the Trigger Scheduler (R85, R88). A count that
has not reached its top, or stands there in a state that gives it no effect, changes nothing. -/

namespace Sys2Proof.Machine

open Sys2Proof

/-- NEAR_COUNT_FULL (R71): ACQUIRING enters LOCKED. -/
def execNearCountFull (s : State) : Host.Outcome State Fault Refusal :=
  event s fun s =>
    if s.time.state = .acquiring ∧ 64 ≤ s.time.counts.near then changeTiming .locked s else s

/-- UNUSABLE_COUNT_FULL (R71, R73): LOCKED as a follower enters HOLDOVER, ACQUIRING enters FREE. -/
def execUnusableCountFull (s : State) : Host.Outcome State Fault Refusal :=
  event s fun s =>
    if 4 ≤ s.time.counts.unusable ∧ s.time.role = .follower then
      match s.time.state with
      | .locked => changeTiming .holdover s
      | .acquiring => changeTiming .free s
      | .holdover | .free => s
    else s

/-- FAR_COUNT_FULL (R73): LOCKED as a follower enters ACQUIRING. -/
def execFarCountFull (s : State) : Host.Outcome State Fault Refusal :=
  event s fun s =>
    if s.time.state = .locked ∧ s.time.role = .follower ∧ 16 ≤ s.time.counts.far then changeTiming .acquiring s else s

/-- HOLDOVER gives way to LOCKED for an observation within 64 ticks and without mismatch, whose correction becomes pending
(R74). -/
def relock (o : Observation) (s : State) : State :=
  let s := changeTiming .locked s
  if s.time.state = .locked ∧ s.time.role = .follower then
    { s with time := { s.time with pending := some (.correction (correctionFor o.error)) } }
  else s

/-- RETURN_COUNT_FULL (R74): the observation that made the count 4 is judged. It is the last usable one; one taken after it and
before this command takes its place (DESIGN CHOICE, log entry 3). -/
def execReturnCountFull (s : State) : Host.Outcome State Fault Refusal :=
  event s fun s =>
    if s.time.state = .holdover ∧ 4 ≤ s.time.counts.back then
      match s.time.lastPhase with
      | none => s
      | some o => if !o.mismatch && decide (o.error.natAbs ≤ 64) then relock o s else enterAcquiring o s
    else s

/-- HOLDOVER_EXPIRY (R74): the timer stands at 0; HOLDOVER enters FREE. -/
def execHoldoverExpiry (s : State) : Host.Outcome State Fault Refusal :=
  event s fun s =>
    if s.time.state = .holdover ∧ s.time.holdoverTimer = some 0 then changeTiming .free s else s

/-- The REFIN flag changes; a change of reference present has the effects of R64. -/
def setRefin (flag : Bool) (s : State) : State :=
  let t := { s with time := { s.time with refin := ⟨flag, 0, 0⟩ } }
  if referencePresent t = referencePresent s then t else referenceChanged t

/-- REFIN_QUALIFIED (R64). -/
def execRefinQualified (s : State) : Host.Outcome State Fault Refusal :=
  event s fun s => if !s.time.refin.qualified && decide (32 ≤ s.time.refin.present) then setRefin true s else s

/-- REFIN_UNQUALIFIED (R64). -/
def execRefinUnqualified (s : State) : Host.Outcome State Fault Refusal :=
  event s fun s => if s.time.refin.qualified && decide (4 ≤ s.time.refin.absent) then setRefin false s else s

/-- TRIGGER_FIRE_TIME (R85): the clock comes to the entry's fire time if that lies in the rest of the epoch, and an ARMED
entry whose time is reached fires or is missed. -/
def execTriggerFireTime (id : TriggerId) (s : State) : Host.Outcome State Fault Refusal :=
  event s fun s =>
    match triggerAt s id with
    | none => s
    | some e => if isArmed e then fireIfReached id (runToFire e.fire s) else s

/-- The ticks to the next end of an output pulse. -/
def nextPulseEnd (s : State) : Option Nat := (s.trig.pulses.map (·.left)).min?

/-- TRIGGER_PULSE_END (R85): the clock comes to the next end of a pulse if that lies in the rest of the epoch, and ended
pulses are over. -/
def execTriggerPulseEnd (s : State) : Host.Outcome State Fault Refusal :=
  event s fun s =>
    match nextPulseEnd s with
    | none => s
    | some n =>
      let s := runTo (s.clock.tick + n) s
      s.setTrig { s.trig with pulses := s.trig.pulses.filter fun p => 0 < p.left }

/-- TRIGGER_INPUT_EDGE (R88): a rising edge after which the line has stayed high for so many ticks. Fewer than 16 are
ignored. -/
def execTriggerInputEdge (input : InputId) (highTicks : Nat) (s : State) : Host.Outcome State Fault Refusal :=
  event s fun s => if highTicks < 16 then s else takeEdge input (ticksAgo s highTicks) s

end Sys2Proof.Machine
end

