-- ==== Sys2Proof/Machine/RecordEvents.lean ====
section
/-! DEFINITION. The part's own events on stream records and sinks (R107, R125, R126, R131, R133, R134, R150, R153): a timer
that has come to 0, or an epoch that has begun. Each acts when it is due, and changes nothing otherwise. -/

namespace Sys2Proof.Machine

open Sys2Proof

/-- A record's event: acts on the record at an index when it is due there. -/
def whenDue (i : Nat) (due : StreamRecord → Bool) (act : StreamRecord → State → State) (s : State) : State :=
  match recordAt s i with
  | some r => if due r then act r s else s
  | none => s

/-- A PENDING record's setup timer stands at 0 (R125). -/
def setupExpired (r : StreamRecord) : Bool := r.state == .pending && r.setupTimer == some 0

/-- The expiry of a setup timer (R125). -/
def expireSetup (r : StreamRecord) (s : State) : State :=
  if isOrigin r then
    let s := releaseDown r s
    if r.suspendTimer.isNone then closeRecord r.index .setupTimeout none s else suspend r.index .timeout false s
  else
    removeRecord r.index (releaseDown r (sendSide (upstream r) (.refuse r.id r.gen .timeout (ownFrame s)) s))

/-- SETUP_TIMER_EXPIRY (R125). -/
def execSetupTimerExpiry (record : Nat) (s : State) : Host.Outcome State Fault Refusal :=
  event s (whenDue record setupExpired expireSetup)

/-- The suspend timer stands at 0: of a SUSPENDED record, or of an origin that a re-route attempt holds PENDING (R107). -/
def suspendExpired (r : StreamRecord) : Bool :=
  r.suspendTimer == some 0 && (r.state == .suspended || (isOrigin r && r.state == .pending))

/-- The expiry of a suspend timer (R107). -/
def expireSuspend (r : StreamRecord) (s : State) : State :=
  if isOrigin r then
    let s := closeRecord r.index .expired none (releaseDown r s)
    r.sinks.foldl (fun s k => detachSink k s) s
  else removeRecord r.index s

/-- SUSPEND_TIMER_EXPIRY (R107). -/
def execSuspendTimerExpiry (record : Nat) (s : State) : Host.Outcome State Fault Refusal :=
  event s (whenDue record suspendExpired expireSuspend)

/-- The reroute retry timer of a SUSPENDED origin stands at 0 (R126). -/
def rerouteExpired (r : StreamRecord) : Bool := isOrigin r && r.state == .suspended && r.rerouteTimer == some 0

/-- The way on of a re-route attempt that goes ahead (R126): none for a loopback, the next-hop port for any other origin. -/
inductive Attempt where
  | waits
  | loopback
  | over (p : PortId)
  deriving DecidableEq, Repr

/-- The conditions of a re-route attempt (R126). -/
def judgeAttempt (s : State) (r : StreamRecord) : Attempt :=
  if !timed s || departing s then .waits
  else if r.role = .loopback then .loopback
  else
    match routeTo s r.terminal with
    | .route p d =>
      let own := if r.egress = some p then slotsHeld s r else 0
      if d + 1 ≤ r.budget ∧ r.cells ≤ freeUsable s p + own then .over p else .waits
    | .here | .unknownFrame | .departing _ _ | .notAdmitted _ _ => .waits

/-- A re-route attempt over a port (R126): the next generation, every slot released and C slots assigned there, PENDING, and
a SETUP offered. The path length of the old path stays until the new CONFIRM (DESIGN CHOICE, log entry 70: R92 gives h after
confirmation, and R126 does not name it). -/
def rerouteOver (i : Nat) (cells : Nat) (p : PortId) (s : State) : State :=
  let s := releaseSlots i 0 s
  let s := changeRecord i
    (fun r =>
      { r with
        gen := r.gen + 1, egress := some p, state := .pending, setupTimer := some Figures.setupEpochs
        rerouteTimer := none }) s
  offerSetup i (assignSlots i cells s)

/-- The end of the reroute retry timer (R126). -/
def retryRoute (r : StreamRecord) (s : State) : State :=
  match judgeAttempt s r with
  | .waits => editRecord r.index (fun r => { r with rerouteTimer := some Figures.rerouteEpochs }) s
  | .loopback => activate r.index r.pathLength (editRecord r.index (fun r => { r with gen := r.gen + 1 }) s)
  | .over p => rerouteOver r.index r.cells p s

/-- REROUTE_RETRY_EXPIRY (R126). -/
def execRerouteRetryExpiry (record : Nat) (s : State) : Host.Outcome State Fault Refusal :=
  event s (whenDue record rerouteExpired retryRoute)

/-- A retune timer of a RETUNING record stands at 0 (R133, R134). -/
def retuneExpired (r : StreamRecord) : Bool := r.state == .retuning && r.retuneTimer == some 0

/-- ORIGIN_RETUNE_TIMEOUT (R133): the origin reverts and offers a RETUNE_ABORT. -/
def execOriginRetuneTimeout (record : Nat) (s : State) : Host.Outcome State Fault Refusal :=
  event s
    (whenDue record (fun r => isOrigin r && retuneExpired r) fun r s =>
      sendSide (downstream r) (.retuneAbort r.id r.gen) (revertRetune r.index s))

/-- HOP_RETUNE_TIMEOUT (R134): the hop is suspended with RETUNE_TIMEOUT and breaks both ways. -/
def execHopRetuneTimeout (record : Nat) (s : State) : Host.Outcome State Fault Refusal :=
  event s
    (whenDue record (fun r => !isOrigin r && retuneExpired r) fun r s =>
      breakDown r .retuneTimeout (breakUp r .retuneTimeout (suspend r.index .retuneTimeout false s)))

/-- RETUNE_SWITCH (R131): the record's switch epoch has begun. -/
def execRetuneSwitch (record : Nat) (s : State) : Host.Outcome State Fault Refusal :=
  event s fun s => whenDue record (switchDue s) (fun r s => switchRecord r.index s) s

/-- A sink settled: the reservation for the record's C as it is, and no settle epoch (R150). -/
def settleSink (r : StreamRecord) (x : Sink) : Sink :=
  withReservation (reservationFor r.cells r.budget x.hop) { x with settle := none }

/-- SINK_SETTLE (R150): the sink's settle epoch has begun. Where the record's switch falls due at the same epoch start, the order
of the two commands decides between the old C and the new one; the agenda has the switch first (DESIGN CHOICE, log entry 72). -/
def execSinkSettle (sink : Nat) (s : State) : Host.Outcome State Fault Refusal :=
  event s fun s =>
    match sinkAt s sink with
    | none => s
    | some x =>
      match recordAt s x.record with
      | some r => if settleDue s x then changeSink sink (settleSink r) s else s
      | none => s

/-- CELL_RELEASE (R153): the held cells whose release epoch has come are released. R153 releases at epoch starts; cells that come
due within an epoch, as by a superseding SETUP with a smaller B, are released by the command in that epoch (DESIGN CHOICE, log
entry 74). -/
def execCellRelease (sink : Nat) (s : State) : Host.Outcome State Fault Refusal :=
  event s fun s =>
    match sinkAt s sink with
    | none => s
    | some x => changeSink sink (releaseDue (epochLow s) (budgetOf s x)) s

end Sys2Proof.Machine
end

