-- ==== Sys2Proof/Machine/Lanes.lean ====
section
/-! DEFINITION. What modules do on the backplane lanes: push (R138 to R140), pull and acknowledgement (R157). -/

namespace Sys2Proof.Machine

open Sys2Proof

/-- The last answer on a lane. -/
def State.answerLane (s : State) (a : LaneAnswer) : State := { s with lane := a }

/-- The origin record bound to a lane that holds a stream id (R138). -/
def boundRecord (s : State) (l : LaneId) (id : StreamId) : Option StreamRecord :=
  s.streams.records.find? fun r => r.id == id && r.ingress == .lane l && isOrigin r

/-- The accepting C of an origin (R136): its C, but the new C from the start of its switch epoch E on. -/
def acceptingCells (s : State) (r : StreamRecord) : Nat :=
  match r.staged, r.switchEpoch with
  | some d, some e => if r.state = .retuning ∧ !ahead e s.clock.epoch then d.cells else r.cells
  | _, _ => r.cells

/-- The next sequence of an origin (R92). -/
def nextSequence (r : StreamRecord) : Seq := (r.source.map (·.nextSequence)).getD 0

/-- A push answered ACCEPT (R139): stamped with the record's next sequence and the current epoch, queued at an origin with
an egress port, copied to the record's sinks. -/
def acceptPush (r : StreamRecord) (samples : Byte) (payload : List Byte) (s : State) : State :=
  let pay := padPayload payload
  let s := editRecord r.index
    (fun r =>
      { r with
        source := r.source.map fun x => { x with nextSequence := x.nextSequence + 1 }
        queue :=
          if r.egress.isSome then
            r.queue ++ [⟨r.id, r.gen, nextSequence r, epochLow s, samples, false, pay, s.clock.epoch⟩]
          else r.queue }) s
  copyToSinks r ⟨nextSequence r, epochLow s, samples, false, false, pay⟩ s

/-- The record takes pushes: ACTIVE or RETUNING (R138). -/
def takesPushes (r : StreamRecord) : Bool := r.state == .active || r.state == .retuning

/-- LANE_PUSH (R138). -/
def execLanePush (lane : LaneId) (id : StreamId) (samples : Byte) (payload : List Byte) (s : State) :
    Host.Outcome State Fault Refusal :=
  event s fun s =>
    match boundRecord s lane id with
    | none => (captureLane .unknown (some id) (.lane lane) s).answerLane (.push lane .unknown)
    | some r =>
      if samples = 0 ∨ samplesPerCell r.sampleBytes < samples.toNat then
        (captureLane .format (some id) (.laneSamples lane samples) s).answerLane (.push lane .format)
      else if !takesPushes r then s.answerLane (.push lane .held)
      else if r.egress.isSome ∧ 2 * acceptingCells s r ≤ r.queue.length then
        (editRecord r.index (fun r => { r with source := countOverruns 1 r.source }) s).answerLane
          (.push lane .full)
      else (acceptPush r samples payload s).answerLane (.push lane .accept)

/-- The sink of a stream on a lane (R157). -/
def laneSink (s : State) (l : LaneId) (id : StreamId) : Option Sink :=
  s.sinks.find? fun x => x.lane == l && x.stream == id

/-- LANE_PULL (R157). -/
def execLanePull (lane : LaneId) (id : StreamId) (count : Byte) (s : State) : Host.Outcome State Fault Refusal :=
  event s fun s =>
    if count = 0 ∨ 8 < count.toNat then s.answerLane (.pull lane .format)
    else
      match laneSink s lane id with
      | none => s.answerLane (.pull lane .unknown)
      | some x =>
        if x.released = [] then s.answerLane (.pull lane .empty)
        else
          (changeSink x.index (fun x => { x with released := x.released.drop count.toNat }) s).answerLane
            (.pull lane (.cells (x.released.take count.toNat)))

/-- LANE_ACKNOWLEDGEMENT (R155, R157). -/
def execLaneAcknowledgement (lane : LaneId) (id : StreamId) (s : State) : Host.Outcome State Fault Refusal :=
  event s fun s =>
    match laneSink s lane id with
    | none => s.answerLane (.acknowledgement lane false)
    | some x => (changeSink x.index acknowledge s).answerLane (.acknowledgement lane true)

end Sys2Proof.Machine
end

