-- ==== Sys2Proof/Machine/Responses.lean ====
section
/-! DEFINITION. The bytes of a response (R168, R170): status, reason, length and fields. Fields are encoded as request fields
are: a number in the fewest whole bytes that hold its range, a choice as one byte counted from 0 in the order its rule lists
the values, a field that some answers lack behind a presence byte. What R168 gives no form (lists, signed numbers, flags, a
field of two kinds) has the form of log entry 31 (DESIGN CHOICE). -/

namespace Sys2Proof.Machine

open Sys2Proof

/-- The code of a status (R170). -/
def statusCode (x : Status) : Nat :=
  match x with
  | .ok => 0 | .badRequest => 1 | .badArgument => 2 | .notFound => 3 | .busy => 4 | .full => 5 | .refused => 6

/-- The code of a refusal's reason (R170). -/
def refusalCode (r : RefusalReason) : Nat :=
  match r with
  | .code c => reasonCode c
  | .badFormat => 32 | .laneFull => 33 | .notOrigin => 34 | .noId => 35 | .lead => 36

/-! ### Fields -/

/-- One byte. -/
def b1 (n : Nat) : List Byte := bytesOf 1 n

/-- Two bytes. -/
def b2 (n : Nat) : List Byte := bytesOf 2 n

/-- Three bytes. -/
def b3 (n : Nat) : List Byte := bytesOf 3 n

/-- Six bytes. -/
def b6 (e : Epoch) : List Byte := bytesOf 6 e.toNat

/-- A flag, a mark or an indication: 1 when set (DESIGN CHOICE, log entry 31). -/
def bFlag (b : Bool) : List Byte := b1 (bit b)

/-- A conditional field. -/
def bOption {α : Type} (f : α → List Byte) (v : Option α) : List Byte :=
  match v with
  | none => [0]
  | some x => 1 :: f x

/-- A list behind its length. -/
def bList {α : Type} (f : α → List Byte) (l : List α) : List Byte := b1 l.length ++ (l.map f).flatten

/-- A signed number on four bytes, as its value modulo 2^32 (DESIGN CHOICE: R168 gives signed numbers no form). -/
def bSigned (x : Int) : List Byte := bytesOf 4 (BitVec.ofInt 32 x).toNat

/-- A position in a list of named values. -/
def bChoice {α : Type} [BEq α] (order : List α) (x : α) : List Byte := b1 (order.idxOf x)

/-- A port state in the order of R32. -/
def bPortState : PortState → List Byte := bChoice [.down, .training, .probing, .up, .admitted, .draining, .fault]

/-- A timing state in its coding of R19. -/
def bTiming (x : TimingState) : List Byte := b1 (timingCode x)

/-- A qualified input. -/
def bQualifier (q : Qualifier) : List Byte := bFlag q.qualified ++ b1 q.present ++ b1 q.absent

/-- A training phase and its count: a choice byte, then 0..256 on two bytes when LOCKING, 0..32 on one in the pause (R23; DESIGN
CHOICE, log entry 31). -/
def bTraining (t : Training) : List Byte :=
  match t with
  | .locking n => [0] ++ b2 n
  | .pause n => [1] ++ b1 n

/-- The last marker info (R32). Its four info bits are four flags, USABLE, HOLDOVER, DEPARTING and EPOCH_ODD in the order of R2
(DESIGN CHOICE, log entry 31: R168 gives info bits no form). -/
def bMarkerInfo (m : MarkerInfo) : List Byte :=
  bFlag m.info.usable ++ bFlag m.info.holdover ++ bFlag m.info.departing ++ bFlag m.info.epochOdd ++ bTiming m.timing ++
    b1 m.priority ++ bFlag m.master

/-- GET_PORT's fields (R32). The valid flag of the delay is the presence byte of d, which reaches 2^22 (DESIGN CHOICE, log
entry 31: R168 does not say that the two are one byte). -/
def bPort (r : PortReport) : List Byte :=
  bPortState r.state ++ bOption (bChoice [.long, .idConflict, .noId]) r.reason ++ bOption bTraining r.training ++
    bQualifier r.presence ++ bOption (fun n : Neighbour => b1 n.frame.val ++ b1 n.port.toNat) r.neighbour ++
    bFlag r.announceSeen ++ bFlag r.neighbourDeparting ++ bOption bMarkerInfo r.lastMarker ++ bOption b3 r.delay ++
    b1 r.usable ++ b1 r.missCount ++ b1 r.protocolLength ++ b1 r.floodLength

/-- A directory entry's fields (R39, R54); UNKNOWN is 0. -/
def bEntry (e : Option DirEntry) : List Byte :=
  match e with
  | none => List.replicate 9 0
  | some e =>
    b1 (1 + [EntryState.reachable, .departing, .lost].idxOf e.state) ++ ([1] ++ b1 e.nextHop.val) ++
      ([1] ++ b1 e.distance) ++ [1, e.serial] ++ ([1] ++ bFlag e.restartSeen) ++ ([1] ++ b2 e.age) ++
      ([1] ++ b1 e.priority) ++ ([1] ++ bFlag e.reference) ++ ([1] ++ bTiming e.timing)

/-- An election result (R53, R54, R77): a choice byte, 0 this part, 1 a frame, 2 NONE; the frame and its timing port follow 1
alone, with no presence bytes (DESIGN CHOICE, log entry 31). -/
def bResult (r : ElectionResult) : List Byte :=
  match r with
  | .thisPart => [0]
  | .frame x p => [1] ++ b1 x.val ++ b1 p.val
  | .nobody => [2]

/-- The directory summary (R54). Forwarding is 0 when on and 1 when stopped, in the order of R54. A hold timer that is stopped is
an absent field, presence byte 0 (DESIGN CHOICE, log entry 31: R168 gives "stopped" no form). -/
def bDirectory (r : DirectoryReport) : List Byte :=
  b1 r.frameId.val ++ [r.serial] ++ b1 r.restartCount ++ b2 r.announceTimer ++ bFlag (!r.forwarding) ++ bResult r.outcome ++
    bOption b2 r.hold ++ b1 r.reachable ++ b1 r.departing ++ b1 r.lost

/-- One delay record of GET_TIMING (R77): its state, and d and the jump count, each behind its presence byte. -/
def bDelay (r : DelayReport) : List Byte :=
  match r with
  | .closed => [0] ++ bOption b3 none ++ bOption b1 none
  | .sampling => [1] ++ bOption b3 none ++ bOption b1 none
  | .valid d jumps => [2] ++ bOption b3 (some d) ++ bOption b1 (some jumps)

/-- The six values of a port table. -/
def bPorts {α : Type} (f : α → List Byte) (t : PerPort α) : List Byte := f t.p0 ++ f t.p1 ++ f t.p2 ++ f t.p3 ++ f t.p4 ++ f t.p5

/-- GET_TIMING's fields (R77): MASTER is 0 and its quality follows, REF 0 and RUN 1. A holdover timer that is stopped is an absent
field (DESIGN CHOICE, log entry 31). -/
def bTimingReport (r : TimingReport) : List Byte :=
  b6 r.time.epoch ++ b2 r.time.tick ++ b3 r.stamp.toNat ++ bTiming r.state ++
    bChoice [.master, .follower] r.role ++ bOption (fun q => bFlag (!q)) r.quality ++ bResult r.result ++
    bOption (fun x : PortId × Bool => b1 x.1.val ++ bFlag x.2) r.port ++
    bOption (fun x : Int × Bool => bSigned x.1 ++ bFlag x.2) r.phase ++
    (b1 r.counts.unusable ++ b1 r.counts.far ++ b1 r.counts.near ++ b1 r.counts.back) ++ bOption b2 r.holdoverTimer ++
    bQualifier r.refin ++ bFlag r.reference ++ b2 r.stepCount ++ bPorts bDelay r.delays

/-- A configuration: every item and indexed value in table order, two bytes each (R172). -/
def bConfig (c : Config) : List Byte :=
  b2 c.frameId.val ++ b2 c.timingPriority ++ b2 (bit c.useReference) ++ b2 c.holdoverLimit ++ b2 c.drainDefault ++
    b2 c.suspendDefault ++ (allNotices.map fun k => b2 (c.noticeLevel.get k)).flatten ++ b2 c.noticeMask ++
    (c.channelMap.toList.map fun m => b2 m.toNat).flatten

/-- A stream state in the order of R92, the rule that owns the state, in every answer. R116 lists ACTIVE, PENDING and CLOSED in
another order for OPEN_STREAM (DESIGN CHOICE, log entry 31). -/
def bStreamState : StreamState → List Byte := bChoice [.pending, .active, .retuning, .suspended, .closed]

/-- A record's reason: a message code, or SETUP_TIMEOUT 64, EXPIRED 65, RETUNE_REFUSED 66 (DESIGN CHOICE: R95 gives these
three no code). -/
def bReason (r : StreamReason) : List Byte :=
  match r with
  | .code c => b1 (reasonCode c)
  | .setupTimeout => [64] | .expired => [65] | .retuneRefused => [66]

/-- A record's roles in the order of R92. -/
def bRole : StreamRole → List Byte := bChoice [.origin, .transit, .terminus, .loopback]

/-- An ingress (R92, R98): a kind byte, 0 for a lane and 1 for a port, before the number (DESIGN CHOICE, log entry 31). -/
def bIngress (i : Ingress) : List Byte :=
  match i with
  | .lane l => [0] ++ b1 l.val
  | .port p => [1] ++ b1 p.val

/-- A record as LOOKUP_STREAM reports it: the fields of R92 in their order (R98). Slots held is the length byte of the slot list
(DESIGN CHOICE, log entry 31: R168 does not say how a list and its count are sent). -/
def bStream (r : StreamReport) : List Byte :=
  let x := r.record
  b1 x.index ++ b2 x.id.toNat ++ b1 x.gen.toNat ++ bRole x.role ++ bIngress x.ingress ++
    bOption (fun p : PortId => b1 p.val) x.egress ++ b1 x.terminal.val ++ b1 x.hop ++ bOption b1 x.pathLength ++
    bytesOf 4 x.rate ++ b1 x.sampleBytes ++ b1 x.cells ++ bOption b1 (x.staged.map (·.cells)) ++
    bOption (bytesOf 4) (x.staged.map (·.rate)) ++ bOption b6 x.switchEpoch ++ b1 x.budget ++ bList b1 r.slots ++
    bList b1 x.sinks ++ bStreamState x.state ++ bOption bReason x.reason ++
    bOption (fun f : FrameId => b1 f.val) x.refusing ++ bOption (fun c => b1 (reasonCode c)) x.retuneCause ++
    bOption b6 x.activation ++ bOption (fun y : Source => b2 y.nextSequence.toNat) x.source ++
    bOption (fun q : Seq => b2 q.toNat) x.expected ++
    b2 x.poisonCount ++ bOption (fun y : Source => b2 y.overrunCount) x.source ++ b2 x.suspendLimit ++
    bOption (fun y : Source => bFlag y.autoReroute) x.source ++ bOption b2 x.setupTimer ++ bOption b2 x.retuneTimer ++
    bOption b2 x.suspendTimer ++ bOption b1 x.rerouteTimer ++ bFlag x.changed ++
    bOption b1 r.queueLength

/-- A trigger id on two bytes. -/
def bTriggerId (t : TriggerId) : List Byte := b2 (triggerIdBits t).toNat

/-- A sink's start: a kind byte, 0 FIRST, 1 a trigger id, which follows, 2 LOST (DESIGN CHOICE, log entry 31). -/
def bStart (x : SinkStart) : List Byte :=
  match x with
  | .first => [0]
  | .trigger id => [1] ++ bTriggerId id
  | .lost => [2]

/-- A list of cells as GET_SINK reports it. -/
def bListReport (r : ListReport) : List Byte :=
  b2 r.length ++ bOption (fun q : Seq => b2 q.toNat) r.first ++ bOption (fun q : Seq => b2 q.toNat) r.last

/-- A sink as GET_SINK reports it: the fields of R146 in their order, the effective threshold after the stored one (R159). -/
def bSink (r : SinkReport) : List Byte :=
  let x := r.sink
  b1 x.record ++ b2 x.stream.toNat ++ b1 x.lane.val ++ b1 x.hop ++
    bChoice [.continuous, .paced, .single] x.mode ++ b2 x.blockSize ++ b1 x.threshold ++ b1 r.effective ++
    bOption bStart x.start ++
    bChoice [.running, .waiting, .halted] x.state ++ bFlag x.done ++ bFlag x.overrun ++ bListReport r.held ++
    bListReport r.released ++ b2 x.reservation ++ bOption b6 x.settle ++ b2 x.lateCount ++ b2 x.gapCount ++
    bOption (fun q : Seq => b2 q.toNat) x.blockStart ++ bOption (fun q : Seq => b2 q.toNat) x.expected

/-- A trigger's state in the order of R79, without its reason or quality (R82). -/
def bTriggerState (x : TriggerState) : List Byte :=
  match x with
  | .armed => [0]
  | .fired _ => [1]
  | .missed _ => [2]
  | .cancelled => [3]

/-- The reason of a MISSED entry in the order of R79. -/
def missReason (x : TriggerState) : Option MissReason :=
  match x with
  | .missed r => some r
  | .armed | .fired _ | .cancelled => none

/-- The firing quality of a FIRED entry: whether it is HOLDOVER. -/
def fireQuality (x : TriggerState) : Option Bool :=
  match x with
  | .fired holdover => some holdover
  | .armed | .missed _ | .cancelled => none

/-- A trigger entry: the fields of R79 in their order, reason and firing quality each behind its presence byte. -/
def bTrigger (e : TriggerEntry) : List Byte :=
  bTriggerId e.id ++ b6 e.fire.epoch ++ b2 e.fire.tick ++ b1 e.channel ++ bTriggerState e.state ++
    bOption (bChoice [.late, .noTime, .timeStep]) (missReason e.state) ++ bOption bFlag (fireQuality e.state)

/-- A dropped note (R90) as an entry: MISSED with the reason TABLE_FULL and no quality. The reason is coded 3, after
those of R79 (DESIGN CHOICE, log entry 32: R90 gives it no code). -/
def bNote (n : DroppedNote) : List Byte :=
  bTriggerId n.id ++ b6 n.fire.epoch ++ b2 n.fire.tick ++ b1 n.channel ++ [2] ++ bOption b1 (some 3) ++ bOption b1 none

/-- The state of an arm in the order of R88. -/
def bArm (a : Arm) : List Byte :=
  match a with
  | .disarmed => [0]
  | .oneShot _ _ => [1]
  | .repeated _ _ _ => [2]

/-- An input line (R90): arm state; lead, channel and hold-off, each behind its presence byte; ignored-edge count. -/
def bInput (x : InputLine) : List Byte :=
  bArm x.arm ++ bOption (fun a : Nat × Nat => b2 a.1) (armOf x.arm) ++ bOption (fun a : Nat × Nat => b1 a.2) (armOf x.arm) ++
    bOption (fun t : RackTime => b6 t.epoch ++ b2 t.tick) (holdOffOf x.arm) ++ b2 x.ignored

/-- GET_TRIGGER's summary (R90). -/
def bTriggers (r : TriggerReport) : List Byte :=
  b1 r.armed ++ b1 r.fired ++ b1 r.missed ++ b1 r.cancelled ++ b1 r.dropped ++ b2 r.notStored ++ [r.serial] ++
    r.channelMap.toList ++ bInput r.inputs.i0 ++ bInput r.inputs.i1 ++ bInput r.inputs.i2 ++ bInput r.inputs.i3

/-- An error kind, counted in the order of R162. -/
def bKind : ErrorKind → List Byte :=
  bChoice
    [.markerCorrected, .negativeDelay, .lateSwitch, .markerRejected, .headerBad, .unknownStream, .wrongPort, .staleGen,
      .payloadBad, .transitOverflow, .protocol, .unknown, .format, .presenceLost, .markerLoss, .symbolBurst, .delayJump,
      .resetPort]

/-- A severity in the order of R161. -/
def bSeverity : Severity → List Byte := bChoice [.soft, .data, .link]

/-- The detail items of R162, in the order of its table. A message kind is its code of R19, 1..13, and the detail of PAYLOAD_BAD, of two kinds, begins with a kind byte: 0
for a sequence, 1 for a management cell; the epochs of a LATE_SWITCH take six bytes (DESIGN CHOICE all, log entry 31). -/
def bDetail (d : Detail) : List Byte :=
  match d with
  | .hammingPosition n => b1 n
  | .delay x => bSigned x
  | .lateSwitch n p => b6 (BitVec.ofNat 48 n) ++ b1 p.val
  | .marker c => bChoice [.truncated, .doubleError, .check, .kind, .inconsistent, .identity] c
  | .header c => bChoice [.truncated, .headerCheck, .markerKind, .mgmtSlot, .dataSlot] c
  | .unknownStream gen q => b1 gen.toNat ++ b2 q.toNat
  | .wrongPort q i => b2 q.toNat ++ bIngress i
  | .staleGen cell record => b1 cell.toNat ++ b1 record.toNat
  | .sequence q => [0] ++ b2 q.toNat
  | .management => [1]
  | .overflow q trim => b2 q.toNat ++ bFlag trim
  | .protocol cause kind p t =>
    bChoice [.malformedCell, .malformedMessage, .queueDrop, .misdirected, .unexpected] cause ++
      bOption (fun k => b1 (kindCode k)) kind ++ b1 p.val ++ bOption bTriggerId t
  | .lane l => b1 l.val
  | .laneSamples l n => b1 l.val ++ [n]
  | .portState x => bPortState x
  | .jump x d => bPortState x ++ b3 d

/-- A held error (R161). -/
def bError (e : CapturedError) : List Byte :=
  bKind e.kind ++ bSeverity (severityOf e.kind) ++ b6 e.epoch ++ bOption b1 e.slot ++
    bOption (fun id : StreamId => b2 id.toNat) e.stream ++ bDetail e.detail

/-- A capture record (R165): one presence byte, which tells locked from empty, before all the fields of the held error (DESIGN
CHOICE, log entry 31). -/
def bCapture (r : CaptureRecord) : List Byte := bOption bError r.held ++ bFlag r.lost

/-- A capture record in the summary (R165): locked, severity when it is, LOST. The byte for locked is the severity's presence
byte (DESIGN CHOICE, log entry 31). -/
def bCaptureLine (r : CaptureRecord) : List Byte :=
  bOption (fun e : CapturedError => bSeverity (severityOf e.kind)) r.held ++ bFlag r.lost

/-- The response fields. -/
def bBody (x : Body) : List Byte :=
  match x with
  | .empty => []
  | .identity strap own epoch =>
    b2 0x0616 ++ b1 1 ++ b1 strap.val ++ b1 own.val ++ b1 6 ++ b1 16 ++ b1 Figures.streamRecords ++
      b1 Figures.sinkEntries ++ b2 Figures.poolCells ++ b1 Figures.triggerEntries ++ b1 8 ++ b6 epoch
  | .value v => b2 v.toNat
  | .config c => bConfig c
  | .portState x => bPortState x
  | .port r => bPort r
  | .entry e => bEntry e
  | .directory r => bDirectory r
  | .timing r => bTimingReport r
  | .opened id i cells state reason =>
    b2 id.toNat ++ b1 i ++ b1 cells ++ bStreamState state ++ bOption bReason reason
  | .stream r => bStream r
  | .retuned cells state => b1 cells ++ bStreamState state
  | .removed n => b1 n
  | .sinkIndex k => b1 k
  | .limit l => bChoice [.record, .lane, .table] l
  | .attached k r => b1 k ++ b2 r
  | .sink r => bSink r
  | .pool r => b1 r.sinks ++ b2 r.reserved ++ b2 r.unreserved ++ b2 r.occupied
  | .scheduled id e => bTriggerId id ++ b6 e
  | .triggerState s => bTriggerState s
  | .trigger e => bTrigger e
  | .note n => bNote n
  | .triggers r => bTriggers r
  | .notices flags attn => (allNotices.map fun k => bFlag (flags.get k)).flatten ++ bFlag attn
  | .capture r => bCapture r
  | .captures c => bPorts bCaptureLine c.port ++ bCaptureLine c.lane ++ bCaptureLine c.protocol

/-- A response: status, reason (0 unless REFUSED), length on two bytes, fields (R168). -/
def responseBytes (r : Response) : List Byte :=
  let fields := bBody r.body
  b1 (statusCode r.status) ++ b1 ((r.reason.map refusalCode).getD 0) ++ b2 fields.length ++ fields

/-- The `n` bytes that the part sends from the last request byte until the select wire is released: four all-ones bytes of
turnaround, the response, and all-ones bytes after it. A release within the turnaround or the response ends them there: the
rest of the response is lost (R168). While the part is held in reset, every byte is all ones (R177). -/
def spiBytes (o : SpiOutput) (n : Nat) : List Byte :=
  match o with
  | .nothing => []
  | .allOnes => List.replicate n 255
  | .response r => (List.replicate 4 255 ++ responseBytes r ++ List.replicate n 255).take n

/-- What the part sends in a transaction whose bytes from the frame controller are `sent`, when its request leaves `o` on SPI:
nothing is sent for a transaction that is released before its request is taken, and the bytes received after the request are
ignored, one for each byte sent (R168). While the part is held in reset every byte of the transaction is all ones (R177). What
it sends while the request comes in, outside of reset, the spec does not say (log entry 69). -/
def spiReply (sent : List Byte) (o : SpiOutput) : List Byte :=
  match o with
  | .allOnes => spiBytes o sent.length
  | .nothing | .response _ =>
    match requestEnd sent with
    | some n => spiBytes o (sent.length - n)
    | none => []

end Sys2Proof.Machine
end

