-- ==== Sys2Proof/Machine/Agenda.lean ====
section
/-! DEFINITION. What falls due in the part when no command waits: the command of the next event that its own counts, timers,
messages, slots and clock call for. The table has no row for a tick; a step on an empty queue runs the first event due, or
lets one tick pass (DESIGN CHOICE). -/

namespace Sys2Proof.Machine

open Sys2Proof

/-- The command that a passed-on message is (R10). -/
def messageCommand (p : PortId) (m : Msg) : Instr :=
  match m with
  | .setup m => .setup p m
  | .confirm id gen h => .confirm p id gen h
  | .refuse id gen r x => .refuse p id gen r x
  | .release id gen => .release p id gen
  | .break_ id gen r d => .break_ p id gen r d
  | .retune id gen rate c => .retune p id gen rate c
  | .retuneOk id gen => .retuneOk p id gen
  | .retuneRefuse id gen r => .retuneRefuse p id gen r
  | .retuneCommit id gen e => .retuneCommit p id gen e
  | .retuneAbort id gen => .retuneAbort p id gen
  | .announce m => .announce p m
  | .trigger m => .trigger p m
  | .cancel id => .cancel p id

/-- A command that is due when a condition holds. -/
def dueIf (b : Bool) (i : Instr) : List Instr := if b then [i] else []

/-- The events of one port's counts. -/
def portAgenda (s : State) (p : PortId) : List Instr :=
  let x := s.port p
  dueIf (presenceGone x) (.presenceLost p) ++ dueIf (presenceGained x) (.presenceQualified p) ++
    dueIf x.lossDue (.markerLoss p) ++
    dueIf (jumpDue x.delay).isSome (.delayJump p) ++ dueIf (pauseDue x) (.trainingPause p) ++
    dueIf (pauseOver x) (.trainingPauseEnd p)

/-- The events of the Timebase Unit's counts. -/
def timingAgenda (s : State) : List Instr :=
  let t := s.time
  dueIf (decide (4 ≤ t.counts.unusable) && t.role == .follower && (t.state == .locked || t.state == .acquiring))
      .unusableCountFull ++
    dueIf (t.state == .locked && t.role == .follower && decide (16 ≤ t.counts.far)) .farCountFull ++
    dueIf (t.state == .acquiring && decide (64 ≤ t.counts.near)) .nearCountFull ++
    dueIf (t.state == .holdover && decide (4 ≤ t.counts.back) && t.lastPhase.isSome) .returnCountFull ++
    dueIf (t.state == .holdover && t.holdoverTimer == some 0) .holdoverExpiry ++
    dueIf (!t.refin.qualified && decide (32 ≤ t.refin.present)) .refinQualified ++
    dueIf (t.refin.qualified && decide (4 ≤ t.refin.absent)) .refinUnqualified

/-- The events of the drain timer and of the directory. -/
def directoryAgenda (s : State) : List Instr :=
  dueIf (s.swap.departure == .departing && s.swap.drainTimer == 0) .drainEnd ++
    dueIf s.dir.announceDue .announceTimerExpiry ++
    (s.dir.entries.filter agedOut).map (fun e => .entryAgedOut e.frame) ++
    dueIf (s.dir.hold.any fun h => h.timer == 0) .electionHoldEnd

/-- The events of one record's timers. -/
def recordAgenda (s : State) (r : StreamRecord) : List Instr :=
  dueIf (setupExpired r) (.setupTimerExpiry r.index) ++ dueIf (suspendExpired r) (.suspendTimerExpiry r.index) ++
    dueIf (rerouteExpired r) (.rerouteRetryExpiry r.index) ++
    dueIf (isOrigin r && retuneExpired r) (.originRetuneTimeout r.index) ++
    dueIf (!isOrigin r && retuneExpired r) (.hopRetuneTimeout r.index) ++
    dueIf (switchDue s r && r.staged.isSome) (.retuneSwitch r.index)

/-- The events of one sink; the switch of its record comes first. -/
def sinkAgenda (s : State) (x : Sink) : List Instr :=
  dueIf (settleDue s x && (recordAt s x.record).isSome) (.sinkSettle x.index) ++
    dueIf (releasesNow s x) (.cellRelease x.index)

/-- The events of triggers and pulses. -/
def triggerAgenda (s : State) : List Instr :=
  ((s.trig.table.filter fun e => isArmed e && reached s e.fire).map fun e => .triggerFireTime e.id) ++
    dueIf (s.trig.pulses.any fun p => p.left == 0) .triggerPulseEnd

/-- The slot that begins on a port at this tick. -/
def slotAgenda (s : State) (p : PortId) : List Instr :=
  let n := s.clock.tick / Figures.slotTicks
  if s.clock.gap.isNone && s.clock.tick % Figures.slotTicks == 0 && decide (n < Figures.slots) &&
      decide ((s.port p).nextSlot ≤ n) then
    [if n = 0 then .markerSend p else if n = 1 then .managementCellBuild p else .dataSlot p n]
  else []

/-- The start of the gap, and the end of the epoch: its last tick is the one before 7936 and the gap's length, and the next
tick is tick 0 of the next epoch (R56). -/
def clockAgenda (s : State) : List Instr :=
  match s.clock.gap with
  | none => dueIf (decide (Figures.slotsTicks ≤ s.clock.tick)) .gapStart
  | some g =>
    dueIf (decide (Figures.slotsTicks + g.length ≤ s.clock.tick + 1))
      (if g.step.isSome then .timeStep else .localEpochStart s.pins.presence s.pins.refin)

/-- Every event that is due, in the order in which a step on an empty queue takes them. -/
def agenda (s : State) : List Instr :=
  allPorts.flatMap (portAgenda s) ++ timingAgenda s ++ directoryAgenda s ++
    s.streams.records.flatMap (recordAgenda s) ++ s.sinks.flatMap (sinkAgenda s) ++
    triggerAgenda s ++ (s.inbox.take 1).map (fun d => messageCommand d.port d.msg) ++ allPorts.flatMap (slotAgenda s) ++
    clockAgenda s

/-- The first event due. -/
def dueEvent (s : State) : Option Instr := (agenda s).head?

end Sys2Proof.Machine
end

