-- ==== Sys2Proof/WellFormed.lean ====
section
/-! DEFINITION. Which commands are well formed: operands in the ranges that the formats and the rules give them. A request's
fields need no check here, since its bytes spell every value and its meaning answers those out of range. -/

namespace Sys2Proof

/-- A trigger id that names a trigger: origin 1..31, serial 1..255 (R11, R79). -/
def TriggerId.wf (t : TriggerId) : Bool := t.origin != 0 && t.serial != 0

/-- A message's fields are in the ranges that R11 checks. The types hold the other fields to theirs. -/
def Msg.wf (m : Msg) : Bool :=
  match m with
  | .setup m => decide (m.hop ≤ Figures.maxHops)
  | .confirm _ _ h => decide (h ≤ Figures.maxHops)
  | .announce m => decide (m.hops ≤ Figures.maxHops ∧ m.priority ≤ 15)
  | .trigger m => m.id.wf && decide (m.fire.tick ≤ 8191 ∧ m.channel ≤ 7)
  | .cancel id => id.wf
  | .refuse .. | .release .. | .break_ .. | .retune .. | .retuneOk .. | .retuneRefuse .. | .retuneCommit ..
  | .retuneAbort .. => true

/-- The bytes end before a request is taken (R168). -/
def endsEarly (bs : List Byte) : Bool :=
  match bs with
  | [] | [_] => true
  | _ :: len :: rest => decide (rest.length < len.toNat)

/-- The operands of a command are in their ranges. -/
def Instr.wf (i : Instr) : Bool :=
  match i with
  | .identify | .setConfigFrameId _ | .setConfigTimingPriority _ | .setConfigUseReference _ | .setConfigHoldoverLimit _
  | .setConfigDrainDefault _ | .setConfigSuspendDefault _ | .setConfigNoticeLevel .. | .setConfigNoticeMask _
  | .setConfigChannelMap .. | .getConfig _ | .getPort _ | .resetPort _ | .depart _ | .cancelDepart | .getFrame _
  | .getTiming | .restartTiming | .openStream .. | .lookupStream _ | .nextStream _ | .closeStream _ | .retuneStream ..
  | .clearStreams | .attachSink .. | .detachSink _ | .armSink .. | .getSink _ | .scheduleTrigger .. | .cancelTrigger _
  | .getTrigger _ | .armInput .. | .disarmInput _ | .readNotices | .readCapture _ | .clearCapture _ | .resetDevice => true
  | .unknownRequestKind kind fields => decide (fields.length ≤ 255) && (Machine.readRequest kind fields).isNone
  | .transactionAbandoned received => endsEarly received
  | .deviceReset _ | .localEpochStart .. | .gapStart | .timeStep | .markerSend _ | .managementCellBuild _ => true
  | .dataSlot _ slot => decide (2 ≤ slot ∧ slot < Figures.slots)
  | .symbolLockGained _ | .symbolLockLost _ => true
  | .symbolBurst _ errors => decide (1 ≤ errors)
  | .markerReceived _ symbols => !symbols.isEmpty
  | .cellReceived _ bytes => decide (bytes.length ≤ Figures.cellBytes)
  | .setup _ m => (Msg.setup m).wf
  | .confirm _ id gen h => (Msg.confirm id gen h).wf
  | .refuse .. | .release .. | .break_ .. | .retune .. | .retuneOk .. | .retuneRefuse .. | .retuneCommit ..
  | .retuneAbort .. => true
  | .announce _ m => (Msg.announce m).wf
  | .trigger _ m => (Msg.trigger m).wf
  | .cancel _ id => (Msg.cancel id).wf
  | .presenceQualified _ | .presenceLost _ | .trainingPause _ | .trainingPauseEnd _ | .markerLoss _ | .delayJump _
  | .drainEnd | .announceTimerExpiry => true
  | .entryAgedOut frame => frame != 0
  | .electionHoldEnd | .nearCountFull | .unusableCountFull | .farCountFull | .returnCountFull | .holdoverExpiry
  | .refinQualified | .refinUnqualified => true
  | .triggerFireTime id => id.wf
  | .triggerPulseEnd => true
  | .triggerInputEdge _ highTicks => decide (highTicks ≤ 16)
  | .setupTimerExpiry record | .suspendTimerExpiry record | .rerouteRetryExpiry record | .originRetuneTimeout record
  | .hopRetuneTimeout record | .retuneSwitch record => decide (record < Figures.streamRecords)
  | .sinkSettle sink | .cellRelease sink => decide (sink < Figures.sinkEntries)
  | .lanePush _ _ _ payload => decide (payload.length = Figures.payloadBytes)
  | .lanePull .. | .laneAcknowledgement .. | .resetPinAsserted => true

end Sys2Proof
end

