-- ==== Sys2Proof/Decode.lean ====
section
/-! DEFINITION. The command that a word of the table's bits spells. No row of spec/opcode_table.json gives bits, so no word
spells one. (The bytes of a SPI transaction are read in Machine/Transactions.lean, those of cells, messages and markers in
Machine/Formats.lean.) -/

namespace Sys2Proof

/-- The command that a word spells by the table's bits: none, since the table gives no row any bits. -/
def decodeTableWord (_nbits _w : Nat) : Option Instr := none

end Sys2Proof
end

