-- ==== Sys2Proof/Machine/Dispatch.lean ====
section
/-! DEFINITION. Every command's meaning. -/

namespace Sys2Proof.Machine

def exec (i : Instr) (s : State) : Host.Outcome State Fault Refusal :=
  match i with
  | .identify => Sys2Proof.Machine.execIdentify s
  | .setConfigFrameId value => Sys2Proof.Machine.execSetConfigFrameId value s
  | .setConfigTimingPriority value => Sys2Proof.Machine.execSetConfigTimingPriority value s
  | .setConfigUseReference value => Sys2Proof.Machine.execSetConfigUseReference value s
  | .setConfigHoldoverLimit value => Sys2Proof.Machine.execSetConfigHoldoverLimit value s
  | .setConfigDrainDefault value => Sys2Proof.Machine.execSetConfigDrainDefault value s
  | .setConfigSuspendDefault value => Sys2Proof.Machine.execSetConfigSuspendDefault value s
  | .setConfigNoticeLevel index value => Sys2Proof.Machine.execSetConfigNoticeLevel index value s
  | .setConfigNoticeMask value => Sys2Proof.Machine.execSetConfigNoticeMask value s
  | .setConfigChannelMap index value => Sys2Proof.Machine.execSetConfigChannelMap index value s
  | .getConfig item => Sys2Proof.Machine.execGetConfig item s
  | .getPort port => Sys2Proof.Machine.execGetPort port s
  | .resetPort port => Sys2Proof.Machine.execResetPort port s
  | .depart count => Sys2Proof.Machine.execDepart count s
  | .cancelDepart => Sys2Proof.Machine.execCancelDepart s
  | .getFrame frame => Sys2Proof.Machine.execGetFrame frame s
  | .getTiming => Sys2Proof.Machine.execGetTiming s
  | .restartTiming => Sys2Proof.Machine.execRestartTiming s
  | .openStream lane terminal rate sampleBytes budget limit reroute => Sys2Proof.Machine.execOpenStream lane terminal rate sampleBytes budget limit reroute s
  | .lookupStream id => Sys2Proof.Machine.execLookupStream id s
  | .nextStream start => Sys2Proof.Machine.execNextStream start s
  | .closeStream id => Sys2Proof.Machine.execCloseStream id s
  | .retuneStream id rate => Sys2Proof.Machine.execRetuneStream id rate s
  | .clearStreams => Sys2Proof.Machine.execClearStreams s
  | .attachSink id lane mode blockSize threshold start => Sys2Proof.Machine.execAttachSink id lane mode blockSize threshold start s
  | .detachSink sink => Sys2Proof.Machine.execDetachSink sink s
  | .armSink sink start => Sys2Proof.Machine.execArmSink sink start s
  | .getSink sink => Sys2Proof.Machine.execGetSink sink s
  | .scheduleTrigger channel fireTick fireWhen => Sys2Proof.Machine.execScheduleTrigger channel fireTick fireWhen s
  | .cancelTrigger id => Sys2Proof.Machine.execCancelTrigger id s
  | .getTrigger selector => Sys2Proof.Machine.execGetTrigger selector s
  | .armInput input lead channel mode => Sys2Proof.Machine.execArmInput input lead channel mode s
  | .disarmInput input => Sys2Proof.Machine.execDisarmInput input s
  | .readNotices => Sys2Proof.Machine.execReadNotices s
  | .readCapture record => Sys2Proof.Machine.execReadCapture record s
  | .clearCapture record => Sys2Proof.Machine.execClearCapture record s
  | .resetDevice => Sys2Proof.Machine.execResetDevice s
  | .unknownRequestKind kind fields => Sys2Proof.Machine.execUnknownRequestKind kind fields s
  | .transactionAbandoned received => Sys2Proof.Machine.execTransactionAbandoned received s
  | .deviceReset straps => Sys2Proof.Machine.execDeviceReset straps s
  | .localEpochStart presence refin => Sys2Proof.Machine.execLocalEpochStart presence refin s
  | .gapStart => Sys2Proof.Machine.execGapStart s
  | .timeStep => Sys2Proof.Machine.execTimeStep s
  | .markerSend port => Sys2Proof.Machine.execMarkerSend port s
  | .managementCellBuild port => Sys2Proof.Machine.execManagementCellBuild port s
  | .dataSlot port slot => Sys2Proof.Machine.execDataSlot port slot s
  | .symbolLockGained port => Sys2Proof.Machine.execSymbolLockGained port s
  | .symbolLockLost port => Sys2Proof.Machine.execSymbolLockLost port s
  | .symbolBurst port errors => Sys2Proof.Machine.execSymbolBurst port errors s
  | .markerReceived port symbols => Sys2Proof.Machine.execMarkerReceived port symbols s
  | .cellReceived port bytes => Sys2Proof.Machine.execCellReceived port bytes s
  | .setup port m => Sys2Proof.Machine.execSetup port m s
  | .confirm port id gen pathLength => Sys2Proof.Machine.execConfirm port id gen pathLength s
  | .refuse port id gen reason refusing => Sys2Proof.Machine.execRefuse port id gen reason refusing s
  | .release port id gen => Sys2Proof.Machine.execRelease port id gen s
  | .break_ port id gen reason dir => Sys2Proof.Machine.execBreak port id gen reason dir s
  | .retune port id gen rate cells => Sys2Proof.Machine.execRetune port id gen rate cells s
  | .retuneOk port id gen => Sys2Proof.Machine.execRetuneOk port id gen s
  | .retuneRefuse port id gen reason => Sys2Proof.Machine.execRetuneRefuse port id gen reason s
  | .retuneCommit port id gen switch => Sys2Proof.Machine.execRetuneCommit port id gen switch s
  | .retuneAbort port id gen => Sys2Proof.Machine.execRetuneAbort port id gen s
  | .announce port m => Sys2Proof.Machine.execAnnounce port m s
  | .trigger port m => Sys2Proof.Machine.execTrigger port m s
  | .cancel port id => Sys2Proof.Machine.execCancel port id s
  | .presenceQualified port => Sys2Proof.Machine.execPresenceQualified port s
  | .presenceLost port => Sys2Proof.Machine.execPresenceLost port s
  | .trainingPause port => Sys2Proof.Machine.execTrainingPause port s
  | .trainingPauseEnd port => Sys2Proof.Machine.execTrainingPauseEnd port s
  | .markerLoss port => Sys2Proof.Machine.execMarkerLoss port s
  | .delayJump port => Sys2Proof.Machine.execDelayJump port s
  | .drainEnd => Sys2Proof.Machine.execDrainEnd s
  | .announceTimerExpiry => Sys2Proof.Machine.execAnnounceTimerExpiry s
  | .entryAgedOut frame => Sys2Proof.Machine.execEntryAgedOut frame s
  | .electionHoldEnd => Sys2Proof.Machine.execElectionHoldEnd s
  | .nearCountFull => Sys2Proof.Machine.execNearCountFull s
  | .unusableCountFull => Sys2Proof.Machine.execUnusableCountFull s
  | .farCountFull => Sys2Proof.Machine.execFarCountFull s
  | .returnCountFull => Sys2Proof.Machine.execReturnCountFull s
  | .holdoverExpiry => Sys2Proof.Machine.execHoldoverExpiry s
  | .refinQualified => Sys2Proof.Machine.execRefinQualified s
  | .refinUnqualified => Sys2Proof.Machine.execRefinUnqualified s
  | .triggerFireTime id => Sys2Proof.Machine.execTriggerFireTime id s
  | .triggerPulseEnd => Sys2Proof.Machine.execTriggerPulseEnd s
  | .triggerInputEdge input highTicks => Sys2Proof.Machine.execTriggerInputEdge input highTicks s
  | .setupTimerExpiry record => Sys2Proof.Machine.execSetupTimerExpiry record s
  | .suspendTimerExpiry record => Sys2Proof.Machine.execSuspendTimerExpiry record s
  | .rerouteRetryExpiry record => Sys2Proof.Machine.execRerouteRetryExpiry record s
  | .originRetuneTimeout record => Sys2Proof.Machine.execOriginRetuneTimeout record s
  | .hopRetuneTimeout record => Sys2Proof.Machine.execHopRetuneTimeout record s
  | .retuneSwitch record => Sys2Proof.Machine.execRetuneSwitch record s
  | .sinkSettle sink => Sys2Proof.Machine.execSinkSettle sink s
  | .cellRelease sink => Sys2Proof.Machine.execCellRelease sink s
  | .lanePush lane id samples payload => Sys2Proof.Machine.execLanePush lane id samples payload s
  | .lanePull lane id count => Sys2Proof.Machine.execLanePull lane id count s
  | .laneAcknowledgement lane id => Sys2Proof.Machine.execLaneAcknowledgement lane id s
  | .resetPinAsserted => Sys2Proof.Machine.execResetPinAsserted s

end Sys2Proof.Machine
end

