-- ==== Sys2Proof/Machine/Step.lean ====
section
/-! DEFINITION. One step of the part: the command at the front of the queue, or, on an empty queue, what falls due on its
own, or one tick. -/

namespace Sys2Proof.Machine

open Sys2Proof

/-- The part left to itself: the first event due, or one tick of its clock; nothing while it is held in reset (R177). -/
def idle (s : State) : Host.Outcome State Fault Refusal :=
  if s.pins.reset then .next s
  else
    match dueEvent s with
    | some i => exec i s
    | none => .next (passTicks 1 s)

/-- One step: the command at the front of the queue, with the queue's rest waiting. -/
def step (s : State) : Host.Outcome State Fault Refusal :=
  match s.pending with
  | c :: rest => exec c { s with pending := rest }
  | [] => idle s

/-- The state with the command that a word spells put at the front of its queue. -/
def State.withFetchWord (s : State) (nbits w : Nat) : State :=
  match decodeTableWord nbits w with
  | some i => { s with pending := i :: s.pending }
  | none => s

end Sys2Proof.Machine
end

