-- ==== Sys2Proof/Safety.lean ====
section
/-! DEFINITION. The terms in which statements about the part are made: its pieces and which of them a command leaves alone,
the answer it gives, and the invariant that holds from device reset on. -/

namespace Sys2Proof.Machine

open Sys2Proof

/-! ### Frames -/

/-- The pieces of the state, one for each field of State. -/
inductive Piece where
  | pending | inbox | ports | clock | time | dir | swap | trig | streams | sinks | captures | req | lane | pins
  deriving DecidableEq, Repr

/-- Two states agree in one piece. -/
def agree (x : Piece) (s t : State) : Prop :=
  match x with
  | .pending => t.pending = s.pending
  | .inbox => t.inbox = s.inbox
  | .ports => t.ports = s.ports
  | .clock => t.clock = s.clock
  | .time => t.time = s.time
  | .dir => t.dir = s.dir
  | .swap => t.swap = s.swap
  | .trig => t.trig = s.trig
  | .streams => t.streams = s.streams
  | .sinks => t.sinks = s.sinks
  | .captures => t.captures = s.captures
  | .req => t.req = s.req
  | .lane => t.lane = s.lane
  | .pins => t.pins = s.pins

/-- Every piece but those listed is as it was. -/
def changesOnly (xs : List Piece) (s t : State) : Prop := ∀ x, x ∉ xs → agree x s t

/-- Every port but one is as it was. -/
def otherPortsKept (p : PortId) (s t : State) : Prop := ∀ q, q ≠ p → t.port q = s.port q

/-- The Request Port is as it was but for its notices: those listed are set, the others stand as they did. -/
def noticesSet (ks : List NoticeKind) (s t : State) : Prop :=
  t.req = { s.req with pending := t.req.pending } ∧
    ∀ k, t.req.pending.get k = (s.req.pending.get k || ks.contains k)

/-- The Request Port is as it was but for its notices, none of which was cleared. -/
def noticesOnly (s t : State) : Prop :=
  t.req = { s.req with pending := t.req.pending } ∧
    ∀ k, s.req.pending.get k = true → t.req.pending.get k = true

/-- A port is as it was but for its two queues and its slot map. -/
def sameLink (x y : Port) : Prop :=
  y = { x with protocolQueue := y.protocolQueue, floodQueue := y.floodQueue, slotMap := y.slotMap }

/-- A port in a state whose queues take no offers (R13) keeps what they hold. -/
def queuesKept (x y : Port) : Prop :=
  takesOffers x.state = false → y.protocolQueue = x.protocolQueue ∧ y.floodQueue = x.floodQueue

/-- What the Stream Table, the Path Controller and the Delivery Unit can change: records, sinks, captures, notices raised,
and the queues and slot maps of ports. -/
structure StreamEffects (s t : State) : Prop where
  pieces : changesOnly [.ports, .streams, .sinks, .captures, .req] s t
  links : ∀ p, sameLink (s.port p) (t.port p)
  quiet : ∀ p, queuesKept (s.port p) (t.port p)
  notices : noticesOnly s t

/-- What the election and a change of timing can change: timing and directory state, and all that a loss of time
reaches. The directory's entries, the REFIN qualification and the step count stand. -/
structure TimingEffects (s t : State) : Prop where
  pieces : changesOnly [.ports, .time, .dir, .streams, .sinks, .captures, .req] s t
  links : ∀ p, sameLink (s.port p) (t.port p)
  quiet : ∀ p, queuesKept (s.port p) (t.port p)
  notices : noticesOnly s t
  entries : t.dir.entries = s.dir.entries
  refin : t.time.refin = s.time.refin
  steps : t.time.stepCount = s.time.stepCount

/-! ### The passing of time -/

/-- No ARMED entry reaches its fire time before a tick of the current epoch comes. -/
def noneFires (s : State) (tick : Nat) : Prop :=
  ∀ e ∈ s.trig.table, e.state = .armed → later e.fire (now s) = true ∧ later ⟨s.clock.epoch, tick⟩ e.fire = false

/-- The Trigger Scheduler when time runs on by `n` ticks and no trigger fires: pulses run on, and firings from then on read
CHANNEL_MAP as it stands (R85, R174). -/
def timeOnly (n : Nat) (s : State) : TriggerUnit :=
  if n = 0 then s.trig
  else { s.trig with
    pulses := s.trig.pulses.map fun x => { x with left := x.left - n }, firingMap := s.req.config.channelMap }

/-- What the passing of time within an epoch can change, besides tick and stamp count: of the Trigger Scheduler the entries'
states, pulses and the map that firings read; sinks that wait for a trigger; and notices. Without a firing, pulses and map
alone. -/
structure TimePasses (n : Nat) (s t : State) : Prop where
  pieces : changesOnly [.clock, .trig, .sinks, .req] s t
  clock : t.clock = { s.clock with tick := s.clock.tick + n, stamp := s.clock.stamp + BitVec.ofNat 24 n }
  triggers : t.trig = { timeOnly n s with table := t.trig.table, pulses := t.trig.pulses }
  entries : t.trig.table.map (fun e => (e.id, e.fire, e.channel)) = s.trig.table.map fun e => (e.id, e.fire, e.channel)
  notices : noticesOnly s t
  idle : noneFires s (s.clock.tick + n) → t.trig = timeOnly n s ∧ t.sinks = s.sinks ∧ t.req = s.req
  onTime : n ≠ 0 → ∀ e ∈ t.trig.table, e.state = .armed → later ⟨s.clock.epoch, s.clock.tick + n⟩ e.fire = false

/-- The response of the last request taken. -/
def respondsWith (t : State) (status : Status) (body : Body) : Prop := t.req.spi = .response ⟨status, none, body⟩

/-- The same state with an answer on SPI: what a request that changes nothing leaves (R168). -/
def withAnswer (s : State) (status : Status) (body : Body) : State :=
  { s with req := { s.req with spi := .response ⟨status, none, body⟩ } }

/-- The Stream Table with one record changed and everything else as it was. -/
def recordBecomes (i : Nat) (f : StreamRecord → StreamRecord) (s t : State) : Prop :=
  t.streams = { s.streams with records := s.streams.records.map fun r => if r.index = i then f r else r }

/-- The sink table with one sink changed and every other as it was. -/
def sinkBecomes (k : Nat) (f : Sink → Sink) (s t : State) : Prop :=
  t.sinks = s.sinks.map fun x => if x.index = k then f x else x

/-- Every record but one is as it was, but for its list of sinks. -/
def otherRecordsKept (i : Nat) (s t : State) : Prop :=
  ∀ j, j ≠ i → (recordAt t j).map (fun r => { r with sinks := [] }) = (recordAt s j).map fun r => { r with sinks := [] }

/-- The election, evaluated with the timing state `x`, has the outcome that was handed last (R53). -/
def electionStands (x : TimingState) (s : State) : Prop :=
  (electionOutcome { s with time := { s.time with state := x } }).1 = s.time.result

/-- The outcome of the election is the one handed last (R53). -/
def electionSettled (s : State) : Prop := (electionOutcome s).1 = s.time.result

/-- A port as a port reset leaves it (R31): the values after device reset, in TRAINING or DOWN as its presence is; what its
pins show and send, and its place in the epoch, stay. -/
def freshPort (x : Port) : Port :=
  { Port.reset with
    state := if x.presence.qualified then .training else .down
    training := if x.presence.qualified then some (.locking 0) else none
    presence := x.presence, markerThisEpoch := x.markerThisEpoch, nextSlot := x.nextSlot, wire := x.wire }

/-! ### Records that leave service -/

/-- The protocol queue of a port takes offers, and can take two messages more for every record. -/
def roomFor (s : State) (p : PortId) : Prop :=
  takesOffers (s.port p).state = true ∧ (s.port p).protocolQueue.length + 2 * s.streams.records.length ≤ 20

/-- A message to a side, if that exists, stands in the side's protocol queue, where there was room for all of them. -/
def toldOn (side : Option PortId) (m : Msg) (s t : State) : Prop :=
  ∀ p, side = some p → roomFor s p → m ∈ (t.port p).protocolQueue

/-- A record stands as an entry to SUSPENDED leaves it (R106, R94). -/
def standsSuspended (c : ReasonCode) (r : StreamRecord) (t : State) : Prop :=
  recordAt t r.index = some { suspended c r with changed := true }

/-- The slots of a port without those of the records for which `gone` holds there. -/
def slotsWithout (gone : StreamRecord → Bool) (s : State) (p : PortId) : List SlotEntry :=
  (s.port p).slotMap.filter fun e =>
    !(s.streams.records.any fun r => r.index == e.record && r.egress == some p && gone r)

/-- No record has come or gone. -/
def sameRecords (s t : State) : Prop := t.streams.records.map (·.index) = s.streams.records.map (·.index)

/-- A loss of time (R109): every record in service is SUSPENDED with TIME_LOST, its slots are free, and a BREAK goes both
ways; any other record stands. -/
structure TimeLost (s t : State) : Prop where
  records : sameRecords s t
  lost : ∀ r ∈ s.streams.records, inService r = true →
    standsSuspended .timeLost r t ∧ toldOn (upstream r) (breakOf r .timeLost .towardOrigin) s t ∧
      toldOn (downstream r) (breakOf r .timeLost .towardTerminus) s t
  others : ∀ r ∈ s.streams.records, inService r = false → recordAt t r.index = some r
  slots : ∀ p, (t.port p).slotMap = slotsWithout inService s p

/-- The end of the drain (R110): every record in service is SUSPENDED with DEPARTING; one SUSPENDED already keeps its reason;
the slots of both are free; a RELEASE goes from an origin toward the terminus, a BREAK from a transit hop both ways, from
a terminus toward the origin; a CLOSED record stands. -/
structure DrainEnded (s t : State) : Prop where
  records : sameRecords s t
  broken : ∀ r ∈ s.streams.records, inService r = true → standsSuspended .departing r t
  rested : ∀ r ∈ s.streams.records, r.state = .suspended →
    recordAt t r.index = some { r with changed := r.changed || decide (0 < slotsHeld s r) }
  closed : ∀ r ∈ s.streams.records, r.state = .closed → recordAt t r.index = some r
  origins : ∀ r ∈ s.streams.records, r.state ≠ .closed → r.role = .origin →
    toldOn (downstream r) (.release r.id r.gen) s t
  hops : ∀ r ∈ s.streams.records, r.state ≠ .closed → (r.role = .transit ∨ r.role = .terminus) →
    toldOn (upstream r) (breakOf r .departing .towardOrigin) s t
  transits : ∀ r ∈ s.streams.records, r.state ≠ .closed → r.role = .transit →
    toldOn (downstream r) (breakOf r .departing .towardTerminus) s t
  slots : ∀ p, (t.port p).slotMap = slotsWithout (fun r => r.state != .closed) s p

/-- The step of a re-pack of a port that takes a record, 1 to 3, if one does (R104). -/
def repackStep (s : State) (p : PortId) (r : StreamRecord) : Option Nat :=
  if r.egress = some p then
    match r.state with
    | .suspended => if 0 < slotsHeld s r then some 1 else none
    | .pending => some 2
    | .active | .retuning => some 3
    | .closed => none
  else none

/-- A re-pack of a port comes to one record before another: by step, then the newer activation order in step 3 and the
higher index in the others (R104). The order in which R105 moves slots is the reverse. -/
def takenFirst (s : State) (p : PortId) (a b : StreamRecord) : Prop :=
  ∃ m n, repackStep s p a = some m ∧ repackStep s p b = some n ∧
    (m < n ∨ (m = n ∧
      if n = 3 then ahead (a.activation.getD 0) (b.activation.getD 0) = true else b.index < a.index))

/-- The slots of a port once a re-pack has taken some records. -/
def slotsLeft (took : StreamRecord → Bool) (s : State) (p : PortId) : List SlotEntry :=
  (s.port p).slotMap.filter fun e => !(s.streams.records.any fun r => took r && r.index == e.record)

/-- The activation orders of the records lie in one half of the number range, so that R113 compares them as numbers. -/
def ordersCompare (s : State) : Prop :=
  ∃ base : Epoch, ∀ r ∈ s.streams.records, (r.activation.getD 0 - base).toNat < 2 ^ 47

/-! ### The cell-start symbol -/

/-- What the cell-start symbol of a cell does at a recognizer that runs (R3): it is back to searching, and a half-read marker
is rejected as TRUNCATED. -/
def cellBegun (p : PortId) (s : State) : State :=
  let u := s.setPort p { s.port p with recognizer := ⟨0, none, []⟩ }
  if (s.port p).recognizer.found < 3 then u else capturePort p .markerRejected (some 0) none (.marker .truncated) u

/-- Every sink that a record names takes a copy of a cell, once for each time it is named; no other sink changes (R139,
R142, R151). -/
def sinksTake (r : StreamRecord) (c : SinkCell) (s t : State) : Prop :=
  ∀ k, sinkAt t k = (sinkAt s k).map (Nat.repeat (takeCopy s r.budget c) (r.sinks.count k))

/-! ### The invariant -/

/-- A list of numbers rises strictly. -/
def rising (l : List Nat) : Prop := l.Pairwise fun a b => a < b

/-- The frame an ANNOUNCE is for. -/
def announcedFrame (m : Msg) : Option FrameId :=
  match m with
  | .announce a => some a.frame
  | .setup _ | .confirm .. | .refuse .. | .release .. | .break_ .. | .retune .. | .retuneOk .. | .retuneRefuse ..
  | .retuneCommit .. | .retuneAbort .. | .trigger _ | .cancel _ => none

/-- A port's queues, slot map and counts are within what R6, R13, R15 and R16 give: at most 20 protocol messages, at most 8
floods with at most one ANNOUNCE per frame, map entries in rising slots of 2..61, a miss count of 0..4, which is 4 while its
MARKER_LOSS is due. -/
structure PortInv (x : Port) : Prop where
  protocol : x.protocolQueue.length ≤ 20
  flood : x.floodQueue.length ≤ 8
  announces : (x.floodQueue.filterMap announcedFrame).Nodup
  slots : rising (x.slotMap.map (·.slot))
  slotRange : ∀ e ∈ x.slotMap, 2 ≤ e.slot ∧ e.slot ≤ 61
  misses : x.missCount ≤ 4
  loss : x.lossDue = true → x.missCount = 4

/-- The Trigger Table, the dropped list and their counts are within R79, R80 and R85. -/
structure TriggersInv (x : TriggerUnit) : Prop where
  table : x.table.length ≤ 32
  dropped : x.dropped.length ≤ 8
  notStored : x.notStored ≤ 65535
  pulses : ∀ p ∈ x.pulses, p.left ≤ 64

/-- No ARMED entry has a fire time earlier than the rack time (R79). -/
def onTime (time : RackTime) (table : List TriggerEntry) : Prop :=
  ∀ e ∈ table, e.state = .armed → later time e.fire = false

/-- The configuration items are in their ranges (R172). -/
structure ConfigInv (c : Config) : Prop where
  priority : c.timingPriority ≤ 15
  holdover : c.holdoverLimit ≤ 65535
  drain : c.drainDefault ≤ 65535
  suspend : 1 ≤ c.suspendDefault ∧ c.suspendDefault ≤ 65535
  levels : ∀ k, c.noticeLevel.get k ≤ 7
  mask : c.noticeMask ≤ 7

/-- Records stand at rising indices 0..127 (R96). -/
structure RecordsInv (rs : List StreamRecord) : Prop where
  order : rising (rs.map (·.index))
  range : ∀ r ∈ rs, r.index < 128

/-- Sinks stand at rising indices 0..63 (R146), and none holds more cells than its reservation (R147). -/
structure SinksInv (ks : List Sink) : Prop where
  order : rising (ks.map (·.index))
  range : ∀ x ∈ ks, x.index < 64
  room : ∀ x ∈ ks, x.held.length + x.released.length ≤ x.reservation

/-- Every part of the state is within its bounds. -/
structure Bounds (s : State) : Prop where
  ports : ∀ p, PortInv (s.port p)
  triggers : TriggersInv s.trig
  config : ConfigInv s.req.config
  records : RecordsInv s.streams.records
  sinks : SinksInv s.sinks

/-- What holds of the part from device reset on: its bounds, and no ARMED trigger that the counter has passed (R79). -/
structure Inv (s : State) : Prop extends Bounds s where
  punctual : onTime (now s) s.trig.table

/-! ### The port reset -/

/-- A record that a port reset takes out of service is SUSPENDED with PATH_LOST (R108), or was with TIME_LOST where the
reset cost the part its timing port and HOLDOVER_LIMIT is 0 (R67, R74, R109). -/
def resetReason (s : State) (c : ReasonCode) : Prop := c = .pathLost ∨ (c = .timeLost ∧ s.req.config.holdoverLimit = 0)

/-- What a port reset does (R31): the port's own state; its next hops LOST (R47); the records on it out of service and broken
on their other side, those with it as ingress keeping up to C slots (R108, R106); the error of its cause at its capture record
(R30, R163); a PORT notice. Other ports keep their links, and with a HOLDOVER_LIMIT other records stand. -/
structure PortResetEffects (p : PortId) (cause : ErrorKind) (detail : Detail) (s t : State) : Prop where
  pieces : changesOnly [.ports, .time, .dir, .streams, .sinks, .captures, .req] s t
  own : t.port p = freshPort (s.port p)
  links : ∀ q, q ≠ p → sameLink (s.port q) (t.port q) ∧ queuesKept (s.port q) (t.port q)
  entries : t.dir.entries = s.dir.entries.map fun e => if e.nextHop = p ∧ e.state ≠ .lost then { e with state := .lost } else e
  records : RecordsInv s.streams.records → sameRecords s t
  outbound : RecordsInv s.streams.records → ∀ r ∈ s.streams.records, r.egress = some p → inService r = true →
    ∃ c, resetReason s c ∧ standsSuspended c r t ∧
      ∀ q, q ≠ p → upstream r = some q → toldOn (some q) (breakOf r c .towardOrigin) s t
  inbound : RecordsInv s.streams.records → ∀ r ∈ s.streams.records, r.ingress = .port p → r.egress ≠ some p →
    inService r = true →
    ∃ c, resetReason s c ∧ standsSuspended c r t ∧
      (∀ q, r.egress = some q → toldOn (some q) (breakOf r c .towardTerminus) s t) ∧
      ∀ q, r.egress = some q → slotsNaming r.index (t.port q).slotMap =
        if c = .timeLost then [] else (slotsNaming r.index (s.port q).slotMap).take r.cells
  resting : RecordsInv s.streams.records → ∀ r ∈ s.streams.records, r.egress = some p → r.state = .suspended →
    recordAt t r.index = some { r with changed := r.changed || decide (0 < slotsHeld s r) }
  others : RecordsInv s.streams.records → s.req.config.holdoverLimit ≠ 0 → ∀ r ∈ s.streams.records,
    (r.egress = some p → r.state = .closed) → (r.ingress ≠ .port p ∨ inService r = false) → recordAt t r.index = some r
  capture : t.captures.port.get p = takeInto (s.captures.port.get p) ⟨cause, s.clock.epoch, none, none, detail⟩
  captures : (∀ q, q ≠ p → t.captures.port.get q = s.captures.port.get q) ∧ t.captures.lane = s.captures.lane
  notice : t.req.pending.get .port = true
  notices : noticesOnly s t

end Sys2Proof.Machine
end

