-- ==== Sys2Proof/Certificates/Slice0/Obligations.lean ====
section
/-! DEFINITION. The statements about the part, for the provers. Each is about every state and all operands that meet its
hypotheses; frames are said with the pieces of Safety. -/

open Sys2Proof Sys2Proof.Machine

/-! ### The machine as a whole -/

/-- A step takes the command at the front of the queue and runs it with the queue's rest. The queue is the model's own
(log entry 1). -/
def Obligations.StepRunsFrontCommand : Prop :=
  ∀ (c : Instr) (rest : List Instr) (s : State),
    step { s with pending := c :: rest } = exec c { s with pending := rest }

/-- The part right after device reset: ports DOWN and nothing stored, FREE at epoch 0 and tick 0, tables and captures
empty, configuration items at their defaults, flags clear. The other fields of a port are the model's values (log entry
40). -/
def Obligations.ResetStateValues : Prop :=
  (∀ p, State.reset.port p = Port.reset) ∧ Port.reset.state = .down ∧ Port.reset.delay = .closed ∧
    Port.reset.protocolQueue = [] ∧ Port.reset.floodQueue = [] ∧ Port.reset.slotMap = [] ∧
    State.reset.clock.epoch = 0 ∧ State.reset.clock.tick = 0 ∧ State.reset.time.state = .free ∧
    State.reset.time.role = .follower ∧ State.reset.time.result = .nobody ∧ State.reset.time.stepCount = 0 ∧
    State.reset.dir.entries = [] ∧ State.reset.dir.serial = 0 ∧ State.reset.dir.restartCount = 4 ∧
    State.reset.dir.announceTimer = 256 ∧ State.reset.dir.hold = none ∧ State.reset.swap.departure = .inService ∧
    State.reset.trig.table = [] ∧ State.reset.trig.dropped = [] ∧ State.reset.trig.serial = 0 ∧
    State.reset.streams.records = [] ∧ State.reset.streams.serial = 0 ∧ State.reset.sinks = [] ∧
    (∀ n, captureAt State.reset n = none ∨ captureAt State.reset n = some ⟨none, false⟩) ∧
    (∀ k, State.reset.req.pending.get k = false ∧ State.reset.req.config.noticeLevel.get k = 0) ∧
    State.reset.req.config.timingPriority = 15 ∧ State.reset.req.config.useReference = true ∧
    State.reset.req.config.holdoverLimit = 9766 ∧ State.reset.req.config.drainDefault = 2048 ∧
    State.reset.req.config.suspendDefault = 4096 ∧ State.reset.req.config.noticeMask = 0 ∧
    (∀ n, State.reset.req.config.channelMap.get n = 0) ∧ State.reset.req.config.frameId = State.reset.req.strap

/-- The state after device reset meets the invariant. That no MARKER_LOSS is due is a value of the model's own mark (log entries 40
and 49). -/
def Obligations.ResetMeetsInvariant : Prop := Inv State.reset

/-- Every step from a state that meets the invariant leads to one that meets it, whatever command waits: the ranges and bounds
of the spec's rules, no ARMED trigger earlier than the rack time, and a mark that MARKER_LOSS is due only beside a count of 4
(the mark is the model's, log entry 49). What a step does on an empty queue, and "earlier" as the reverse of ahead, are the
model's too (log entries 2 and 71). -/
def Obligations.StepKeepsInvariant : Prop := ∀ s t : State, Inv s → step s = .next t → Inv t

/-! ### Encodings -/

/-- The bytes that the frame controller sends for a request are read back as that request, with every field at every
value, whatever bytes follow them. GET_CONFIG's selector and the start of ATTACH_SINK have the form of log entries 25 and
27. -/
def Obligations.RequestBytesReadBack : Prop :=
  ∀ (i : Instr) (bs more : List Byte), transactionBytes i = some bs → readTransaction (bs ++ more) = some i

/-- The bytes of a management message with fields in range are read back as that message, whatever bytes follow them. -/
def Obligations.MessageBytesReadBack : Prop :=
  ∀ (m : Msg) (more : List Byte), m.wf = true → readEnvelope (msgBytes m ++ more) = .message m

/-- A cell is 128 bytes, its two checks are right at the receiver, and its header and payload are read back. A marker
is 21 bytes, and its fields are read back from them; its info byte decodes clean to its info bits, and it fails no
check at a port that holds no other identity. -/
def Obligations.CellsAndMarkersReadBack : Prop :=
  (∀ (h : CellHeader) (payload : List Byte), payload.length = 116 →
    (cellBytes h payload).length = 128 ∧ headerCheckOk (cellBytes h payload) = true ∧
      payloadCheckOk (cellBytes h payload) = true ∧ readHeader (cellBytes h payload) = h ∧
      readPayload (cellBytes h payload) = payload) ∧
  (∀ (x : Port) (m : Marker) (i : InfoBits), m.priority ≤ 15 → i.epochOdd = m.epoch.getLsbD 0 →
    (x.neighbour = none ∨ x.neighbour = some ⟨m.frame, m.port⟩) →
    (markerBytes m i).length = 21 ∧ readMarker (markerBytes m i) = m ∧
      decodeInfo (byteAt (markerBytes m i) 1) = .clean i ∧ failedCheck x (markerBytes m i) i = none)

/-- The info byte: sent with an even number of ones it decodes clean; with any one bit inverted it is corrected to the bits
sent, and the position is named; with any two bits inverted it is a double error. -/
def Obligations.InfoByteErrors : Prop :=
  ∀ i : InfoBits, decodeInfo (infoByte i) = .clean i ∧
    (∀ n : Fin 8, decodeInfo (infoByte i ^^^ (1 <<< n.val)) = .corrected n.val i) ∧
    ∀ m n : Fin 8, m ≠ n → decodeInfo (infoByte i ^^^ (1 <<< m.val) ^^^ (1 <<< n.val)) = .doubleError

/-! ### Reading -/

/-- IDENTIFY is answered OK with its fields and changes nothing; the fields' bytes, encoded by R168. -/
def Obligations.IdentifyAnswers : Prop :=
  ∀ s : State, s.pins.reset = false →
    exec .identify s = .next (withAnswer s .ok (.identity s.req.strap s.req.config.frameId s.clock.epoch)) ∧
      bBody (.identity s.req.strap s.req.config.frameId s.clock.epoch) =
        [0x06, 0x16, 1, BitVec.ofNat 8 s.req.strap.val, BitVec.ofNat 8 s.req.config.frameId.val, 6, 16, 128, 64, 0x10, 0x00,
          32, 8] ++ bytesOf 6 s.clock.epoch.toNat

/-- GET_CONFIG, GET_TIMING, GET_PORT and GET_FRAME are answered OK with what they name and change nothing; an item index
out of its range, a port above 5 and a frame id above 31 are BAD_ARGUMENT. GET_SINK and GET_TRIGGER report what they name
and change nothing; an index above 63 and a position outside 1..32 are BAD_ARGUMENT, and what stands nowhere is NOT_FOUND.
Position 0, bits 15 to 13 of a trigger id, which are not read, and a GET_CONFIG index out of its range are the model's reading
(log entries 21 and 25). -/
def Obligations.ReportsAnswer : Prop :=
  (∀ s : State, s.pins.reset = false →
    exec (.getConfig none) s = .next (withAnswer s .ok (.config s.req.config)) ∧
    (∀ i v, itemValue s.req.config i = some v → exec (.getConfig (some i)) s = .next (withAnswer s .ok (.value v))) ∧
    (∀ i, itemValue s.req.config i = none → exec (.getConfig (some i)) s = .next (withAnswer s .badArgument .empty)) ∧
    exec .getTiming s = .next (withAnswer s .ok (.timing (timingReport s))) ∧
    (∀ (b : Byte) (p : PortId), b.toNat = p.val →
      exec (.getPort b) s = .next (withAnswer s .ok (.port (portReport (s.port p))))) ∧
    (∀ b : Byte, 5 < b.toNat → exec (.getPort b) s = .next (withAnswer s .badArgument .empty)) ∧
    (∀ (b : Byte) (x : FrameId), b.toNat = x.val →
      exec (.getFrame b) s = .next (withAnswer s .ok
        (if x = 0 ∨ x = s.req.config.frameId then .directory (directoryReport s) else .entry (entryOf s x)))) ∧
    ∀ b : Byte, 31 < b.toNat → exec (.getFrame b) s = .next (withAnswer s .badArgument .empty)) ∧
  (∀ s : State, s.pins.reset = false →
    (∀ (k : Byte) (x : Sink), k.toNat ≤ 63 → sinkAt s k.toNat = some x →
      exec (.getSink (some k)) s = .next (withAnswer s .ok (.sink (sinkReport x)))) ∧
    (∀ k : Byte, k.toNat ≤ 63 → sinkAt s k.toNat = none →
      exec (.getSink (some k)) s = .next (withAnswer s .notFound .empty)) ∧
    (∀ k : Byte, 63 < k.toNat → exec (.getSink (some k)) s = .next (withAnswer s .badArgument .empty)) ∧
    exec (.getSink none) s = .next (withAnswer s .ok (.pool
      ⟨s.sinks.length, (s.sinks.map (·.reservation)).sum, 4096 - (s.sinks.map (·.reservation)).sum,
        (s.sinks.map fun x => x.held.length + x.released.length).sum⟩)) ∧
    (∀ (id : BitVec 16) (e : TriggerEntry), triggerAt s (triggerIdOf id) = some e →
      exec (.getTrigger (.id id)) s = .next (withAnswer s .ok (.trigger e))) ∧
    (∀ (id : BitVec 16) (n : DroppedNote), triggerAt s (triggerIdOf id) = none →
      s.trig.dropped.find? (fun n => n.id == triggerIdOf id) = some n →
      exec (.getTrigger (.id id)) s = .next (withAnswer s .ok (.note n))) ∧
    (∀ id : BitVec 16, holdsTrigger s (triggerIdOf id) = false →
      exec (.getTrigger (.id id)) s = .next (withAnswer s .notFound .empty)) ∧
    (∀ n : Byte, n = 0 ∨ 32 < n.toNat → exec (.getTrigger (.position n)) s = .next (withAnswer s .badArgument .empty)) ∧
    (∀ n : Byte, n.toNat ≤ 32 → s.trig.table.length < n.toNat →
      exec (.getTrigger (.position n)) s = .next (withAnswer s .notFound .empty)) ∧
    (∀ (n : Byte) (e : TriggerEntry), 1 ≤ n.toNat → n.toNat ≤ 32 → s.trig.table[n.toNat - 1]? = some e →
      exec (.getTrigger (.position n)) s = .next (withAnswer s .ok (.trigger e))) ∧
    exec (.getTrigger .summary) s = .next (withAnswer s .ok (.triggers (triggerReport s))))

/-- READ_CAPTURE: a record by its number, the summary, BAD_ARGUMENT above 7; nothing changes. The bytes of a record and of a line
of the summary are encoded by R168, with the presence byte of a held error, the flags and the severity as in log entry 31 (the
model's choice). -/
def Obligations.CaptureReads : Prop :=
  ∀ s : State, s.pins.reset = false →
    (∀ (b : Byte) (p : PortId), b.toNat = p.val →
      exec (.readCapture (some b)) s = .next (withAnswer s .ok (.capture (s.captures.port.get p)))) ∧
    exec (.readCapture (some 6)) s = .next (withAnswer s .ok (.capture s.captures.lane)) ∧
    exec (.readCapture (some 7)) s = .next (withAnswer s .ok (.capture s.captures.protocol)) ∧
    (∀ b : Byte, 7 < b.toNat → exec (.readCapture (some b)) s = .next (withAnswer s .badArgument .empty)) ∧
    exec (.readCapture none) s = .next (withAnswer s .ok (.captures s.captures)) ∧
    (∀ r : CaptureRecord, bCapture r =
      match r.held with
      | none => [0] ++ bFlag r.lost
      | some e => [1] ++ bError e ++ bFlag r.lost) ∧
    ∀ r : CaptureRecord, bCaptureLine r =
      match r.held with
      | none => [0] ++ bFlag r.lost
      | some e => [1] ++ bSeverity (severityOf e.kind) ++ bFlag r.lost

/-- CLEAR_CAPTURE: the record's content as it stood is the answer, the record is then empty with LOST clear, and nothing else
changes, the CAPTURE notice included; the same for all eight; BAD_ARGUMENT above 7. -/
def Obligations.CaptureClears : Prop :=
  ∀ s : State, s.pins.reset = false →
    (∀ (b : Byte) (p : PortId), b.toNat = p.val →
      exec (.clearCapture (some b)) s = .next (withAnswer
        { s with captures := { s.captures with port := s.captures.port.set p ⟨none, false⟩ } } .ok
        (.capture (s.captures.port.get p)))) ∧
    exec (.clearCapture (some 6)) s = .next (withAnswer
      { s with captures := { s.captures with lane := ⟨none, false⟩ } } .ok (.capture s.captures.lane)) ∧
    exec (.clearCapture (some 7)) s = .next (withAnswer
      { s with captures := { s.captures with protocol := ⟨none, false⟩ } } .ok (.capture s.captures.protocol)) ∧
    (∀ b : Byte, 7 < b.toNat → exec (.clearCapture (some b)) s = .next (withAnswer s .badArgument .empty)) ∧
    exec (.clearCapture none) s = .next (withAnswer
      { s with captures := ⟨PerPort.all ⟨none, false⟩, ⟨none, false⟩, ⟨none, false⟩⟩ } .ok (.captures s.captures))

/-- An error at a capture record, of a port, the lanes or the protocol: an empty one takes it and keeps its LOST flag; a locked
one gives way to a higher severity alone, and LOST is set either way; the CAPTURE notice is raised when the error is taken or
LOST turns from clear to set. Nothing else changes. -/
def Obligations.CaptureTakesErrors : Prop :=
  ∀ (s : State) (k : ErrorKind) (id : Option StreamId) (d : Detail),
    let taken (r x : CaptureRecord) (e : CapturedError) : Prop :=
      (r.held = none → x = ⟨some e, r.lost⟩) ∧
        (∀ h, r.held = some h → weight (severityOf h.kind) < weight (severityOf k) → x = ⟨some e, true⟩) ∧
        ∀ h, r.held = some h → weight (severityOf k) ≤ weight (severityOf h.kind) → x = ⟨some h, true⟩
    let raised (r : CaptureRecord) : List NoticeKind :=
      if r.held.all (fun h => decide (weight (severityOf h.kind) < weight (severityOf k))) || !r.lost then [.capture] else []
    (∀ (p : PortId) (n : Option Nat),
      let t := capturePort p k n id d s
      taken (s.captures.port.get p) (t.captures.port.get p) ⟨k, s.clock.epoch, n, id, d⟩ ∧
        (∀ q, q ≠ p → t.captures.port.get q = s.captures.port.get q) ∧ t.captures.lane = s.captures.lane ∧
        t.captures.protocol = s.captures.protocol ∧ changesOnly [.captures, .req] s t ∧
        noticesSet (raised (s.captures.port.get p)) s t) ∧
    (let t := captureLane k id d s;
      taken s.captures.lane t.captures.lane ⟨k, s.clock.epoch, none, id, d⟩ ∧ t.captures.port = s.captures.port ∧
        t.captures.protocol = s.captures.protocol ∧ changesOnly [.captures, .req] s t ∧
        noticesSet (raised s.captures.lane) s t) ∧
    (let t := captureProtocol k id d s;
      taken s.captures.protocol t.captures.protocol ⟨k, s.clock.epoch, none, id, d⟩ ∧ t.captures.port = s.captures.port ∧
        t.captures.lane = s.captures.lane ∧ changesOnly [.captures, .req] s t ∧
        noticesSet (raised s.captures.protocol) s t)

/-- LOOKUP_STREAM reports the record that holds a stream id, with its changed mark, and clears the mark and nothing else;
NEXT_STREAM reports the first record at or above its start index and changes nothing; NOT_FOUND and BAD_ARGUMENT where the
rules name them. -/
def Obligations.StreamReads : Prop :=
  ∀ s : State, s.pins.reset = false →
    (∀ id r, recordOf s id = some r → ∃ t, exec (.lookupStream id) s = .next t ∧
      respondsWith t .ok (.stream (streamReport s r)) ∧ recordBecomes r.index (fun r => { r with changed := false }) s t ∧
      changesOnly [.streams, .req] s t ∧ t.req = { s.req with spi := t.req.spi }) ∧
    (∀ id, recordOf s id = none → exec (.lookupStream id) s = .next (withAnswer s .notFound .empty)) ∧
    (∀ (start : Byte) (r : StreamRecord), RecordsInv s.streams.records → r ∈ s.streams.records → start.toNat ≤ 127 →
      start.toNat ≤ r.index → (∀ x ∈ s.streams.records, start.toNat ≤ x.index → r.index ≤ x.index) →
      exec (.nextStream start) s = .next (withAnswer s .ok (.stream (streamReport s r)))) ∧
    (∀ start : Byte, start.toNat ≤ 127 → (∀ x ∈ s.streams.records, x.index < start.toNat) →
      exec (.nextStream start) s = .next (withAnswer s .notFound .empty)) ∧
    ∀ start : Byte, 127 < start.toNat → exec (.nextStream start) s = .next (withAnswer s .badArgument .empty)

/-! ### Configuration, notices, device reset -/

/-- SET_CONFIG of HOLDOVER_LIMIT, DRAIN_DEFAULT, SUSPEND_DEFAULT, NOTICE_LEVEL, NOTICE_MASK and CHANNEL_MAP: the item takes
the value clamped to its range, the answer is OK with the value stored, and nothing else changes; an index out of range is
BAD_ARGUMENT. A new CHANNEL_MAP leaves the model's map for the firings of the present tick as it is (log entry 53). -/
def Obligations.PlainItemsStored : Prop :=
  ∀ (s : State) (v : BitVec 16), s.pins.reset = false →
    let c := s.req.config
    exec (.setConfigHoldoverLimit v) s = .next (withAnswer (s.setConfig { c with holdoverLimit := v.toNat }) .ok (.value v)) ∧
    exec (.setConfigDrainDefault v) s = .next (withAnswer (s.setConfig { c with drainDefault := v.toNat }) .ok (.value v)) ∧
    (exec (.setConfigSuspendDefault v) s =
      .next (withAnswer (s.setConfig { c with suspendDefault := if v = 0 then 1 else v.toNat }) .ok
        (.value (if v = 0 then 1 else v)))) ∧
    (∀ (b : Byte) (k : NoticeKind), allNotices[b.toNat]? = some k →
      exec (.setConfigNoticeLevel b v) s =
        .next (withAnswer (s.setConfig { c with noticeLevel := c.noticeLevel.set k (min v.toNat 7) }) .ok
          (.value (BitVec.ofNat 16 (min v.toNat 7))))) ∧
    (∀ b : Byte, 6 < b.toNat → exec (.setConfigNoticeLevel b v) s = .next (withAnswer s .badArgument .empty)) ∧
    (exec (.setConfigNoticeMask v) s =
      .next (withAnswer (s.setConfig { c with noticeMask := min v.toNat 7 }) .ok
        (.value (BitVec.ofNat 16 (min v.toNat 7))))) ∧
    (∀ b : Byte, b.toNat ≤ 7 →
      exec (.setConfigChannelMap b v) s =
        .next (withAnswer (s.setConfig { c with channelMap := c.channelMap.set b.toNat (v.setWidth 8) }) .ok
          (.value ((v.setWidth 8).setWidth 16)))) ∧
    ∀ b : Byte, 7 < b.toNat → exec (.setConfigChannelMap b v) s = .next (withAnswer s .badArgument .empty)

/-- READ_NOTICES is answered with the seven flags and ATTN as they stood; then the flags are clear and ATTN is deasserted, and
nothing else has changed, the changed marks of the records included. -/
def Obligations.ReadNoticesClears : Prop :=
  ∀ s : State, s.pins.reset = false →
    ∃ t, exec .readNotices s = .next t ∧ respondsWith t .ok (.notices s.req.pending (attn s)) ∧
      (∀ k, t.req.pending.get k = false) ∧ attn t = false ∧ changesOnly [.req] s t ∧
      t.req = { s.req with pending := t.req.pending, spi := t.req.spi }

/-- RESET_DEVICE is answered OK, and the reset that follows its transaction leaves what the end of reset leaves with straps that
nothing constrains; the RESET pin silences the cables and SPI; the end of reset samples the straps and leaves every block at its values after device reset, as the strap frame id and as FRAME_ID.
While the RESET pin is held or power comes up, a command other than the pin's own and the end of reset changes nothing but
what SPI carries, which is all ones after a request, and ATTN, the lane notice lines and the trigger outputs read
deasserted. That the command of RESET_DEVICE takes in the reset, its free straps, and that other commands change nothing while the pin is held,
are the model's (log entries 30 and 6). So are the values after reset that the spec does not give, SPI, the last lane answer, what
the ports send, the slots begun and the marks of what is due among them (log entry 40), the empty inbox (9 and 40) and the queue
of waiting commands, which stands (1). -/
def Obligations.DeviceResets : Prop :=
  (∀ s : State,
    (s.pins.reset = false → ∃ straps u, exec (.deviceReset straps) s = .next u ∧
      exec .resetDevice s = .next (withAnswer u .ok .empty)) ∧
    (∃ t, exec .resetPinAsserted s = .next t ∧ t.pins = { s.pins with reset := true } ∧ t.req.spi = .allOnes ∧
      t.req = { s.req with spi := .allOnes } ∧ (∀ p, t.port p = { s.port p with wire := .nothing }) ∧
      changesOnly [.ports, .req, .pins] s t ∧ attn t = false ∧ triggerLines t = 0 ∧ ∀ l, laneNotice t l = false) ∧
    ∀ straps : BitVec 5, ∃ t, exec (.deviceReset straps) s = .next t ∧ t.req.strap = straps.toFin ∧
      t.req.config.frameId = straps.toFin ∧ t.req.config = { State.reset.req.config with frameId := straps.toFin } ∧
      t.req = { State.reset.req with strap := straps.toFin, config := t.req.config } ∧
      t.pins = { s.pins with straps := straps, reset := false, samplings := s.pins.samplings + 1 } ∧ changesOnly [.pending, .req, .pins] State.reset t ∧
      t.pending = s.pending) ∧
  (∀ (c : Instr) (s : State), s.pins.reset = true → (∀ straps, c ≠ .deviceReset straps) → c ≠ .resetPinAsserted →
    ∃ t, exec c s = .next t ∧ t = { s with req := { s.req with spi := t.req.spi } } ∧
      (t.req.spi = .allOnes ∨ (t = s ∧ transactionBytes c = none)) ∧
      attn t = false ∧ (∀ l, laneNotice t l = false) ∧ triggerLines t = 0)

/-- A taken request of wrong form is answered BAD_REQUEST and changes nothing; a transaction released before its request
is taken changes nothing at all and is sent nothing. A transaction released later is the same command, whatever bytes came after
its request. The part sends four all-ones bytes, the response, and all-ones bytes until the release, which cuts this off where
it comes. The model's: which choice bytes make a wrong form, that an abandoned transaction changes nothing whatever its bytes, and
that nothing is sent for it (log entries 26, 29 and 69). -/
def Obligations.WrongFormAnswered : Prop :=
  ∀ s : State, s.pins.reset = false →
    (∀ (kind : Byte) (f : List Byte), readRequest kind f = none →
      exec (.unknownRequestKind kind f) s = .next (withAnswer s .badRequest .empty)) ∧
    (∀ (kind : Byte) (f : List Byte), kind = 0 ∨ 29 < kind.toNat → readRequest kind f = none) ∧
    (∀ received : List Byte, exec (.transactionAbandoned received) s = .next s) ∧
    (∀ (sent : List Byte) (o : SpiOutput), requestEnd sent = none → o ≠ .allOnes →
      exec (transactionCommand sent) s = .next s ∧ spiReply sent o = []) ∧
    (∀ (kind len : Byte) (f more : List Byte) (r : Response), f.length = len.toNat →
      transactionCommand (kind :: len :: f ++ more) = (readRequest kind f).getD (.unknownRequestKind kind f) ∧
        spiReply (kind :: len :: f ++ more) (.response r) =
          (List.replicate 4 255 ++ responseBytes r).take more.length ++
            List.replicate (more.length - (4 + (responseBytes r).length)) 255) ∧
    ∀ (sent : List Byte), spiReply sent .allOnes = List.replicate sent.length 255

/-! ### Announces, election, change of timing -/

/-- The Frame Directory's own announce: with an own frame id, the serial advances, the restart count falls, the timer
is set to 256, and every port in UP or ADMITTED takes an ANNOUNCE of this frame with the new serial and hop count 0
into its flood queue; nothing else changes. With own frame id 0 nothing at all changes, the announce timer included (the model's
choice, log entry 60). A flood queue and an ANNOUNCE:
one queued for the same frame gives way to it in its place; otherwise it joins the tail; a full queue drops it.
Messages of other frames and other kinds stay where they are. -/
def Obligations.OwnAnnounceOffered : Prop :=
  (∀ s : State, (s.req.config.frameId = 0 → announceAdvancing s = s) ∧
    (s.req.config.frameId ≠ 0 →
      let t := announceAdvancing s
      let a : AnnounceMsg :=
        { frame := s.req.config.frameId, serial := s.dir.serial + 1, hops := 0, restart := decide (0 < s.dir.restartCount)
          departing := decide (s.swap.departure ≠ .inService)
          reference := s.time.refin.qualified && s.req.config.useReference
          priority := s.req.config.timingPriority, timing := s.time.state }
      t.dir = { s.dir with serial := s.dir.serial + 1, restartCount := s.dir.restartCount - 1, announceTimer := 256 } ∧
        (∀ p, t.port p =
          if (s.port p).state = .up ∨ (s.port p).state = .admitted then
            { s.port p with floodQueue := floodAnnounce a (s.port p).floodQueue }
          else s.port p) ∧ changesOnly [.ports, .dir] s t)) ∧
  (∀ (a : AnnounceMsg) (q : List Msg),
    ((∃ m ∈ q, announcedFrame m = some a.frame) →
      (floodAnnounce a q).length = q.length ∧
        ∀ (n : Nat) (m : Msg), q[n]? = some m →
          (floodAnnounce a q)[n]? = some (if announcedFrame m = some a.frame then Msg.announce a else m)) ∧
    ((∀ m ∈ q, announcedFrame m ≠ some a.frame) → q.length < 8 → floodAnnounce a q = q ++ [.announce a]) ∧
    ((∀ m ∈ q, announcedFrame m ≠ some a.frame) → 8 ≤ q.length → floodAnnounce a q = q))

/-- An evaluation of the election leaves no outcome to hand: evaluating again gives the result handed last. It leaves the
directory's entries, the REFIN qualification, the step count and every port's link as they were. That one evaluation may call
for another up to eight times is the model's bound, which no chain of them reaches (log entry 23). -/
def Obligations.EvaluateSettles : Prop := ∀ s : State, electionSettled (evaluate s) ∧ TimingEffects s (evaluate s)

/-- The election's winner where candidates of the first kind stand: a candidate that no other ranks before, that is, with
reference present before without, then lower priority, then lower frame id. -/
def Obligations.WinnerRanksFirst : Prop :=
  ∀ s : State, firstKind s ≠ [] →
    ∃ c ∈ firstKind s, winner s = c.result ∧ ∀ d ∈ firstKind s, ranksBefore d c = false

/-- A change of timing state that leaves the outcome of the election as it stands: the state is taken, the counts clear,
nothing is pending, the holdover timer is set on entry to HOLDOVER and stopped otherwise, TIMING is raised, and role, port and
result stand. Where LOCKED or HOLDOVER gives way to ACQUIRING or FREE, time is lost: every record that was PENDING, ACTIVE or
RETUNING is SUSPENDED with TIME_LOST, its slots are free, and a BREAK goes both ways. Otherwise records and sinks stand. -/
def Obligations.TimingStateChanges : Prop :=
  ∀ (x : TimingState) (s : State), s.time.state ≠ x → electionStands x s →
    (x = .holdover → s.req.config.holdoverLimit ≠ 0) →
    let t := changeTiming x s
    t.time = { s.time with
      state := x, counts := ⟨0, 0, 0, 0⟩, pending := none
      holdoverTimer := if x = .holdover then some s.req.config.holdoverLimit else none } ∧
      t.req.pending.get .timing = true ∧ TimingEffects s t ∧
      (timed s = true → (x = .acquiring ∨ x = .free) → RecordsInv s.streams.records → TimeLost s t) ∧
      (timed s = false ∨ x = .locked ∨ x = .holdover → t.streams = s.streams ∧ t.sinks = s.sinks)

/-- SET_CONFIG of TIMING_PRIORITY: a new value is stored, an own announce is sent and then the election evaluated, with no
other effect than theirs; the answer carries the value stored. The value it has changes nothing. SET_CONFIG of USE_REFERENCE and the qualification of
REFIN: the value, or the flag with its run counts at 0, is taken; a change of reference present raises TIMING, sends an
own announce and evaluates the election, and without one nothing else changes. That the announce comes before the election, and
that a qualification is taken from counts that stand at their ends, are the model's (log entries 50 and 3). -/
def Obligations.PriorityAndReferenceTaken : Prop :=
  (∀ (s : State) (v : BitVec 16), s.pins.reset = false →
    (min v.toNat 15 = s.req.config.timingPriority →
      exec (.setConfigTimingPriority v) s = .next (withAnswer s .ok (.value (BitVec.ofNat 16 (min v.toNat 15))))) ∧
    (min v.toNat 15 ≠ s.req.config.timingPriority →
      let u := announceAdvancing (s.setConfig { s.req.config with timingPriority := min v.toNat 15 })
      exec (.setConfigTimingPriority v) s =
          .next (withAnswer (evaluate u) .ok (.value (BitVec.ofNat 16 (min v.toNat 15)))) ∧
        electionSettled (evaluate u) ∧ TimingEffects u (evaluate u))) ∧
  (∀ s : State, s.pins.reset = false →
    (∀ v : BitVec 16,
      let u := s.setConfig { s.req.config with useReference := decide (v ≠ 0) }
      let w := announceAdvancing (raise .timing u)
      (referencePresent u = referencePresent s →
        exec (.setConfigUseReference v) s = .next (withAnswer u .ok (.value (if v = 0 then 0 else 1)))) ∧
      (referencePresent u ≠ referencePresent s →
        exec (.setConfigUseReference v) s = .next (withAnswer (evaluate w) .ok (.value (if v = 0 then 0 else 1))) ∧
          electionSettled (evaluate w) ∧ TimingEffects w (evaluate w))) ∧
    (∀ flag : Bool,
      (if flag then s.time.refin.qualified = false ∧ 32 ≤ s.time.refin.present
        else s.time.refin.qualified = true ∧ 4 ≤ s.time.refin.absent) →
      let u := { s with time := { s.time with refin := ⟨flag, 0, 0⟩ } }
      let w := announceAdvancing (raise .timing u)
      (s.req.config.useReference = false → exec (if flag then .refinQualified else .refinUnqualified) s = .next u) ∧
      (s.req.config.useReference = true →
        exec (if flag then .refinQualified else .refinUnqualified) s = .next (evaluate w) ∧
          electionSettled (evaluate w) ∧ TimingEffects w (evaluate w))))

/-! ### Ports, departure, own frame id, restart -/

/-- The five causes of a port reset, each in the states its rule lists, and what they leave; PRESENCE_LOST first clears
the presence flag and counts, RESET_PORT answers with the state after; symbol errors past the sixteenth are counted in
TRAINING, after the reset, and the mark that a marker was accepted in the epoch stays (the model's choices, log entry 39). A
count of missed markers that did not reach 4 in such a state resets nothing, and a delay jump
found before the port entered its state leaves the port as it is: in DRAINING with its delay record OPEN again, elsewhere with the jump count
at 0. The empty answer for a port in DOWN is the model's choice (log entry 25), and counts stand at their ends, with the
model's own marks of what is due, and a MARKER_LOSS capture carries the epoch in which that command is taken (log entries 3 and
49). The record of slots begun, which stays, is the model's (log entry 10), and so is the order of the blocks in a port reset,
which lets a loss of time come before the Stream Table's report (log entry 24). -/
def Obligations.PortResetCauses : Prop :=
  ∀ (s : State) (p : PortId), s.pins.reset = false →
    (∀ b : Byte, b.toNat = p.val → (s.port p).state ≠ .down →
      ∃ t, exec (.resetPort b) s = .next (withAnswer t .ok (.portState (freshPort (s.port p)).state)) ∧
        PortResetEffects p .resetPort (.portState (s.port p).state) s t) ∧
    (∀ b : Byte, b.toNat = p.val → (s.port p).state = .down →
      exec (.resetPort b) s = .next (withAnswer s .ok .empty)) ∧
    (∀ b : Byte, 5 < b.toNat → exec (.resetPort b) s = .next (withAnswer s .badArgument .empty)) ∧
    ((s.port p).state ≠ .down → (s.port p).presence.qualified = true → 4 ≤ (s.port p).presence.absent →
      ∃ t, exec (.presenceLost p) s = .next t ∧
        PortResetEffects p .presenceLost (.portState (s.port p).state)
          (s.setPort p { s.port p with presence := ⟨false, 0, 0⟩ }) t) ∧
    ((s.port p).state ∈ [.probing, .up, .admitted, .draining] → (s.port p).lossDue = true →
      ∃ t, exec (.markerLoss p) s = .next t ∧ PortResetEffects p .markerLoss (.portState (s.port p).state) s t) ∧
    ((s.port p).state ∈ [.down, .training, .fault] ∨ (s.port p).lossDue = false →
      exec (.markerLoss p) s = .next (s.setPort p { s.port p with lossDue := false })) ∧
    (∀ n, (s.port p).state ∈ [.probing, .up, .admitted, .draining, .fault] → (s.port p).symbolErrors < 16 →
      16 ≤ (s.port p).symbolErrors + n →
      ∃ u, exec (.symbolBurst p n) s = .next (u.setPort p
          { u.port p with
            symbolErrors := if (s.port p).presence.qualified then (s.port p).symbolErrors + n - 16 else 0 }) ∧
        PortResetEffects p .symbolBurst (.portState (s.port p).state) s u) ∧
    ∀ w d16 n, (s.port p).delay = .valid w d16 n → 8 ≤ n →
      ((s.port p).state ∈ [.up, .admitted] → (s.port p).jumpStands = true →
        ∃ t, exec (.delayJump p) s = .next t ∧
          PortResetEffects p .delayJump (.jump (s.port p).state (reportedDelay d16)) s t) ∧
      ((s.port p).state = .draining →
        let u := s.setPort p { s.port p with delay := .sampling [], jumpStands := false }
        ∃ t, exec (.delayJump p) s = .next t ∧ TimingEffects u t ∧ (s.time.port ≠ some p → t = u)) ∧
      ((s.port p).state ≠ .draining →
        ((s.port p).state ∉ [.up, .admitted] ∨ (s.port p).jumpStands = false) →
        exec (.delayJump p) s = .next (s.setPort p { s.port p with delay := .valid w d16 0, jumpStands := false }))

/-- DEPART and CANCEL_DEPART: the departure state and the drain timer change, a PORT notice and an own announce follow,
the election is evaluated, and there is no other effect; a count of 0 ends the drain in the same event; CANCEL_DEPART puts
DRAINING ports back in ADMITTED, before the announce, and in both the announce comes before the election (the model's choices,
log entries 66 and 50). DEPART while departing is BUSY, CANCEL_DEPART in service is OK, and neither changes
anything. The end of the drain: DRAINED with a PORT notice; every record in service SUSPENDED with DEPARTING, with its slots
free and its RELEASE or BREAKs sent while its ports were ADMITTED; every ADMITTED port in DRAINING; floods, timing and
directory stand. The drain timer stands at its end, and a change of a port's state drops the mark of a delay jump (the model's
choices, log entries 3 and 49). -/
def Obligations.DepartureRuns : Prop :=
  let ends (s t : State) : Prop :=
    t.swap = { s.swap with departure := .drained } ∧ t.req.pending.get .port = true ∧ noticesOnly s t ∧
      (RecordsInv s.streams.records → DrainEnded s t) ∧
      (∀ p, (t.port p).floodQueue = (s.port p).floodQueue ∧
        sameLink
          (if (s.port p).state = .admitted then { s.port p with state := .draining, reason := none, jumpStands := false }
          else s.port p)
          (t.port p)) ∧
      changesOnly [.ports, .swap, .streams, .sinks, .captures, .req] s t
  (∀ s : State, s.pins.reset = false →
    (∀ count : Option (BitVec 16), s.swap.departure ≠ .inService →
      exec (.depart count) s = .next (withAnswer s .busy .empty)) ∧
    (∀ (count : Option (BitVec 16)) (m : Nat), s.swap.departure = .inService →
      m = (match count with | some n => n.toNat | none => s.req.config.drainDefault) →
      let u := announceAdvancing (raise .port { s with swap := ⟨.departing, m⟩ })
      electionSettled (evaluate u) ∧ TimingEffects u (evaluate u) ∧
        (m ≠ 0 → exec (.depart count) s = .next (withAnswer (evaluate u) .ok .empty)) ∧
        (m = 0 → ∃ t, exec (.depart count) s = .next (withAnswer t .ok .empty) ∧ ends (evaluate u) t)) ∧
    (s.swap.departure = .inService → exec .cancelDepart s = .next (withAnswer s .ok .empty)) ∧
    (s.swap.departure ≠ .inService →
      let u := announceAdvancing (raise .port
        { s with
          swap := { s.swap with departure := .inService }
          ports := s.ports.map fun x =>
            if x.state = .draining then { x with state := .admitted, reason := none, jumpStands := false } else x })
      exec .cancelDepart s = .next (withAnswer (evaluate u) .ok .empty) ∧ electionSettled (evaluate u) ∧
        TimingEffects u (evaluate u))) ∧
  (∀ s : State, s.pins.reset = false → s.swap.departure = .departing → s.swap.drainTimer = 0 →
    ∃ t, exec .drainEnd s = .next t ∧ ends s t)

/-- SET_CONFIG of FRAME_ID: BUSY with a port ADMITTED, or for the value 0 with a port DRAINING; the id it has changes
nothing; a new one is stored, the ports are examined against it, its directory entry goes, and the election is evaluated.
BUSY for the id it has is the model's reading (log entry 28). -/
def Obligations.FrameIdTaken : Prop :=
  ∀ (s : State) (v : BitVec 16) (f : FrameId), s.pins.reset = false → f.val = min v.toNat 31 →
    ((∃ p, (s.port p).state = .admitted) ∨ (f = 0 ∧ ∃ p, (s.port p).state = .draining) →
      exec (.setConfigFrameId v) s = .next (withAnswer s .busy .empty)) ∧
    ((∀ p, (s.port p).state ≠ .admitted) → (f = 0 → ∀ p, (s.port p).state ≠ .draining) → f = s.req.config.frameId →
      exec (.setConfigFrameId v) s = .next (withAnswer s .ok (.value (BitVec.ofNat 16 f.val)))) ∧
    ((∀ p, (s.port p).state ≠ .admitted) → (f = 0 → ∀ p, (s.port p).state ≠ .draining) → f ≠ s.req.config.frameId →
      ∃ t, exec (.setConfigFrameId v) s = .next (withAnswer t .ok (.value (BitVec.ofNat 16 f.val))) ∧ electionSettled t ∧
        t.req = { s.req with config := { s.req.config with frameId := f }, pending := t.req.pending } ∧
        (∀ e ∈ t.dir.entries, e.frame ≠ f) ∧
        (∀ p, ((s.port p).state = .up ∨ (s.port p).state = .draining) → f ≠ 0 → neighbourFrame s p = some f →
          (t.port p).state = .fault ∧ (t.port p).reason = some .idConflict) ∧
        (∀ p, (s.port p).state = .up → (f = 0 ∨ neighbourFrame s p ≠ some f) →
          (t.port p).state = .up ∧ (t.port p).announceSeen = false ∧
            (t.port p).reason = if f = 0 ∨ (neighbourFrame s p).getD 0 = 0 then some .noId else none) ∧
        (∀ p, (s.port p).state = .fault → (s.port p).reason = some .idConflict → neighbourFrame s p ≠ some f →
          (t.port p).state = .up ∧ (t.port p).announceSeen = false) ∧
        (∀ p, (s.port p).state ∈ [.down, .training, .probing] →
          sameLink (s.port p) (t.port p) ∧ queuesKept (s.port p) (t.port p)) ∧
        changesOnly [.ports, .time, .dir, .streams, .sinks, .captures, .req] s t)

/-- RESTART_TIMING is answered OK: a step is counted and reported, so that TIMING and TRIGGER stand raised and no trigger
stays ARMED; counts and pending adjustment are cleared, and role and timing port are those of the result that then stands. A
part that was not FREE with itself as master stands LOCKED where that result is this part and FREE otherwise, its holdover
timer stopped; where it was LOCKED or in HOLDOVER, time is lost: every record in service is SUSPENDED with TIME_LOST, its slots
free and a BREAK sent both ways; otherwise the records stand. TRIGGER raised with no trigger ARMED, and the order of the parts, are the model's reading (log entries 13 and 22). -/
def Obligations.TimingRestarts : Prop :=
  ∀ s : State, s.pins.reset = false →
    ∃ t, exec .restartTiming s = .next (withAnswer t .ok .empty) ∧
      t.time.stepCount = min 65535 (s.time.stepCount + 1) ∧ t.req.pending.get .timing = true ∧
      t.req.pending.get .trigger = true ∧ (∀ e ∈ t.trig.table, e.state ≠ .armed) ∧ t.time.counts = ⟨0, 0, 0, 0⟩ ∧
      t.time.pending = none ∧ (t.time.role, t.time.port) = roleOf t.time.result ∧ t.dir.entries = s.dir.entries ∧
      t.time.refin = s.time.refin ∧
      ((s.time.state = .free → s.time.result ≠ .thisPart) →
        t.time.state = (if t.time.result = .thisPart then .locked else .free) ∧ t.time.holdoverTimer = none ∧
          (timed s = true → RecordsInv s.streams.records → TimeLost s t) ∧ (timed s = false → t.streams = s.streams)) ∧
      (∀ p, sameLink (s.port p) (t.port p)) ∧ noticesOnly s t ∧
      changesOnly [.ports, .time, .dir, .trig, .streams, .sinks, .captures, .req] s t

/-! ### Requests on streams and sinks -/

/-- Assigning n slots of a port to a record, where n entries of 2..U + 1 are free: the record gains exactly n slots,
each of them free before and within 2..U + 1, no free one below a taken one is left, and every other entry stays. Slots
kept: of the entries that name a record, the k lowest stay; every other entry stays. -/
def Obligations.SlotsAssignedAndKept : Prop :=
  (∀ (n i u : Nat) (m : List SlotEntry), n ≤ (freeSlots u m).length →
    (assignIn n i u m).length = m.length + n ∧ (slotsNaming i (assignIn n i u m)).length = (slotsNaming i m).length + n ∧
      (∀ e ∈ m, e ∈ assignIn n i u m) ∧
      (∀ e ∈ assignIn n i u m, e ∉ m → e.record = i ∧ 2 ≤ e.slot ∧ e.slot ≤ u + 1 ∧ e.slot ∈ freeSlots u m) ∧
      ∀ e ∈ assignIn n i u m, e ∉ m → ∀ k ∈ freeSlots u m, k < e.slot → ⟨k, i⟩ ∈ assignIn n i u m) ∧
  (∀ (k i : Nat) (m : List SlotEntry),
    slotsNaming i (keepSlots k i m) = (slotsNaming i m).take k ∧
      (keepSlots k i m).filter (fun e => e.record != i) = m.filter (fun e => e.record != i) ∧ (keepSlots k i m).Sublist m)

/-- OPEN_STREAM that passes its checks. Toward the own frame: a LOOPBACK record at the lowest free index, ACTIVE at once with
the next activation order. Toward another frame with a route over p: an ORIGIN record, PENDING with its setup timer at 512,
its C slots assigned on p, and a SETUP at the tail of p's protocol queue, which has room. Both carry the demand of the rate and
the sample size, and the reroute flag that the choice byte names, 0 clear and 1 set (the model's reading, log entry 26); the
answer names the record, whose expected sequence is absent (log entry 58); other ports, other records and everything else stand. -/
def Obligations.StreamOpens : Prop :=
  ∀ (s : State) (lane terminal : Byte) (rate : BitVec 32) (size budget : Byte) (limit : Option (BitVec 16)) (reroute : Byte)
    (l : LaneId) (f : FrameId) (i : Nat), s.pins.reset = false → lane.toNat = l.val → terminal.toNat = f.val → f ≠ 0 →
    1 ≤ rate.toNat → rate.toNat ≤ 1000000000 → size.toNat ∈ sampleSizes → 2 ≤ budget.toNat → budget.toNat ≤ 32 →
    limit ≠ some 0 → reroute.toNat ≤ 1 → (laneOrigins s l).length < 8 → freeIndex s = some i → timed s = true →
    s.swap.departure = .inService → demand rate.toNat size.toNat ≤ 60 →
    let id := streamIdOf s.req.config.frameId (nextStreamSerial s)
    let c := demand rate.toNat size.toNat
    let made (egress : Option PortId) :=
      originRecord i id l f rate.toNat size.toNat budget.toNat
        (match limit with | some n => n.toNat | none => s.req.config.suspendDefault) (decide (reroute = 1)) egress
        s.streams.activations
    (f = s.req.config.frameId →
      ∃ t, exec (.openStream lane terminal rate size budget limit reroute) s =
          .next (withAnswer t .ok (.opened id i c .active none)) ∧
        t.streams = ⟨insertRecord (made none) s.streams.records, nextStreamSerial s, s.streams.activations + 1⟩ ∧
        recordAt t i = some (made none) ∧ (made none).state = .active ∧ (made none).role = .loopback ∧
        (made none).setupTimer = none ∧ (made none).activation = some s.streams.activations ∧ changesOnly [.streams] s t) ∧
    (∀ (p : PortId) (d : Nat), routeTo s f = .route p d → d + 1 ≤ budget.toNat →
      c + (s.port p).slotMap.length ≤ usableCount (s.port p).delay → (s.port p).protocolQueue.length < 16 →
      ∃ t, exec (.openStream lane terminal rate size budget limit reroute) s =
          .next (withAnswer t .ok (.opened id i c .pending none)) ∧
        t.streams = ⟨insertRecord (made (some p)) s.streams.records, nextStreamSerial s, s.streams.activations⟩ ∧
        recordAt t i = some (made (some p)) ∧ (made (some p)).state = .pending ∧ (made (some p)).role = .origin ∧
        (made (some p)).setupTimer = some 512 ∧ (made (some p)).activation = none ∧
        t.port p =
          { s.port p with
            slotMap := assignIn c i (usableCount (s.port p).delay) (s.port p).slotMap
            protocolQueue := (s.port p).protocolQueue ++
              [.setup { id := id, gen := 0, terminal := f, hop := 0, rate := rate, sampleBytes := size
                        cells := BitVec.ofNat 8 c, budget := budget }] } ∧
        otherPortsKept p s t ∧ changesOnly [.ports, .streams] s t)

/-- CLOSE_STREAM of an origin record: unless CLOSED, a RELEASE is offered on its egress port; then the record, its
index entry, its sinks and its slots are gone, with a STREAM notice. NOT_FOUND and NOT_ORIGIN change nothing.
CLEAR_STREAMS: no record, sink or slot is left; the answer counts the records; the serial counter and the activation
count stand, and so do the ports' links and floods. -/
def Obligations.StreamsCloseAndClear : Prop :=
  (∀ (s : State) (id : StreamId), s.pins.reset = false →
    (recordOf s id = none → exec (.closeStream id) s = .next (withAnswer s .notFound .empty)) ∧
    (∀ r, recordOf s id = some r → isOrigin r = false →
      exec (.closeStream id) s =
        .next { s with req := { s.req with spi := .response ⟨.refused, some .notOrigin, .empty⟩ } }) ∧
    ∀ r, RecordsInv s.streams.records → recordOf s id = some r → isOrigin r = true →
      ∃ t, exec (.closeStream id) s = .next (withAnswer t .ok .empty) ∧ recordAt t r.index = none ∧
        otherRecordsKept r.index s t ∧ t.sinks = s.sinks.filter (fun x => !r.sinks.contains x.index) ∧
        t.req.pending.get .stream = true ∧ StreamEffects s t ∧
        (∀ q, r.egress ≠ some q → t.port q = s.port q) ∧
        ∀ p, r.egress = some p →
          (t.port p).slotMap = (s.port p).slotMap.filter (fun e => e.record != r.index) ∧
          (t.port p).floodQueue = (s.port p).floodQueue ∧
          (t.port p).protocolQueue =
            if r.state ≠ .closed ∧ takesOffers (s.port p).state = true ∧ (s.port p).protocolQueue.length < 20 then
              (s.port p).protocolQueue ++ [.release r.id r.gen]
            else (s.port p).protocolQueue) ∧
  (∀ s : State, s.pins.reset = false →
    ∃ t, exec .clearStreams s = .next (withAnswer t .ok (.removed s.streams.records.length)) ∧
      t.streams = { s.streams with records := [] } ∧ t.sinks = [] ∧ (∀ p, (t.port p).slotMap = []) ∧
      (∀ p, (t.port p).floodQueue = (s.port p).floodQueue) ∧ t.req.pending.get .stream = true ∧
      (s.sinks ≠ [] → t.req.pending.get .sink = true) ∧ StreamEffects s t)

/-- RETUNE_STREAM begun at an ACTIVE origin: RETUNING with the new demand staged and C and rate as they were. With an egress
port p: the retune timer at 512, the extra slots assigned on p, and a RETUNE at the tail of its protocol queue. At a loopback:
the switch epoch two epochs on. The answer carries the new C. Other records stand. -/
def Obligations.RetuneBegins : Prop :=
  ∀ (s : State) (id : StreamId) (rate : BitVec 32) (r : StreamRecord), s.pins.reset = false →
    RecordsInv s.streams.records → recordOf s id = some r → isOrigin r = true → r.state = .active →
    settlePending s r = false → s.swap.departure = .inService → 1 ≤ rate.toNat → rate.toNat ≤ 1000000000 →
    demand rate.toNat r.sampleBytes ≤ 60 → poolAdmits s r (max r.cells (demand rate.toNat r.sampleBytes)) = true →
    let c := demand rate.toNat r.sampleBytes
    (r.egress = none →
      ∃ t, exec (.retuneStream id rate) s = .next (withAnswer t .ok (.retuned c .retuning)) ∧
        recordAt t r.index = some { r with
          state := .retuning, staged := some ⟨c, rate.toNat⟩, switchEpoch := some (s.clock.epoch + 2), retuneTimer := none
          changed := true } ∧
        otherRecordsKept r.index s t ∧ t.ports = s.ports ∧ StreamEffects s t ∧ t.req.pending.get .stream = true) ∧
    (∀ p, r.egress = some p → c - r.cells + (s.port p).slotMap.length ≤ usableCount (s.port p).delay →
      takesOffers (s.port p).state = true → (s.port p).protocolQueue.length < 16 →
      ∃ t, exec (.retuneStream id rate) s = .next (withAnswer t .ok (.retuned c .retuning)) ∧
        recordAt t r.index = some { r with
          state := .retuning, staged := some ⟨c, rate.toNat⟩, switchEpoch := none, retuneTimer := some 512
          changed := true } ∧
        otherRecordsKept r.index s t ∧ otherPortsKept p s t ∧ StreamEffects s t ∧ t.req.pending.get .stream = true ∧
        t.port p =
          { s.port p with
            slotMap := assignIn (c - r.cells) r.index (usableCount (s.port p).delay) (s.port p).slotMap
            protocolQueue := (s.port p).protocolQueue ++ [.retune r.id r.gen rate (BitVec.ofNat 8 c)] })

/-- ATTACH_SINK that passes its checks: a sink at the lowest free index with the values of its rule, at the tail of its
record's list; the answer carries the index and the reservation C × (B − j + 1); a start that can no longer come is LOST, with
a SINK notice. Bits 15 to 13 of the start's trigger id are not read (the model's reading, log entry 21). -/
def Obligations.SinkAttaches : Prop :=
  ∀ (s : State) (id : StreamId) (lane mode : Byte) (block : BitVec 16) (threshold : Byte) (start : Option (BitVec 16))
    (l : LaneId) (m : SinkMode) (r : StreamRecord) (k : Nat), s.pins.reset = false → lane.toNat = l.val →
    mode.toNat = (match m with | .continuous => 0 | .paced => 1 | .single => 2) → 1 ≤ block.toNat → block.toNat ≤ 4096 →
    (start.isSome = true → m = .single) → recordOf s id = some r → r.state = .active → settlePending s r = false →
    (∀ x ∈ s.sinks, x.record = r.index → x.lane ≠ l) → r.sinks.length < 4 → (sinksOnLane s l).length < 8 →
    freeSink s = some k → reservedCells s + r.cells * (r.budget + 1 - r.hop) ≤ 4096 →
    let begun : Option SinkStart :=
      if m = .single then
        match start with
        | none => some .first
        | some n =>
          if (triggerAt s (triggerIdOf n)).any canStart then some (.trigger (triggerIdOf n)) else some .lost
      else none
    let x : Sink :=
      { index := k, record := r.index, stream := r.id, lane := l, hop := r.hop, mode := m, blockSize := block.toNat
        threshold := max 1 (min threshold.toNat 64), start := begun
        state := if m = .single then .waiting else .running, done := false, overrun := false, held := [], released := []
        reservation := r.cells * (r.budget + 1 - r.hop), settle := none, lateCount := 0, gapCount := 0, blockStart := none
        expected := none }
    ∃ t, exec (.attachSink id lane mode block threshold start) s = .next (withAnswer t .ok (.attached k x.reservation)) ∧
      t.sinks = insertSink x s.sinks ∧ recordBecomes r.index (fun r => { r with sinks := r.sinks ++ [k] }) s t ∧
      noticesSet (if begun = some .lost then [.sink] else []) s t ∧ changesOnly [.streams, .sinks, .req] s t

/-- DETACH_SINK takes the sink, its cells and its place in the record's list away and raises no notice; ARM_SINK of a SINGLE
sink discards its held cells and makes it WAITING for its new start, with everything else of it kept. Bits 15 to 13 of the start's
trigger id are not read (the model's reading, log entry 21). -/
def Obligations.SinkDetachesAndArms : Prop :=
  ∀ (s : State) (b : Byte), s.pins.reset = false → b.toNat ≤ 63 →
    (∀ x, sinkAt s b.toNat = some x →
      exec (.detachSink b) s = .next (withAnswer
        { s with
          sinks := s.sinks.filter fun x => x.index != b.toNat
          streams := { s.streams with
            records := s.streams.records.map fun r => { r with sinks := r.sinks.filter fun j => j != b.toNat } } }
        .ok .empty)) ∧
    (sinkAt s b.toNat = none →
      (exec (.detachSink b) s = .next (withAnswer s .notFound .empty) ∧
        ∀ start, exec (.armSink b start) s = .next (withAnswer s .notFound .empty))) ∧
    (∀ x start, sinkAt s b.toNat = some x → x.mode ≠ .single →
      exec (.armSink b start) s = .next (withAnswer s .busy .empty)) ∧
    ∀ (x : Sink) (start : Option (BitVec 16)), sinkAt s b.toNat = some x → x.mode = .single →
      let begun : SinkStart :=
        match start with
        | none => .first
        | some n => if (triggerAt s (triggerIdOf n)).any canStart then .trigger (triggerIdOf n) else .lost
      ∃ t, exec (.armSink b start) s = .next (withAnswer t .ok .empty) ∧
        sinkBecomes b.toNat (fun x => { x with held := [], state := .waiting, start := some begun, blockStart := none }) s t ∧
        noticesSet (if begun = .lost then [.sink] else []) s t ∧ changesOnly [.sinks, .req] s t

/-! ### Requests on triggers -/

/-- SCHEDULE_TRIGGER that passes its checks, with room in the table: an ARMED entry under the next id at its place in fire
order, the answer with the id and the fire epoch, and a TRIGGER at the tail of every ADMITTED port's flood queue that has
room. With the lead, the fire epoch is the current one plus the lead. No other port and no other entry changes, and
TRIGGER is not raised. That TRIGGER is not raised is the model's reading (log entry 14); so is the place where the fire times
held have no ascending order (log entry 67). -/
def Obligations.TriggerScheduled : Prop :=
  ∀ (s : State) (channel : Byte) (tick : BitVec 16) (w : FireWhen) (e : Epoch), s.pins.reset = false →
    channel.toNat ≤ 7 → tick.toNat ≤ 8191 → s.req.config.frameId ≠ 0 → timed s = true →
    (w = .epoch e ∨ ∃ n, w = .lead n ∧ e = s.clock.epoch + n.setWidth 48) → 32 ≤ (e - s.clock.epoch).toNat →
    (e - s.clock.epoch).toNat ≤ 65535 → s.trig.table.length < 32 →
    let id : TriggerId := ⟨s.req.config.frameId, nextTriggerSerial s⟩
    let fire : RackTime := ⟨e, tick.toNat⟩
    ∃ t, exec (.scheduleTrigger channel tick w) s = .next (withAnswer t .ok (.scheduled id e)) ∧
      t.trig = { s.trig with
        serial := nextTriggerSerial s, table := insertBy entryBefore ⟨id, fire, channel.toNat, .armed⟩ s.trig.table } ∧
      (∀ p, t.port p =
        if (s.port p).state = .admitted ∧ (s.port p).floodQueue.length < 8 then
          { s.port p with floodQueue := (s.port p).floodQueue ++ [.trigger ⟨id, fire, channel.toNat⟩] }
        else s.port p) ∧
      noticesOnly s t ∧ t.req.pending.get .trigger = s.req.pending.get .trigger ∧
      changesOnly [.ports, .trig, .captures, .req] s t

/-- CANCEL_TRIGGER and CANCEL of an ARMED entry: it becomes CANCELLED, TRIGGER is raised, sinks that wait for it have lost
their start, and a CANCEL goes to the flood queue of every ADMITTED port, but for the one a CANCEL came by. CANCEL_TRIGGER
of an id that the table does not hold is NOT_FOUND, of an entry in another state BUSY with that state; a CANCEL is then
ignored. A CANCEL leaves the model's inbox, and bits 15 to 13 of the id in CANCEL_TRIGGER are not read (the model's, log entries 9
and 21). -/
def Obligations.TriggerCancelled : Prop :=
  ∀ (s : State) (id : TriggerId), s.pins.reset = false →
    let done (t : State) (from_ : Option PortId) : Prop :=
      t.trig = { s.trig with table := s.trig.table.map fun e => if e.id = id then { e with state := .cancelled } else e } ∧
      (t.sinks = s.sinks.map fun x =>
        if x.state = .waiting ∧ x.start = some (.trigger id) then { x with start := some .lost } else x) ∧
      t.req.pending.get .trigger = true ∧ noticesOnly s t ∧
      (∀ p, t.port p =
        if (s.port p).state = .admitted ∧ from_ ≠ some p ∧ (s.port p).floodQueue.length < 8 then
          { s.port p with floodQueue := (s.port p).floodQueue ++ [.cancel id] }
        else s.port p)
    (∀ bits : BitVec 16, triggerIdOf bits = id →
      (triggerAt s id = none → exec (.cancelTrigger bits) s = .next (withAnswer s .notFound .empty)) ∧
      (∀ e, triggerAt s id = some e → e.state ≠ .armed →
        exec (.cancelTrigger bits) s = .next (withAnswer s .busy (.triggerState e.state))) ∧
      ∀ e, triggerAt s id = some e → e.state = .armed →
        ∃ t, exec (.cancelTrigger bits) s = .next (withAnswer t .ok .empty) ∧ done t none ∧
          changesOnly [.ports, .trig, .sinks, .captures, .req] s t) ∧
    ∀ q : PortId,
      ((∀ e, triggerAt s id = some e → e.state ≠ .armed) → exec (.cancel q id) s = .next (takeMessage q (.cancel id) s)) ∧
      ∀ e, triggerAt s id = some e → e.state = .armed →
        ∃ t, exec (.cancel q id) s = .next t ∧ done t (some q) ∧ t.inbox = s.inbox.erase ⟨q, .cancel id⟩ ∧
          changesOnly [.inbox, .ports, .trig, .sinks, .captures, .req] s t

/-- ARM_INPUT gives the input its lead, channel and mode with no hold-off; DISARM_INPUT disarms it; the ignored-edge count
and everything else stand. Values out of range are BAD_ARGUMENT. BAD_ARGUMENT for a mode above 1 is the model's reading
(log entry 26). -/
def Obligations.InputsArmed : Prop :=
  ∀ (s : State) (b : Byte) (lead : BitVec 16) (channel mode : Byte), s.pins.reset = false →
    (∀ (i : InputId) (a : Arm), b.toNat = i.val → 32 ≤ lead.toNat → channel.toNat ≤ 7 →
      (mode = 0 ∧ a = .oneShot lead.toNat channel.toNat ∨ mode = 1 ∧ a = .repeated lead.toNat channel.toNat none) →
      exec (.armInput b lead channel mode) s = .next (withAnswer
        { s with trig := { s.trig with inputs := s.trig.inputs.set i ⟨a, (s.trig.inputs.get i).ignored⟩ } } .ok .empty)) ∧
    (3 < b.toNat ∨ lead.toNat < 32 ∨ 7 < channel.toNat ∨ 1 < mode.toNat →
      exec (.armInput b lead channel mode) s = .next (withAnswer s .badArgument .empty)) ∧
    (∀ i : InputId, b.toNat = i.val →
      exec (.disarmInput b) s = .next (withAnswer
        { s with trig := { s.trig with inputs := s.trig.inputs.set i ⟨.disarmed, (s.trig.inputs.get i).ignored⟩ } } .ok
        .empty)) ∧
    (3 < b.toNat → exec (.disarmInput b) s = .next (withAnswer s .badArgument .empty))

/-! ### The clock -/

/-- The gap begins at tick 7936: 256 ticks with nothing pending, 256 + c with a correction, and with a step the least
whole number k of periods such that u + 8192 k is at least 7936, whose gap ends at the master's epoch start; what was
pending is cleared. The model's choices: the command brings the clock to tick 7936, also where the stepped gap has length 0 and the
epoch has no such tick (log entries 5 and 54), and the record of slots begun is at its end (10); what time does on the way is
firings alone. -/
def Obligations.GapBegins : Prop :=
  ∀ s : State, s.pins.reset = false → s.clock.gap = none → s.clock.tick ≤ 7936 →
    ∃ t u g, exec .gapStart s = .next t ∧ TimePasses (7936 - s.clock.tick) s u ∧
      t = { u with
        clock := { s.clock with
          tick := 7936, stamp := s.clock.stamp + BitVec.ofNat 24 (7936 - s.clock.tick), gap := some g }
        time := { s.time with pending := none }
        ports := s.ports.map fun x => { x with nextSlot := 62, wire := quietWire x.state } } ∧
      (s.time.pending = none → g = ⟨256, none⟩) ∧
      (∀ c : Int, s.time.pending = some (.correction c) → -4 ≤ c → c ≤ 4 → (g.length : Int) = 256 + c ∧ g.step = none) ∧
      (∀ (start : Int) (n : Epoch), s.time.pending = some (.step start n) →
        ∃ k : Int, 7936 ≤ start + 8192 * k ∧ start + 8192 * (k - 1) < 7936 ∧ (g.length : Int) = start + 8192 * k - 7936 ∧
          g.length ≤ 8191 ∧ g.step = some (n + BitVec.ofInt 48 k))

/-- The next epoch begins: the epoch number is one on (or, after a gap that carries a step, the number fixed with it),
tick 0; the stamp count has run on by the ticks that were left; every record's timers, the drain timer of a departing
frame, the announce, hold and holdover timers have fallen by one, down to 0, with a mark where the announce timer is there; the
ages of entries that are not LOST have risen by one, up to 1024; each port has taken its presence
sample; the REFIN activity of the epoch has been sampled; a count of missed markers that reaches 4 in PROBING, UP, ADMITTED or
DRAINING is marked; no ARMED trigger is behind the counter; where none was reached, entries and dropped notes that are no
longer retained leave, and the others stand. Links and slot maps
stand. Where the gap has not begun, it begins first. The end of a gap that carries a step: the counter takes the number fixed with it, the step is counted,
TIMING and TRIGGER are raised, and no trigger stays ARMED. A gap without a step gives nothing. The model's choices: the
command lets the rest of the epoch pass, a timer stops at its end, either command takes a step, TRIGGER is raised with no
trigger ARMED, the marks, the slots of a port that begin anew, the step before all else, an epoch turned from tick 7936 where the
gap has length 0, and an entry or note exactly half the span past, which leaves (log entries 5, 3, 12, 13, 49, 10, 11, 54 and
71). -/
def Obligations.EpochTurns : Prop :=
  let fallen (s t : State) : Prop :=
    t.streams = { s.streams with records := s.streams.records.map fun r =>
      { r with
        setupTimer := r.setupTimer.map (· - 1), retuneTimer := r.retuneTimer.map (· - 1)
        suspendTimer := r.suspendTimer.map (· - 1), rerouteTimer := r.rerouteTimer.map (· - 1) } } ∧
      t.swap = { s.swap with
        drainTimer := if s.swap.departure = .departing then s.swap.drainTimer - 1 else s.swap.drainTimer } ∧
      t.dir = { s.dir with
        entries := s.dir.entries.map fun e => { e with age := if e.state = .lost then e.age else min 1024 (e.age + 1) }
        announceTimer := s.dir.announceTimer - 1, announceDue := s.dir.announceDue || decide (s.dir.announceTimer ≤ 1)
        hold := s.dir.hold.map fun h => { h with timer := h.timer - 1 } } ∧
      t.time.holdoverTimer = s.time.holdoverTimer.map (· - 1)
  (∀ (s : State) (presence : BitVec 6) (refin : Bool) (g : Gap), s.pins.reset = false → s.clock.gap = some g →
    ∃ t, exec (.localEpochStart presence refin) s = .next t ∧ t.clock.epoch = g.step.getD (s.clock.epoch + 1) ∧
      t.clock.tick = 0 ∧ t.clock.gap = none ∧
      t.clock.stamp = s.clock.stamp + BitVec.ofNat 24 (7936 + g.length - s.clock.tick) ∧
      fallen s t ∧ t.time.state = s.time.state ∧ t.time.role = s.time.role ∧
      t.time.refin = sampleInput refin s.time.refin ∧
      (∀ p, t.port p = { s.port p with
        presence := sampleInput (presence.getLsbD p.val) (s.port p).presence
        training := (s.port p).training.map advanceTraining
        missCount :=
          if countsMisses (s.port p) = true ∧ (s.port p).markerThisEpoch = false then min 4 ((s.port p).missCount + 1)
          else (s.port p).missCount
        lossDue := (s.port p).lossDue ||
          (countsMisses (s.port p) && !(s.port p).markerThisEpoch && decide ((s.port p).missCount = 3) &&
            decide ((s.port p).state ∈ [.probing, .up, .admitted, .draining]))
        nextSlot := 0, markerThisEpoch := false, symbolErrors := 0 }) ∧
      onTime (now t) t.trig.table ∧ noticesOnly s t ∧
      (g.step = none → noneFires s (7936 + g.length) → onTime ⟨s.clock.epoch + 1, 0⟩ s.trig.table →
        let stays (fire : RackTime) : Bool := ahead (fire.epoch + 64) (s.clock.epoch + 1)
        t.trig.table = s.trig.table.filter (fun e =>
            s.trig.table.all fun x => x.id != e.id || decide (x.state = .armed) || stays x.fire) ∧
          t.trig.dropped = s.trig.dropped.filter (fun n => stays n.fire) ∧
          ((∀ e ∈ s.trig.table, e.state ≠ .armed → stays e.fire = true) → t.sinks = s.sinks ∧ t.req = s.req)) ∧
      changesOnly [.ports, .clock, .time, .dir, .swap, .trig, .streams, .sinks, .req, .pins] s t) ∧
  (∀ (s : State) (presence : BitVec 6) (refin : Bool), s.pins.reset = false → s.clock.gap = none →
    ∃ u, exec .gapStart s = .next u ∧ u.clock.gap ≠ none ∧
      exec (.localEpochStart presence refin) s = exec (.localEpochStart presence refin) u) ∧
  (∀ s : State, s.pins.reset = false →
    (∀ len e, s.clock.gap = some ⟨len, some e⟩ →
      ∃ t, exec .timeStep s = .next t ∧ t.clock.epoch = e ∧ t.clock.tick = 0 ∧
        t.time.stepCount = min 65535 (s.time.stepCount + 1) ∧ t.req.pending.get .timing = true ∧
        t.req.pending.get .trigger = true ∧ (∀ x ∈ t.trig.table, x.state ≠ .armed) ∧ t.captures = s.captures ∧
        fallen s t ∧ noticesOnly s t ∧
        changesOnly [.ports, .clock, .time, .dir, .swap, .trig, .streams, .sinks, .req] s t) ∧
    (s.clock.gap = none ∨ (∃ len, s.clock.gap = some ⟨len, none⟩) → exec .timeStep s = .next s))

/-! ### The cables -/

/-- Slot 0 begins on a port at tick 0: where a marker is due it is sent, with the part's epoch, identity, stamp, echo,
timing state, master bit and priority; other ports and everything else stand. Slot 1 begins on a port in UP, ADMITTED or
DRAINING: a management cell with up to four messages leaves, those of the protocol queue first, then floods; both queues
keep the rest in order; the clock has come to tick 128, with the firings on the way. A data slot begins on an ADMITTED port at its tick: for a record
with a cell that is due, its oldest cell leaves the queue and is sent as DATA; for one without, a FILL cell of its
generation; for a slot that no record holds, idle symbols. The clock brought to tick 128, and the record of the slots
begun, are the model's (log entries 5 and 10). -/
def Obligations.SlotsBegin : Prop :=
  (∀ (s : State) (p : PortId), s.pins.reset = false → (s.port p).nextSlot = 0 → s.clock.tick = 0 →
    (sendsMarker (s.port p) = true →
      exec (.markerSend p) s = .next (s.setPort p
        { s.port p with nextSlot := 1, wire := .marker (markerBytes (markerNow s p) (infoNow s)) })) ∧
    (sendsMarker (s.port p) = false →
      exec (.markerSend p) s = .next (s.setPort p { s.port p with nextSlot := 1, wire := quietWire (s.port p).state }))) ∧
  (∀ (s : State) (p : PortId), s.pins.reset = false → (s.port p).nextSlot ≤ 1 → s.clock.tick ≤ 128 →
    takesOffers (s.port p).state = true →
    let a := min 4 (s.port p).protocolQueue.length
    let b := min (4 - a) (s.port p).floodQueue.length
    ∃ u, TimePasses (128 - s.clock.tick) s u ∧
      exec (.managementCellBuild p) s = .next (u.setPort p
        { s.port p with
          protocolQueue := (s.port p).protocolQueue.drop a, floodQueue := (s.port p).floodQueue.drop b, nextSlot := 2
          wire := .cell (managementCell ((s.port p).protocolQueue.take a ++ (s.port p).floodQueue.take b)) })) ∧
  (∀ (s : State) (p : PortId) (n : Nat), s.pins.reset = false → 2 ≤ n → n ≤ 61 → (s.port p).nextSlot ≤ n →
    s.clock.tick = 128 * n → (s.port p).state = .admitted →
    (slotRecord s p n = none →
      exec (.dataSlot p n) s = .next (s.setPort p { s.port p with nextSlot := n + 1, wire := .idleSymbols })) ∧
    (∀ r, slotRecord s p n = some r → eligibleCell s r = none →
      exec (.dataSlot p n) s =
        .next (s.setPort p { s.port p with nextSlot := n + 1, wire := .cell (fillCell r.gen n) })) ∧
    ∀ r c rest, slotRecord s p n = some r → (r.state = .active ∨ r.state = .retuning) → r.queue = c :: rest →
      ahead s.clock.epoch c.taken = true →
      ∃ t, exec (.dataSlot p n) s = .next t ∧
        t.port p = { s.port p with nextSlot := n + 1, wire := .cell (dataCell c n) } ∧
        recordBecomes r.index (fun r => { r with queue := r.queue.drop 1 }) s t ∧ otherPortsKept p s t ∧
        changesOnly [.ports, .streams] s t)

/-- A marker received whole on a port that looks for one and holds no other identity is accepted: the neighbour's
identity, the marker's info, the echo and the departing indication are recorded, the misses are over, and a port in
TRAINING enters PROBING with an empty delay record. Other ports keep their links. Symbols come one a tick, the last of
them now, and a preamble is one symbol three times (the model's choices, log entry 15). -/
def Obligations.MarkerAccepted : Prop :=
  ∀ (s : State) (p : PortId) (m : Marker) (i : InfoBits), s.pins.reset = false →
    recognizerRuns (s.port p) = true → (s.port p).recognizer = ⟨0, none, []⟩ → m.priority ≤ 15 →
    i.epochOdd = m.epoch.getLsbD 0 →
    ((s.port p).neighbour = none ∨ (s.port p).neighbour = some ⟨m.frame, m.port⟩) →
    ∃ t, exec (.markerReceived p ([.preamble, .preamble, .preamble] ++ (markerBytes m i).map Symbol.data)) s = .next t ∧
      (t.port p).neighbour = some ⟨m.frame, m.port⟩ ∧
      (t.port p).lastMarker = some ⟨i, m.timing, m.priority, m.master⟩ ∧
      (t.port p).echo = some ⟨m.tx, s.clock.stamp - 23⟩ ∧ (t.port p).neighbourDeparting = i.departing ∧
      (t.port p).missCount = 0 ∧ (t.port p).markerThisEpoch = true ∧ (t.port p).recognizer = ⟨0, none, []⟩ ∧
      ((s.port p).state = .training → (t.port p).state = .probing ∧ (t.port p).delay = .sampling []) ∧
      (∀ q, q ≠ p → sameLink (s.port q) (t.port q) ∧ queuesKept (s.port q) (t.port q)) ∧
      changesOnly [.ports, .time, .dir, .streams, .sinks, .captures, .req] s t

/-- A delay sample: an OPEN record whose four samples then agree within 2 ticks becomes VALID at their mean, in 16ths of a
tick, and otherwise stays OPEN; a VALID record moves by an eighth of the difference for a sample near it and counts a jump, up
to eight, for one far from it. That the count stands at eight until DELAY_JUMP is taken is the model's choice (log entry 3). -/
def Obligations.DelaySampled : Prop :=
  (∀ (w : List Nat) (x : Nat),
    let v := if (w ++ [x]).length ≤ 4 then w ++ [x] else (w ++ [x]).drop 1
    (v.length = 4 ∧ (∀ y ∈ v, ∀ z ∈ v, y ≤ z + 2) → takeSample (.sampling w) x = .valid v (4 * v.sum) 0) ∧
      (¬(v.length = 4 ∧ ∀ y ∈ v, ∀ z ∈ v, y ≤ z + 2) → takeSample (.sampling w) x = .sampling v)) ∧
    (∀ (w : List Nat) (d16 n x : Nat), x ≤ 2047 → x ≤ (d16 + 8) / 16 + 32 → (d16 + 8) / 16 ≤ x + 32 →
      ∃ v y, takeSample (.valid w d16 n) x = .valid v y 0 ∧ v = addSample w x ∧
        (d16 ≤ 16 * x → y = d16 + (16 * x - d16) / 8) ∧ (16 * x ≤ d16 → y = d16 - (d16 - 16 * x) / 8)) ∧
    ∀ (w : List Nat) (d16 n x : Nat), (2047 < x ∨ (d16 + 8) / 16 + 32 < x ∨ x + 32 < (d16 + 8) / 16) →
      takeSample (.valid w d16 n) x = .valid (addSample w x) d16 (min 8 (n + 1))

/-- A whole management cell of up to four messages received in UP, ADMITTED or DRAINING: its start abandons a partial preamble
and rejects a half-read marker; every message is passed on with its port, in the order of the cell, and nothing else changes.
They wait in the model's inbox (log entry 9). The cell's start symbol at the marker recognizer has the form of log entry 15. -/
def Obligations.MessagesPassedOn : Prop :=
  ∀ (s : State) (p : PortId) (ms : List Msg), s.pins.reset = false → takesOffers (s.port p).state = true →
    ms.length ≤ 4 → (∀ m ∈ ms, m.wf = true) →
    exec (.cellReceived p (managementCell ms)) s =
      .next { cellBegun p s with inbox := s.inbox ++ ms.map fun m => ⟨p, m⟩ }

/-- A whole DATA cell received on an ADMITTED port for the ACTIVE or RETUNING record of its stream, port and
generation: the expected sequence is taken and a poisoned cell counted; a transit hop with room queues the cell with
the current epoch as its taking epoch; every sink of the record takes its copy, and no other sink changes. A copy of a cell at
a sink: a RUNNING sink with room holds one whose release epoch is ahead by 1 to 32, keeps the order, and moves its expected
sequence on; one that does not fit is discarded with OVERRUN; a sequence behind the expected one is discarded without a
trace, and one ahead of it, by 1 to 32767, counts the gap and is then taken as the expected one is (at 32767, which another case
of R151 discards, the model's choice, log entry 59). A HALTED sink keeps nothing of it but the
sequence, and a WAITING one runs from it or does the same, as its start is met or not. The cell's start symbol at the marker recognizer
has the form of log entry 15, and a sequence or origin epoch exactly 32768 from the block start or the fire epoch is not behind
it (log entry 71). -/
def Obligations.CellTaken : Prop :=
  (∀ (s : State) (p : PortId) (h : CellHeader) (payload : List Byte) (r : StreamRecord), s.pins.reset = false →
    (s.port p).state = .admitted → payload.length = 116 → h.kind = .data → 2 ≤ h.slot.toNat → h.slot.toNat ≤ 61 →
    recordOf s h.id = some r → r.ingress = .port p → r.gen = h.gen → (r.state = .active ∨ r.state = .retuning) →
    (r.role = .terminus ∨ (r.role = .transit ∧ r.egress ≠ none ∧ r.queue.length < 2 * slotsHeld s r)) →
    let u := cellBegun p s
    ∃ t, exec (.cellReceived p (cellBytes h payload)) s = .next t ∧
      recordBecomes r.index (fun x =>
        { x with
          expected := some (h.sequence + 1)
          poisonCount := if h.poison then min 65535 (x.poisonCount + 1) else x.poisonCount
          queue :=
            if r.role = .transit then
              x.queue ++ [⟨h.id, h.gen, h.sequence, h.originEpoch, h.samples, h.poison, payload, s.clock.epoch⟩]
            else x.queue }) u t ∧
      sinksTake r ⟨h.sequence, h.originEpoch, h.samples, h.poison, false, payload⟩ u t ∧ noticesOnly u t ∧
      changesOnly [.streams, .sinks, .req] u t) ∧
  (∀ (s : State) (budget : Nat) (c : SinkCell) (x : Sink),
    (∀ e, x.expected = some e → c.sequence ≠ e → ahead c.sequence e = false → takeCopy s budget c x = x) ∧
    (x.expected = none ∨ x.expected = some c.sequence →
      (x.state = .halted → takeCopy s budget c x = { x with expected := some (c.sequence + 1) }) ∧
      (x.state = .waiting → takeCopy s budget c x =
        if meetsStart s x c then takeCopy s budget c { x with state := .running, blockStart := some c.sequence }
        else { x with expected := some (c.sequence + 1) }) ∧
      (x.state = .running → (∀ b, x.blockStart = some b → ahead b c.sequence = false) →
        (x.reservation ≤ x.held.length + x.released.length →
          takeCopy s budget c x = { x with expected := some (c.sequence + 1), overrun := true }) ∧
        (x.held.length + x.released.length < x.reservation → staysHeld (epochLow s) budget c = true →
          takeCopy s budget c x = { x with
            expected := some (c.sequence + 1), held := x.held ++ [{ c with late := false }]
            blockStart := some (x.blockStart.getD c.sequence) }))) ∧
    ∀ e, x.expected = some e → ahead c.sequence e = true →
      takeCopy s budget c x = takeCopy s budget c
        { x with expected := some c.sequence, gapCount := min 65535 (x.gapCount + (c.sequence - e).toNat) })

/-! ### The path protocol -/

/-- SETUP at a hop of a stream new to it, all checks passed. At the terminal frame: a TERMINUS record, ACTIVE, with the
hop index of the SETUP plus one as its path length, and a CONFIRM on the port it came by. At a hop with a route over p: a
TRANSIT record, PENDING, C slots assigned on p, and the SETUP forwarded there with this hop's index. STREAM is raised. A
SETUP of a newer generation supersedes the record of its stream in the same two ways: the record keeps its index, sinks, poison
count and expected sequence; its old slots are free; a BREAK of the old generation goes out on its old egress where it was in
service; its sinks take the new hop index and reservation, and one that the pool has no room for is detached. The model's: the expected
sequence of a new record is absent, a CLOSED record is superseded as any other, and the SETUP leaves the inbox (log entries 58,
33 and 9); and which cells a smaller reservation discards where sequences lie far apart (65). -/
def Obligations.SetupTaken : Prop :=
  (∀ (s : State) (q : PortId) (m : SetupMsg) (i : Nat), s.pins.reset = false → setupMalformed m = false →
    recordOf s m.id = none → freeIndex s = some i → timed s = true → s.swap.departure = .inService →
    streamOrigin m.id ≠ s.req.config.frameId.val → (s.port q).state = .admitted →
    (m.terminal = s.req.config.frameId → m.hop + 2 ≤ m.budget.toNat → m.hop + 1 ≤ 30 →
      (s.port q).protocolQueue.length < 20 →
      ∃ t, exec (.setup q m) s = .next t ∧
        t.streams = { s.streams with
          records := insertRecord (hopRecord s i none q m none) s.streams.records
          activations := s.streams.activations + 1 } ∧
        (hopRecord s i none q m none).state = .active ∧ (hopRecord s i none q m none).pathLength = some (m.hop + 1) ∧
        t.port q = { s.port q with
          protocolQueue := (s.port q).protocolQueue ++ [.confirm m.id m.gen (m.hop + 1)] } ∧
        otherPortsKept q s t ∧ t.inbox = s.inbox.erase ⟨q, .setup m⟩ ∧ noticesSet [.stream] s t ∧
        changesOnly [.inbox, .ports, .streams, .req] s t) ∧
    ∀ (p : PortId) (d : Nat), routeTo s m.terminal = .route p d → p ≠ q → m.hop + 3 ≤ m.budget.toNat → m.hop + 1 ≤ 29 →
      m.cells.toNat + (s.port p).slotMap.length ≤ usableCount (s.port p).delay → (s.port p).protocolQueue.length < 16 →
      ∃ t, exec (.setup q m) s = .next t ∧
        t.streams = { s.streams with records := insertRecord (hopRecord s i none q m (some p)) s.streams.records } ∧
        (hopRecord s i none q m (some p)).state = .pending ∧ (hopRecord s i none q m (some p)).setupTimer = some 512 ∧
        t.port p = { s.port p with
          slotMap := assignIn m.cells.toNat i (usableCount (s.port p).delay) (s.port p).slotMap
          protocolQueue := (s.port p).protocolQueue ++ [.setup { m with hop := m.hop + 1 }] } ∧
        otherPortsKept p s t ∧ t.inbox = s.inbox.erase ⟨q, .setup m⟩ ∧ noticesSet [.stream] s t ∧
        changesOnly [.inbox, .ports, .streams, .req] s t) ∧
  ∀ (s : State) (q : PortId) (m : SetupMsg) (r : StreamRecord), s.pins.reset = false → setupMalformed m = false →
    RecordsInv s.streams.records → SinksInv s.sinks → recordOf s m.id = some r → 1 ≤ (m.gen - r.gen).toNat → (m.gen - r.gen).toNat ≤ 7 →
    timed s = true → s.swap.departure = .inService → streamOrigin m.id ≠ s.req.config.frameId.val →
    (s.port q).state = .admitted →
    (∀ a, r.egress = some a ∨ a = q → takesOffers (s.port a).state = true ∧ (s.port a).protocolQueue.length < 15) →
    let n := m.cells.toNat * (m.budget.toNat - m.hop)
    let base (a : PortId) : List SlotEntry :=
      if r.egress = some a then (s.port a).slotMap.filter fun e => e.record != r.index else (s.port a).slotMap
    let superseded (egress : Option PortId) (t : State) : Prop :=
      (∀ a, t.port a = { s.port a with
        slotMap :=
          if egress = some a then assignIn m.cells.toNat r.index (usableCount (s.port a).delay) (base a) else base a
        protocolQueue := (s.port a).protocolQueue ++
          (if egress = some a then [.setup { m with hop := m.hop + 1 }] else []) ++
          (if r.egress = some a ∧ inService r = true then [breakOf r .pathLost .towardTerminus] else []) ++
          if egress = none ∧ a = q then [.confirm m.id m.gen (m.hop + 1)] else [] }) ∧
      (reservedCells s + r.sinks.length * n ≤ 4096 →
        recordAt t r.index = some (hopRecord s r.index (some r) q m egress) ∧
          t.sinks = s.sinks.map fun x =>
            if x.index ∈ r.sinks then withReservation n { x with hop := m.hop + 1, settle := none } else x) ∧
      (∀ k x, r.sinks = [k] → sinkAt s k = some x → x.reservation < n → 4096 < reservedCells s - x.reservation + n →
        recordAt t r.index = some { hopRecord s r.index (some r) q m egress with sinks := [] } ∧
          t.sinks = s.sinks.filter (fun y => y.index != k) ∧ t.req.pending.get .sink = true) ∧
      otherRecordsKept r.index s t ∧ t.streams.serial = s.streams.serial ∧
      t.streams.activations = (if egress = none then s.streams.activations + 1 else s.streams.activations) ∧
      t.inbox = s.inbox.erase ⟨q, .setup m⟩ ∧ t.req.pending.get .stream = true ∧ noticesOnly s t ∧
      changesOnly [.inbox, .ports, .streams, .sinks, .req] s t
    (m.terminal = s.req.config.frameId → m.hop + 2 ≤ m.budget.toNat → m.hop + 1 ≤ 30 →
      ∃ t, exec (.setup q m) s = .next t ∧ superseded none t) ∧
    (∀ (p : PortId) (d : Nat), routeTo s m.terminal = .route p d → p ≠ q → m.hop + 3 ≤ m.budget.toNat → m.hop + 1 ≤ 29 →
      m.cells.toNat + (base p).length ≤ usableCount (s.port p).delay → (s.port p).protocolQueue.length < 15 →
      ∃ t, exec (.setup q m) s = .next t ∧ superseded (some p) t) ∧
    ∀ egress,
      let x := hopRecord s r.index (some r) q m egress
      x.gen = m.gen ∧ x.ingress = .port q ∧ x.egress = egress ∧ x.hop = m.hop + 1 ∧ x.sinks = r.sinks ∧
        x.poisonCount = r.poisonCount ∧ x.expected = r.expected ∧ x.state = if egress = none then .active else .pending

/-- CONFIRM taken by the PENDING record it matches: ACTIVE, with the path length and the next activation order, timers
stopped; a transit hop passes it on toward the origin. One whose stream no record holds, or a CLOSED record or one of another
generation, is answered with a RELEASE where it came, and nothing else happens. REFUSE taken by the PENDING record it matches. An origin on its first setup: CLOSED with the reason and the
refusing frame, its slots freed. A transit hop: the record is gone, its slots and sinks with it, and the REFUSE goes on
toward the origin. The message leaves the model's inbox (log entry 9). -/
def Obligations.RepliesTaken : Prop :=
  (∀ (s : State) (q : PortId) (id : StreamId) (gen : Gen) (n : Nat), s.pins.reset = false →
    (∀ r, RecordsInv s.streams.records → recordOf s id = some r → r.gen = gen → r.egress = some q → r.state = .pending →
      ∃ t, exec (.confirm q id gen n) s = .next t ∧
        t.streams = { s.streams with
          records := s.streams.records.map fun x =>
            if x.index = r.index then
              { x with
                state := .active, activation := some s.streams.activations, pathLength := some n, setupTimer := none
                suspendTimer := none, rerouteTimer := none, queue := [], changed := true }
            else x
          activations := s.streams.activations + 1 } ∧
        t.inbox = s.inbox.erase ⟨q, .confirm id gen n⟩ ∧
        (r.role = .origin → t.ports = s.ports ∧ t.captures = s.captures) ∧
        (∀ p, r.role = .transit → r.ingress = .port p → takesOffers (s.port p).state = true →
          (s.port p).protocolQueue.length < 20 →
          t.port p = { s.port p with protocolQueue := (s.port p).protocolQueue ++ [.confirm id gen n] } ∧
            otherPortsKept p s t) ∧
        t.req.pending.get .stream = true ∧ noticesOnly s t ∧
        changesOnly [.inbox, .ports, .streams, .captures, .req] s t) ∧
    ((∀ r, recordOf s id = some r → r.state = .closed ∨ r.gen ≠ gen) → takesOffers (s.port q).state = true → (s.port q).protocolQueue.length < 20 →
      exec (.confirm q id gen n) s =
        .next ((takeMessage q (.confirm id gen n) s).setPort q
          { s.port q with protocolQueue := (s.port q).protocolQueue ++ [.release id gen] }))) ∧
  (∀ (s : State) (q : PortId) (id : StreamId) (gen : Gen) (c : ReasonCode) (x : FrameId) (r : StreamRecord),
    s.pins.reset = false → RecordsInv s.streams.records → recordOf s id = some r → r.gen = gen → r.egress = some q →
    r.state = .pending →
    (isOrigin r = true → r.suspendTimer = none →
      ∃ t, exec (.refuse q id gen c x) s = .next t ∧
        recordAt t r.index = some { r with
          state := .closed, reason := some (.code c), refusing := some x, retuneCause := none, setupTimer := none
          retuneTimer := none, rerouteTimer := none, queue := [], changed := true } ∧
        otherRecordsKept r.index s t ∧ (t.port q).slotMap = (s.port q).slotMap.filter (fun e => e.record != r.index) ∧
        otherPortsKept q s t ∧ t.req.pending.get .stream = true ∧ t.inbox = s.inbox.erase ⟨q, .refuse id gen c x⟩ ∧
        changesOnly [.inbox, .ports, .streams, .req] s t) ∧
    (∀ p, isOrigin r = false → r.ingress = .port p → p ≠ q → takesOffers (s.port p).state = true →
      (s.port p).protocolQueue.length < 20 →
      ∃ t, exec (.refuse q id gen c x) s = .next t ∧ recordAt t r.index = none ∧ otherRecordsKept r.index s t ∧
        t.port p = { s.port p with protocolQueue := (s.port p).protocolQueue ++ [.refuse id gen c x] } ∧
        t.port q = { s.port q with slotMap := (s.port q).slotMap.filter (fun e => e.record != r.index) } ∧
        t.sinks = s.sinks.filter (fun x => !r.sinks.contains x.index) ∧ t.req.pending.get .stream = true ∧
        t.inbox = s.inbox.erase ⟨q, .refuse id gen c x⟩ ∧ changesOnly [.inbox, .ports, .streams, .sinks, .req] s t))

/-- RELEASE taken by the record it matches: the record is gone, with its slots and sinks, and the RELEASE goes on toward
the terminus where there is a way on. BREAK taken by a record in service that it matches: SUSPENDED with the reason, its
suspend timer running and its queue empty, no slots left for CAPACITY, TIME_LOST and DEPARTING and its C slots otherwise;
the BREAK goes on in its own direction. The message leaves the model's inbox (log entry 9). -/
def Obligations.TeardownTaken : Prop :=
  (∀ (s : State) (q : PortId) (id : StreamId) (gen : Gen) (r : StreamRecord), s.pins.reset = false →
    RecordsInv s.streams.records → recordOf s id = some r → r.gen = gen → r.ingress = .port q → r.state ≠ .closed →
    ∃ t, exec (.release q id gen) s = .next t ∧ recordAt t r.index = none ∧ otherRecordsKept r.index s t ∧
      t.sinks = s.sinks.filter (fun x => !r.sinks.contains x.index) ∧ t.req.pending.get .stream = true ∧
      t.inbox = s.inbox.erase ⟨q, .release id gen⟩ ∧ (r.egress = none → t.ports = s.ports) ∧
      (∀ p, r.egress = some p → takesOffers (s.port p).state = true → (s.port p).protocolQueue.length < 20 →
        t.port p = { s.port p with
          slotMap := (s.port p).slotMap.filter (fun e => e.record != r.index)
          protocolQueue := (s.port p).protocolQueue ++ [.release id gen] } ∧ otherPortsKept p s t) ∧
      changesOnly [.inbox, .ports, .streams, .sinks, .captures, .req] s t) ∧
  (∀ (s : State) (q : PortId) (id : StreamId) (gen : Gen) (c : ReasonCode) (d : Direction) (r : StreamRecord),
    s.pins.reset = false → RecordsInv s.streams.records → recordOf s id = some r → r.gen = gen →
    (match d with | .towardOrigin => downstream r | .towardTerminus => upstream r) = some q → inService r = true →
    ∃ t, exec (.break_ q id gen c d) s = .next t ∧
      recordAt t r.index = some { suspended c r with changed := true } ∧ otherRecordsKept r.index s t ∧
      (suspended c r).state = .suspended ∧ (suspended c r).reason = some (.code c) ∧ (suspended c r).queue = [] ∧
      (suspended c r).suspendTimer = some (r.suspendTimer.getD r.suspendLimit) ∧
      (∀ p, r.egress = some p → (t.port p).slotMap =
        keepSlots (if c = .capacity ∨ c = .timeLost ∨ c = .departing then 0 else r.cells) r.index (s.port p).slotMap) ∧
      (∀ p, (match d with | .towardOrigin => upstream r | .towardTerminus => downstream r) = some p →
        takesOffers (s.port p).state = true → (s.port p).protocolQueue.length < 20 →
        (t.port p).protocolQueue = (s.port p).protocolQueue ++ [.break_ id gen c d]) ∧
      t.req.pending.get .stream = true ∧ t.inbox = s.inbox.erase ⟨q, .break_ id gen c d⟩ ∧
      (∀ p, sameLink (s.port p) (t.port p)) ∧ changesOnly [.inbox, .ports, .streams, .sinks, .captures, .req] s t)

/-- RETUNE accepted by an ACTIVE hop: RETUNING with the demand staged and its timer at 1024; a transit hop assigns the
extra slots and forwards the RETUNE over p, a terminus answers RETUNE_OK where it came. The message leaves the model's
inbox (log entry 9). -/
def Obligations.RetuneTaken : Prop :=
  ∀ (s : State) (q : PortId) (id : StreamId) (gen : Gen) (rate : BitVec 32) (cells : Byte) (r : StreamRecord),
    s.pins.reset = false → RecordsInv s.streams.records → recordOf s id = some r → r.gen = gen → r.ingress = .port q →
    r.state = .active → settlePending s r = false → s.swap.departure = .inService → 1 ≤ rate.toNat →
    rate.toNat ≤ 1000000000 → 1 ≤ cells.toNat → cells.toNat ≤ 60 → poolAdmits s r (max r.cells cells.toNat) = true →
    let r' := { r with
      state := StreamState.retuning, staged := some ⟨cells.toNat, rate.toNat⟩, switchEpoch := none
      retuneTimer := some 1024, changed := true }
    (r.role = .terminus → r.egress = none → takesOffers (s.port q).state = true → (s.port q).protocolQueue.length < 16 →
      ∃ t, exec (.retune q id gen rate cells) s = .next t ∧ recordAt t r.index = some r' ∧ otherRecordsKept r.index s t ∧
        t.port q = { s.port q with protocolQueue := (s.port q).protocolQueue ++ [.retuneOk id gen] } ∧
        otherPortsKept q s t ∧ t.req.pending.get .stream = true ∧
        t.inbox = s.inbox.erase ⟨q, .retune id gen rate cells⟩ ∧ changesOnly [.inbox, .ports, .streams, .sinks, .req] s t) ∧
    ∀ p, r.role = .transit → r.egress = some p → cells.toNat - r.cells + (s.port p).slotMap.length ≤
        usableCount (s.port p).delay → takesOffers (s.port p).state = true → (s.port p).protocolQueue.length < 16 →
      ∃ t, exec (.retune q id gen rate cells) s = .next t ∧ recordAt t r.index = some r' ∧ otherRecordsKept r.index s t ∧
        t.port p = { s.port p with
          slotMap := assignIn (cells.toNat - r.cells) r.index (usableCount (s.port p).delay) (s.port p).slotMap
          protocolQueue := (s.port p).protocolQueue ++ [.retune id gen rate cells] } ∧
        otherPortsKept p s t ∧ t.req.pending.get .stream = true ∧
        t.inbox = s.inbox.erase ⟨q, .retune id gen rate cells⟩ ∧ changesOnly [.inbox, .ports, .streams, .sinks, .req] s t

/-- RETUNE_OK and RETUNE_COMMIT at a record that waits for its switch epoch. The origin takes E, two epochs on, and offers
the RETUNE_COMMIT; a transit hop passes the RETUNE_OK on toward the origin. A hop takes the E of the RETUNE_COMMIT, and
passes it on, while its own switch epoch E + j + 1 is ahead. The message leaves the model's inbox (log entry 9). -/
def Obligations.RetuneAgreed : Prop :=
  ∀ (s : State) (q : PortId) (id : StreamId) (gen : Gen) (r : StreamRecord), s.pins.reset = false →
    RecordsInv s.streams.records → recordOf s id = some r → r.gen = gen → r.state = .retuning → r.switchEpoch = none →
    (r.egress = some q → isOrigin r = true → takesOffers (s.port q).state = true → (s.port q).protocolQueue.length < 16 →
      ∃ t, exec (.retuneOk q id gen) s = .next t ∧
        recordAt t r.index = some { r with switchEpoch := some (s.clock.epoch + 2), retuneTimer := none } ∧
        otherRecordsKept r.index s t ∧ otherPortsKept q s t ∧ t.port q = { s.port q with
          protocolQueue := (s.port q).protocolQueue ++ [.retuneCommit id gen (s.clock.epoch + 2)] } ∧
        t.inbox = s.inbox.erase ⟨q, .retuneOk id gen⟩ ∧ changesOnly [.inbox, .ports, .streams, .sinks, .req] s t) ∧
    (∀ p, r.egress = some q → isOrigin r = false → r.ingress = .port p → takesOffers (s.port p).state = true →
      (s.port p).protocolQueue.length < 16 →
      exec (.retuneOk q id gen) s = .next ((takeMessage q (.retuneOk id gen) s).setPort p
        { s.port p with protocolQueue := (s.port p).protocolQueue ++ [.retuneOk id gen] })) ∧
    ∀ e : Epoch, r.ingress = .port q → ahead (e + BitVec.ofNat 48 (r.hop + 1)) s.clock.epoch = true →
      ∃ t, exec (.retuneCommit q id gen e) s = .next t ∧
        recordAt t r.index = some { r with switchEpoch := some e, retuneTimer := none } ∧ otherRecordsKept r.index s t ∧
        (∀ p, r.egress = some p → takesOffers (s.port p).state = true → (s.port p).protocolQueue.length < 16 →
          t.port p = { s.port p with protocolQueue := (s.port p).protocolQueue ++ [.retuneCommit id gen e] } ∧
            otherPortsKept p s t) ∧
        (r.egress = none → t.ports = s.ports) ∧ t.inbox = s.inbox.erase ⟨q, .retuneCommit id gen e⟩ ∧
        changesOnly [.inbox, .ports, .streams, .sinks, .captures, .req] s t

/-- RETUNE_REFUSE, RETUNE_ABORT and an origin's retune timeout at a record that waits for its switch epoch: the retune
reverts to ACTIVE with C and rate as they were and slots down to C; an origin keeps the reason RETUNE_REFUSED with the
refusal's code, a hop takes the code as its reason and passes the message on, and on the timeout the origin offers a RETUNE_ABORT. A transit queue keeps all its cells (the model's
choice, log entry 57). A message leaves the model's inbox, and the timer stands at its end (log entries 9 and 3). -/
def Obligations.RetuneReverted : Prop :=
  ∀ (s : State) (q : PortId) (id : StreamId) (gen : Gen) (r : StreamRecord), s.pins.reset = false →
    RecordsInv s.streams.records → recordOf s id = some r → r.gen = gen → r.state = .retuning → r.switchEpoch = none →
    let r' := { r with state := StreamState.active, staged := none, switchEpoch := none, retuneTimer := none, changed := true }
    let reverted (t : State) : Prop :=
      otherRecordsKept r.index s t ∧ t.req.pending.get .stream = true ∧ (∀ p, sameLink (s.port p) (t.port p)) ∧
        ∀ p, r.egress = some p → (t.port p).slotMap = keepSlots r.cells r.index (s.port p).slotMap
    (∀ c, r.egress = some q → isOrigin r = true →
      ∃ t, exec (.retuneRefuse q id gen c) s = .next t ∧ reverted t ∧
        recordAt t r.index = some { r' with reason := some .retuneRefused, refusing := none, retuneCause := some c } ∧
        t.inbox = s.inbox.erase ⟨q, .retuneRefuse id gen c⟩ ∧ changesOnly [.inbox, .ports, .streams, .sinks, .req] s t) ∧
    (∀ c p, r.egress = some q → isOrigin r = false → r.ingress = .port p → takesOffers (s.port p).state = true →
      (s.port p).protocolQueue.length < 20 →
      ∃ t, exec (.retuneRefuse q id gen c) s = .next t ∧ reverted t ∧
        recordAt t r.index = some { r' with reason := some (.code c) } ∧
        (t.port p).protocolQueue = (s.port p).protocolQueue ++ [.retuneRefuse id gen c] ∧
        t.inbox = s.inbox.erase ⟨q, .retuneRefuse id gen c⟩ ∧ changesOnly [.inbox, .ports, .streams, .sinks, .req] s t) ∧
    (r.ingress = .port q →
      ∃ t, exec (.retuneAbort q id gen) s = .next t ∧ reverted t ∧ recordAt t r.index = some r' ∧
        (∀ p, r.egress = some p → takesOffers (s.port p).state = true → (s.port p).protocolQueue.length < 20 →
          (t.port p).protocolQueue = (s.port p).protocolQueue ++ [.retuneAbort id gen]) ∧
        t.inbox = s.inbox.erase ⟨q, .retuneAbort id gen⟩ ∧
        changesOnly [.inbox, .ports, .streams, .sinks, .captures, .req] s t) ∧
    (isOrigin r = true → r.retuneTimer = some 0 →
      ∃ t, exec (.originRetuneTimeout r.index) s = .next t ∧ reverted t ∧ recordAt t r.index = some r' ∧
        (∀ p, r.egress = some p → takesOffers (s.port p).state = true → (s.port p).protocolQueue.length < 20 →
          (t.port p).protocolQueue = (s.port p).protocolQueue ++ [.retuneAbort id gen]) ∧
        changesOnly [.ports, .streams, .sinks, .captures, .req] s t)

/-! ### Floods -/

/-- ANNOUNCE. One that passes the screen and is new, restarted, newer, shorter or by a lower port gives the entry of its
frame its content, leaves every other entry, and, where nothing the election ranks by has changed and this frame is in
service, goes on to the other ports in UP or ADMITTED with its hop count one more. One that is not accepted changes no
entry. One with hop count 0 for the neighbour of a port in UP marks it announce-seen and admits it. The ANNOUNCE leaves
the model's inbox (log entry 9). -/
def Obligations.AnnounceTaken : Prop :=
  ∀ (s : State) (p : PortId) (m : AnnounceMsg), s.pins.reset = false →
    let news : Prop :=
      match entryOf s m.frame with
      | none => True
      | some e =>
        e.state = .lost ∨ (m.restart = true ∧ m.serial ≠ e.serial) ∨ ahead m.serial e.serial = true ∨
          (m.serial = e.serial ∧ (m.hops + 1 < e.distance ∨ (m.hops + 1 = e.distance ∧ p < e.nextHop)))
    let passes : Prop :=
      m.frame ≠ 0 ∧ m.frame ≠ s.req.config.frameId ∧ m.hops + 1 ≤ 30 ∧ takesOffers (s.port p).state = true
    let admits : Prop := (s.port p).state = .up ∧ m.hops = 0 ∧ neighbourFrame s p = some m.frame
    let e : DirEntry :=
      { frame := m.frame, state := if m.departing then .departing else .reachable, nextHop := p, distance := m.hops + 1
        serial := m.serial, restartSeen := m.restart, age := 0, priority := m.priority, reference := m.reference
        timing := m.timing }
    (passes → news → ¬admits →
      ∃ t, exec (.announce p m) s = .next t ∧ entryOf t m.frame = some e ∧ (∀ y, y ≠ m.frame → entryOf t y = entryOf s y) ∧
        t.inbox = s.inbox.erase ⟨p, .announce m⟩ ∧ (∀ q, sameLink (s.port q) (t.port q)) ∧ noticesOnly s t ∧
        changesOnly [.inbox, .ports, .time, .dir, .streams, .sinks, .captures, .req] s t ∧
        (ranksDiffer (entryOf s m.frame) e = true → electionSettled t) ∧
        (ranksDiffer (entryOf s m.frame) e = false → s.swap.departure = .inService →
          ∀ q, t.port q =
            if ((s.port q).state = .up ∨ (s.port q).state = .admitted) ∧ q ≠ p then
              { s.port q with floodQueue := floodAnnounce { m with hops := m.hops + 1 } (s.port q).floodQueue }
            else s.port q)) ∧
    (¬(passes ∧ news) → ¬admits → exec (.announce p m) s = .next (takeMessage p (.announce m) s)) ∧
    (admits → s.req.config.frameId ≠ 0 → m.frame ≠ 0 → s.swap.departure ≠ .drained →
      ∃ t, exec (.announce p m) s = .next t ∧ (t.port p).state = .admitted ∧ (t.port p).announceSeen = true ∧
        (t.port p).reason = none ∧ t.req.pending.get .port = true ∧ (∀ q, q ≠ p → sameLink (s.port q) (t.port q)) ∧
        t.inbox = s.inbox.erase ⟨p, .announce m⟩ ∧
        changesOnly [.inbox, .ports, .time, .dir, .streams, .sinks, .captures, .req] s t)

/-- TRIGGER of an unknown id from another frame, with room in the table: stored ARMED when its fire time is ahead and
MISSED(LATE) when it has passed, TRIGGER raised, and passed on to the other ADMITTED ports. A known one, or one of this
frame, is ignored. The TRIGGER leaves the model's inbox (log entry 9); the place where the fire times held have no ascending
order is the model's (log entry 67). -/
def Obligations.TriggerTaken : Prop :=
  ∀ (s : State) (p : PortId) (m : TriggerMsg), s.pins.reset = false →
    (holdsTrigger s m.id = true ∨ m.id.origin = s.req.config.frameId →
      exec (.trigger p m) s = .next (takeMessage p (.trigger m) s)) ∧
    ∀ x : TriggerState, holdsTrigger s m.id = false → m.id.origin ≠ s.req.config.frameId → s.trig.table.length < 32 →
      (later m.fire (now s) = true ∧ x = .armed ∨ later (now s) m.fire = true ∧ x = .missed .late) →
      ∃ t, exec (.trigger p m) s = .next t ∧
        t.trig = { s.trig with table := insertBy entryBefore ⟨m.id, m.fire, m.channel, x⟩ s.trig.table } ∧
        (∀ q, t.port q =
          if (s.port q).state = .admitted ∧ q ≠ p ∧ (s.port q).floodQueue.length < 8 then
            { s.port q with floodQueue := (s.port q).floodQueue ++ [.trigger m] }
          else s.port q) ∧
        t.inbox = s.inbox.erase ⟨p, .trigger m⟩ ∧ t.req.pending.get .trigger = true ∧ noticesOnly s t ∧
        changesOnly [.inbox, .ports, .trig, .captures, .req] s t

/-- An ARMED trigger at its fire time: FIRED with a pulse of 64 ticks on its channel's lines while the part is timed, and
MISSED(NO_TIME) otherwise; the same at its own tick for one whose fire time passes while the clock runs on, with the lines that
CHANNEL_MAP then names; the end of a pulse; an input edge of at least 16 ticks on an armed line, which makes a trigger
its lead after the edge, disarms a ONE_SHOT and holds a REPEAT off for an epoch; an edge while the part is not timed,
which is counted. TRIGGER is raised by each but the pulse's end. The high ticks that an edge carries, the clock
brought to a pulse's end, the map kept for the firings of the present tick, and the fire tick of an edge above 8191, taken as it
is, are the model's (log entries 19, 5, 53 and 52), and so is an entry's place where the fire times held have no ascending
order (log entry 67). -/
def Obligations.TriggersFireAndEdges : Prop :=
  ∀ s : State, s.pins.reset = false →
    (∀ e, triggerAt s e.id = some e → e.state = .armed → e.fire = now s →
      ∃ t, exec (.triggerFireTime e.id) s = .next t ∧ t.req.pending.get .trigger = true ∧ noticesOnly s t ∧
        changesOnly [.trig, .sinks, .req] s t ∧
        let mask := s.trig.firingMap.get e.channel
        let become (x : TriggerState) := s.trig.table.map fun y => if y.id = e.id then { y with state := x } else y
        t.trig =
          if timed s then
            { s.trig with
              table := become (.fired (decide (s.time.state = .holdover)))
              pulses := if mask = 0 then s.trig.pulses else s.trig.pulses ++ [⟨mask, 64⟩] }
          else { s.trig with table := become (.missed .noTime) }) ∧
    (∀ (n k : Nat) (e : TriggerEntry), s.trig.table.filter (fun x => decide (x.state = .armed)) = [e] →
      e.fire = ⟨s.clock.epoch, k⟩ → s.clock.tick ≤ k → k < s.clock.tick + n →
      let t := passTicks n s
      let mask := (if k = s.clock.tick then s.trig.firingMap else s.req.config.channelMap).get e.channel
      let become (x : TriggerState) := s.trig.table.map fun y => if y.id = e.id then { y with state := x } else y
      let run := s.trig.pulses.map fun x => { x with left := x.left - n }
      TimePasses n s t ∧ t.req.pending.get .trigger = true ∧ t.trig.firingMap = s.req.config.channelMap ∧
        (timed s = true → t.trig.table = become (.fired (decide (s.time.state = .holdover))) ∧
          t.trig.pulses = if mask = 0 then run else run ++ [⟨mask, 64 - (s.clock.tick + n - k)⟩]) ∧
        (timed s = false → t.trig.table = become (.missed .noTime) ∧ t.trig.pulses = run)) ∧
    (∀ n, nextPulseEnd s = some n → s.clock.tick + n < 7936 →
      ∃ u, TimePasses n s u ∧ exec .triggerPulseEnd s =
        .next { u with trig := { u.trig with pulses := u.trig.pulses.filter fun x => decide (0 < x.left) } }) ∧
    (∀ i n, n < 16 → exec (.triggerInputEdge i n) s = .next s) ∧
    (∀ (i : InputId) (n lead channel : Nat) (x : InputLine), 16 ≤ n → s.trig.inputs.get i = x →
      (x.arm = .oneShot lead channel ∨ x.arm = .repeated lead channel none) → (timed s = false ∨ s.req.config.frameId = 0) →
      ∃ t, exec (.triggerInputEdge i n) s = .next t ∧
        t.trig = { s.trig with inputs := s.trig.inputs.set i { x with ignored := min 65535 (x.ignored + 1) } } ∧
        noticesSet [.trigger] s t ∧ changesOnly [.trig, .req] s t) ∧
    ∀ (i : InputId) (n lead channel : Nat) (x : InputLine), 16 ≤ n → n ≤ s.clock.tick → s.trig.inputs.get i = x →
      (x.arm = .oneShot lead channel ∨ x.arm = .repeated lead channel none) → timed s = true → s.req.config.frameId ≠ 0 →
      s.trig.table.length < 32 → 32 ≤ lead → lead ≤ 65535 → onTime (now s) s.trig.table →
      let id : TriggerId := ⟨s.req.config.frameId, nextTriggerSerial s⟩
      let fire : RackTime := ⟨s.clock.epoch + BitVec.ofNat 48 lead, s.clock.tick - n⟩
      ∃ t, exec (.triggerInputEdge i n) s = .next t ∧
        t.trig = { s.trig with
          serial := nextTriggerSerial s, table := insertBy entryBefore ⟨id, fire, channel, .armed⟩ s.trig.table
          inputs := s.trig.inputs.set i { x with
            arm :=
              match x.arm with
              | .repeated l c _ => .repeated l c (some ⟨s.clock.epoch + 1, s.clock.tick - n⟩)
              | _ => .disarmed } } ∧
        (∀ p, t.port p =
          if (s.port p).state = .admitted ∧ (s.port p).floodQueue.length < 8 then
            { s.port p with floodQueue := (s.port p).floodQueue ++ [.trigger ⟨id, fire, channel⟩] }
          else s.port p) ∧
        t.req.pending.get .trigger = true ∧ noticesOnly s t ∧ changesOnly [.ports, .trig, .captures, .req] s t

/-! ### The part's own counts and timers -/

/-- PRESENCE_QUALIFIED, TRAINING_PAUSE and TRAINING_PAUSE_END at the tops of their counts, and nothing below them: the
presence flag is set and a port in DOWN enters TRAINING with a PORT notice; the pause of 32 epochs gives up symbol lock;
its end goes back to the locking phase. Symbol lock in TRAINING: gained in the locking phase it starts the recognizer's
search, and lost it stops the recognizer and clears the miss count; in later states only the lock itself changes, and in
DOWN or the pause phase none is gained. Symbol errors short of the sixteenth, or past it, are counted and no more; the
sixteenth in TRAINING takes the lock. Counts stop at their ends, the symbol errors have no bound, and a mark that MARKER_LOSS
is due goes with the miss count, as that of a delay jump goes with the port's state (the model's choice, log entries 3, 39 and
49). -/
def Obligations.TrainingAndSymbolLock : Prop :=
  (∀ (s : State) (p : PortId), s.pins.reset = false →
    ((s.port p).presence.qualified = false → 32 ≤ (s.port p).presence.present → (s.port p).state = .down →
      exec (.presenceQualified p) s = .next (raise .port (s.setPort p { s.port p with
        presence := ⟨true, 0, 0⟩, state := .training, reason := none, jumpStands := false
        training := some (.locking 0) }))) ∧
    ((s.port p).presence.qualified = false → 32 ≤ (s.port p).presence.present → (s.port p).state ≠ .down →
      exec (.presenceQualified p) s = .next (s.setPort p { s.port p with presence := ⟨true, 0, 0⟩ })) ∧
    ((s.port p).presence.qualified = true ∨ (s.port p).presence.present < 32 →
      exec (.presenceQualified p) s = .next s) ∧
    (∀ n, (s.port p).state = .training → (s.port p).training = some (.locking n) → 256 ≤ n →
      exec (.trainingPause p) s = .next (s.setPort p { s.port p with
        training := some (.pause 32), symbolLock := false, recognizer := ⟨0, none, []⟩, missCount := 0
        lossDue := false })) ∧
    ((s.port p).state = .training → (s.port p).training = some (.pause 0) →
      exec (.trainingPauseEnd p) s = .next (s.setPort p { s.port p with training := some (.locking 0) })) ∧
    (∀ n, (s.port p).training = some (.locking n) → n < 256 → exec (.trainingPause p) s = .next s) ∧
    ∀ n, (s.port p).training = some (.pause (n + 1)) → exec (.trainingPauseEnd p) s = .next s) ∧
  (∀ (s : State) (p : PortId), s.pins.reset = false →
    (∀ n, (s.port p).state = .training → (s.port p).training = some (.locking n) →
      exec (.symbolLockGained p) s =
        .next (s.setPort p { s.port p with symbolLock := true, recognizer := ⟨0, none, []⟩ })) ∧
    ((s.port p).state = .down ∨ ((s.port p).state = .training ∧ ∃ n, (s.port p).training = some (.pause n)) →
      exec (.symbolLockGained p) s = .next s) ∧
    ((s.port p).state ∈ [.probing, .up, .admitted, .draining, .fault] →
      exec (.symbolLockGained p) s = .next (s.setPort p { s.port p with symbolLock := true })) ∧
    ((s.port p).symbolLock = false → exec (.symbolLockLost p) s = .next s) ∧
    ((s.port p).state = .training → (s.port p).symbolLock = true →
      exec (.symbolLockLost p) s =
        .next (s.setPort p
          { s.port p with symbolLock := false, recognizer := ⟨0, none, []⟩, missCount := 0, lossDue := false })) ∧
    ((s.port p).state ∈ [.probing, .up, .admitted, .draining, .fault] → (s.port p).symbolLock = true →
      exec (.symbolLockLost p) s = .next (s.setPort p { s.port p with symbolLock := false })) ∧
    (∀ n, (s.port p).state = .down → exec (.symbolBurst p n) s = .next s) ∧
    (∀ n, (s.port p).state ≠ .down → ((s.port p).symbolErrors + n < 16 ∨ 16 ≤ (s.port p).symbolErrors) →
      exec (.symbolBurst p n) s = .next (s.setPort p { s.port p with symbolErrors := (s.port p).symbolErrors + n })) ∧
    ∀ n, (s.port p).state = .training → (s.port p).symbolErrors < 16 → 16 ≤ (s.port p).symbolErrors + n →
      exec (.symbolBurst p n) s = .next (s.setPort p { s.port p with
        symbolErrors := (s.port p).symbolErrors + n, symbolLock := false, recognizer := ⟨0, none, []⟩, missCount := 0
        lossDue := false }))

/-- The announce timer that has reached 0 reloads with an own announce, whatever was announced since; an entry of age 1024 becomes LOST with a DIRECTORY notice, and the
election is evaluated; an election hold whose timer is 0 ends, and the election is evaluated without it: an outcome other than
the one last handed is handed with a DIRECTORY notice. Each does that and nothing else. The timers and the age stand at their ends, the first with a
mark (the model's choice, log entries 3 and 49).
-/
def Obligations.DirectoryTimers : Prop :=
  ∀ s : State, s.pins.reset = false →
    (s.dir.announceDue = true → exec .announceTimerExpiry s =
      .next (announceAdvancing { s with dir := { s.dir with announceTimer := 256, announceDue := false } })) ∧
    (s.dir.announceDue = false → exec .announceTimerExpiry s = .next s) ∧
    (∀ (x : FrameId) (e : DirEntry), entryOf s x = some e → e.state ≠ .lost → 1024 ≤ e.age →
      let u := raise .directory { s with dir := { s.dir with
        entries := s.dir.entries.map fun y => if y.frame = x then { y with state := .lost } else y } }
      exec (.entryAgedOut x) s = .next (evaluate u) ∧ electionSettled (evaluate u) ∧
        (evaluate u).req.pending.get .directory = true ∧ TimingEffects u (evaluate u)) ∧
    ∀ x, s.dir.hold = some ⟨0, x⟩ →
      let u := { s with dir := { s.dir with hold := none } }
      exec .electionHoldEnd s = .next (evaluate u) ∧ electionSettled (evaluate u) ∧ TimingEffects u (evaluate u) ∧
        ((electionOutcome u).1 = u.time.result →
          evaluate u = { u with dir := { u.dir with hold := (electionOutcome u).2 } }) ∧
        ((electionOutcome u).1 ≠ u.time.result → (evaluate u).req.pending.get .directory = true)

/-- The timing counts at their tops, where the outcome of the election stands: ACQUIRING locks at 64 near observations;
four unusable ones turn LOCKED to HOLDOVER and ACQUIRING to FREE; 16 far ones turn LOCKED to ACQUIRING, with a loss of time:
every record in service SUSPENDED with TIME_LOST, its slots free, and a BREAK both ways; HOLDOVER expires to FREE, with the
same; four observations in HOLDOVER relock, or go to ACQUIRING when the
last was far or had another epoch number. The counts stand at their tops (the model's choice, log entry 3). -/
def Obligations.TimingCountsFull : Prop :=
  ∀ s : State, s.pins.reset = false →
    let becomes (c : Instr) (x : TimingState) (t : State) : Prop :=
      exec c s = .next t ∧ t.time.state = x ∧ t.time.role = s.time.role ∧ t.time.port = s.time.port ∧
        t.time.result = s.time.result ∧ t.req.pending.get .timing = true ∧ TimingEffects s t
    let lost (t : State) : Prop := RecordsInv s.streams.records → TimeLost s t
    (s.time.state = .acquiring → 64 ≤ s.time.counts.near → electionStands .locked s → ∃ t, becomes .nearCountFull .locked t) ∧
    (s.time.state = .locked → s.time.role = .follower → 4 ≤ s.time.counts.unusable → electionStands .holdover s →
      s.req.config.holdoverLimit ≠ 0 →
      ∃ t, becomes .unusableCountFull .holdover t ∧ t.time.holdoverTimer = some s.req.config.holdoverLimit) ∧
    (s.time.state = .acquiring → s.time.role = .follower → 4 ≤ s.time.counts.unusable → electionStands .free s →
      ∃ t, becomes .unusableCountFull .free t) ∧
    (s.time.state = .locked → s.time.role = .follower → 16 ≤ s.time.counts.far → electionStands .acquiring s →
      ∃ t, becomes .farCountFull .acquiring t ∧ lost t) ∧
    (s.time.state = .holdover → s.time.holdoverTimer = some 0 → electionStands .free s →
      ∃ t, becomes .holdoverExpiry .free t ∧ lost t) ∧
    (∀ o, s.time.state = .holdover → 4 ≤ s.time.counts.back → s.time.lastPhase = some o → o.mismatch = false →
      o.error.natAbs ≤ 64 → electionStands .locked s →
      ∃ t, becomes .returnCountFull .locked t ∧
        (s.time.role = .follower → t.time.pending = some (.correction (max (-4) (min 4 o.error))))) ∧
    ∀ o, s.time.state = .holdover → 4 ≤ s.time.counts.back → s.time.lastPhase = some o →
      (o.mismatch = true ∨ 64 < o.error.natAbs) → electionStands .acquiring s →
      ∃ t, becomes .returnCountFull .acquiring t ∧ lost t ∧ t.time.pending =
        some (if o.mismatch = true ∨ 1024 < o.error.natAbs then .step o.start o.number
          else .correction (max (-4) (min 4 o.error)))

/-- The timers of a record at 0. Setup: an origin's first attempt is CLOSED with SETUP_TIMEOUT, a re-route attempt is
SUSPENDED again, a hop's record is gone with a REFUSE toward the origin; a RELEASE goes downstream each time. Suspension:
an origin is CLOSED with EXPIRED and loses its sinks, with a RELEASE downstream; any other record is gone. Retune at a hop:
SUSPENDED with RETUNE_TIMEOUT, and a BREAK both ways. The reroute retry timer of a SUSPENDED origin at 0: it waits another 64 epochs while the part is not timed
or is departing; a loopback is ACTIVE again in its next generation; an origin with a route over p and room there is
PENDING in its next generation, with its C slots on p and its old path length, and has offered a SETUP. The timers stand at
their ends, and the path length stays (the model's choices, log entries 3 and 70). -/
def Obligations.RecordTimers : Prop :=
  (∀ (s : State) (i : Nat) (r : StreamRecord), s.pins.reset = false → RecordsInv s.streams.records →
    recordAt s i = some r →
    let release : Msg := .release r.id r.gen
    let freed (m : List SlotEntry) : List SlotEntry := m.filter fun e => e.record != i
    let offers (t : State) (slots : List SlotEntry → List SlotEntry) (up down : List Msg) : Prop :=
      ∀ p, (takesOffers (s.port p).state = true ∧ (s.port p).protocolQueue.length < 19 ∨
          (r.ingress ≠ .port p ∧ r.egress ≠ some p)) →
        t.port p = { s.port p with
          slotMap := if r.egress = some p then slots (s.port p).slotMap else (s.port p).slotMap
          protocolQueue := (s.port p).protocolQueue ++ (if r.ingress = .port p then up else []) ++
            if r.egress = some p then down else [] }
    (r.state = .pending → r.setupTimer = some 0 → isOrigin r = true → r.suspendTimer = none →
      ∃ t, exec (.setupTimerExpiry i) s = .next t ∧ otherRecordsKept i s t ∧ StreamEffects s t ∧
        recordAt t i = some { r with
          state := .closed, reason := some .setupTimeout, refusing := none, retuneCause := none, setupTimer := none
          retuneTimer := none, rerouteTimer := none, queue := [], changed := true } ∧ offers t freed [] [release]) ∧
    (∀ n, r.state = .pending → r.setupTimer = some 0 → isOrigin r = true → r.suspendTimer = some n →
      ∃ t, exec (.setupTimerExpiry i) s = .next t ∧ otherRecordsKept i s t ∧ StreamEffects s t ∧
        recordAt t i = some { suspended .timeout r with changed := true } ∧ offers t (keepSlots r.cells i) [] [release]) ∧
    (r.state = .pending → r.setupTimer = some 0 → isOrigin r = false →
      ∃ t, exec (.setupTimerExpiry i) s = .next t ∧ otherRecordsKept i s t ∧ StreamEffects s t ∧ recordAt t i = none ∧
        t.sinks = s.sinks.filter (fun y => !r.sinks.contains y.index) ∧
        offers t freed [.refuse r.id r.gen .timeout s.req.config.frameId] [release]) ∧
    (r.state = .suspended ∨ r.state = .pending → r.suspendTimer = some 0 → isOrigin r = true →
      ∃ t, exec (.suspendTimerExpiry i) s = .next t ∧ otherRecordsKept i s t ∧ StreamEffects s t ∧
        recordAt t i = some { r with
          state := .closed, reason := some .expired, refusing := none, retuneCause := none, setupTimer := none
          retuneTimer := none, suspendTimer := none, rerouteTimer := none, queue := [], sinks := [], changed := true } ∧
        t.sinks = s.sinks.filter (fun y => !r.sinks.contains y.index) ∧ offers t freed [] [release]) ∧
    (r.state = .suspended → r.suspendTimer = some 0 → isOrigin r = false →
      ∃ t, exec (.suspendTimerExpiry i) s = .next t ∧ otherRecordsKept i s t ∧ StreamEffects s t ∧ recordAt t i = none ∧
        t.sinks = s.sinks.filter (fun y => !r.sinks.contains y.index) ∧ offers t freed [] []) ∧
    (r.state = .retuning → r.retuneTimer = some 0 → isOrigin r = false →
      ∃ t, exec (.hopRetuneTimeout i) s = .next t ∧ otherRecordsKept i s t ∧ StreamEffects s t ∧
        recordAt t i = some { suspended .retuneTimeout r with changed := true } ∧
        offers t (keepSlots r.cells i) [breakOf r .retuneTimeout .towardOrigin]
          [breakOf r .retuneTimeout .towardTerminus])) ∧
  (∀ (s : State) (i : Nat) (r : StreamRecord), s.pins.reset = false → RecordsInv s.streams.records →
    recordAt s i = some r → isOrigin r = true → r.state = .suspended → r.rerouteTimer = some 0 →
    (timed s = false ∨ s.swap.departure ≠ .inService →
      ∃ t, exec (.rerouteRetryExpiry i) s = .next t ∧ recordBecomes i (fun r => { r with rerouteTimer := some 64 }) s t ∧
        changesOnly [.streams] s t) ∧
    (timed s = true → s.swap.departure = .inService → r.role = .loopback →
      ∃ t, exec (.rerouteRetryExpiry i) s = .next t ∧
        recordAt t i = some { r with
          gen := r.gen + 1, state := .active, activation := some s.streams.activations, setupTimer := none
          suspendTimer := none, rerouteTimer := none, queue := [], changed := true } ∧
        t.streams.activations = s.streams.activations + 1 ∧ otherRecordsKept i s t ∧ noticesSet [.stream] s t ∧
        changesOnly [.streams, .req] s t) ∧
    ∀ (p : PortId) (d : Nat), timed s = true → s.swap.departure = .inService → r.role = .origin →
      routeTo s r.terminal = .route p d → d + 1 ≤ r.budget → (s.port p).slotMap.length ≤ usableCount (s.port p).delay →
      r.cells ≤ freeUsable s p + (if r.egress = some p then slotsHeld s r else 0) →
      (r.egress = some p ∨ slotsNaming i (s.port p).slotMap = []) → (s.port p).protocolQueue.length < 16 →
      ∃ t, exec (.rerouteRetryExpiry i) s = .next t ∧
        recordAt t i = some { r with
          gen := r.gen + 1, egress := some p, state := .pending, setupTimer := some 512, rerouteTimer := none
          changed := true } ∧
        otherRecordsKept i s t ∧ (slotsNaming i (t.port p).slotMap).length = r.cells ∧
        (t.port p).protocolQueue = (s.port p).protocolQueue ++
          [.setup { id := r.id, gen := r.gen + 1, terminal := r.terminal, hop := 0, rate := BitVec.ofNat 32 r.rate
                    sampleBytes := BitVec.ofNat 8 r.sampleBytes, cells := BitVec.ofNat 8 r.cells
                    budget := BitVec.ofNat 8 r.budget }] ∧
        StreamEffects s t ∧ t.req.pending.get .stream = true)

/-- The epochs of a retune and of delivery. A record whose switch epoch has begun takes its new demand and is ACTIVE, its slots
down to a smaller C; its queue then loses its newest cells down to the new bound, which an origin counts as overruns and a
transit hop captures one by one as TRANSIT_OVERFLOW; a sink whose settle epoch has begun takes the reservation for the record's C; a sink releases the held
cells whose release epoch is not ahead by 1 to 32, in order, with the late flag on those far ahead, while no block ends; a
CONTINUOUS sink whose block ends with its cell is DONE and begins the next block. The model's: the oldest lost cell is captured
first, a sink settles at once where its settle epoch has begun, to the record's C as it is also where the record's switch falls
due with it, an epoch half the span away has begun, a cell that is due does not wait for one of lower sequence, and switch,
settling and release act whenever they are due, also within an epoch (log entries 55, 56, 72, 71, 61 and 74). -/
def Obligations.EpochsOfRecords : Prop :=
  ∀ s : State, s.pins.reset = false →
    (∀ (r : StreamRecord) (d : Staged) (e : Epoch), RecordsInv s.streams.records → recordAt s r.index = some r →
      r.state = .retuning → r.staged = some d → r.switchEpoch = some e →
      ahead (e + BitVec.ofNat 48 (r.hop + 1)) s.clock.epoch = false →
      let bound := match r.role with
        | .origin => 2 * d.cells
        | .transit => 2 * min d.cells (slotsHeld s r)
        | .terminus | .loopback => 0
      let kept := if d.cells < r.cells then r.queue.take bound else r.queue
      ∃ t, exec (.retuneSwitch r.index) s = .next t ∧
        recordAt t r.index = some { r with
          state := .active, cells := d.cells, rate := d.rate, staged := none, switchEpoch := none, retuneTimer := none
          queue := kept
          source :=
            if r.role = .origin then r.source.map fun o =>
              { o with overrunCount := min 65535 (o.overrunCount + (r.queue.length - kept.length)) }
            else r.source
          changed := true } ∧
        (∀ p, t.port p = { s.port p with
          slotMap :=
            if r.egress = some p ∧ d.cells < r.cells then keepSlots d.cells r.index (s.port p).slotMap
            else (s.port p).slotMap }) ∧
        (∀ p, t.captures.port.get p =
          if r.role = .transit ∧ r.egress = some p then
            (r.queue.drop kept.length).foldl (fun x c => takeInto x
              ⟨.transitOverflow, s.clock.epoch, none, some c.id, .overflow c.sequence true⟩) (s.captures.port.get p)
          else s.captures.port.get p) ∧
        t.captures.lane = s.captures.lane ∧ t.captures.protocol = s.captures.protocol ∧
        (r.role ≠ .transit → noticesSet [.stream] s t) ∧ t.req.pending.get .stream = true ∧ noticesOnly s t ∧
        otherRecordsKept r.index s t ∧ changesOnly [.ports, .streams, .captures, .req] s t) ∧
    (∀ (k : Nat) (x : Sink) (r : StreamRecord) (e : Epoch), sinkAt s k = some x → recordAt s x.record = some r →
      x.settle = some e → ahead e s.clock.epoch = false →
      x.held.length + x.released.length ≤ r.cells * (r.budget + 1 - x.hop) →
      ∃ t, exec (.sinkSettle k) s = .next t ∧
        sinkAt t k = some { x with settle := none, reservation := r.cells * (r.budget + 1 - x.hop) } ∧
        (∀ j, j ≠ k → sinkAt t j = sinkAt s j) ∧ noticesOnly s t ∧ changesOnly [.sinks, .req] s t) ∧
    (∀ (k : Nat) (x : Sink) (r : StreamRecord) (b : Seq), sinkAt s k = some x → recordAt s x.record = some r →
      x.state = .running → x.blockStart = some b →
      (∀ c ∈ x.held, ahead (b + BitVec.ofNat 16 (x.blockSize - 1)) c.sequence = true) →
      let low : Seq := s.clock.epoch.setWidth 16
      ∃ t x', exec (.cellRelease k) s = .next t ∧ sinkAt t k = some x' ∧ x'.held = x.held.filter (staysHeld low r.budget) ∧
        x'.released = x.released ++ (x.held.filter fun c => !staysHeld low r.budget c).map (fun c =>
          { c with late := decide (32 < releaseIn low r.budget c) }) ∧
        x'.blockStart = some b ∧ x'.done = x.done ∧ x'.state = .running ∧ (∀ j, j ≠ k → sinkAt t j = sinkAt s j) ∧
        noticesOnly s t ∧ changesOnly [.sinks, .req] s t) ∧
    ∀ (k : Nat) (x : Sink) (b : Seq) (c : SinkCell), sinkAt s k = some x → x.state = .running → x.mode = .continuous →
      x.blockStart = some b → x.held = [c] → c.sequence = b + BitVec.ofNat 16 (x.blockSize - 1) →
      releaseIn (s.clock.epoch.setWidth 16) (budgetOf s x) c = 0 →
      ∃ t, exec (.cellRelease k) s = .next t ∧
        sinkAt t k = some { x with
          held := [], released := x.released ++ [{ c with late := false }], done := true
          blockStart := some (b + BitVec.ofNat 16 x.blockSize) } ∧
        (x.done = false → t.req.pending.get .sink = true) ∧ noticesOnly s t ∧ changesOnly [.sinks, .req] s t

/-! ### The lanes -/

/-- LANE_PUSH. ACCEPT: the record's next sequence and the current epoch are stamped, the cell is queued at an origin with an
egress port, every sink of the record takes a copy, and no other sink changes. UNKNOWN and FORMAT make a lane capture, FULL an overrun count, HELD
nothing. That an origin's switch epoch exactly half the span away has begun is the model's (log entry 71). -/
def Obligations.PushAnswered : Prop :=
  ∀ (s : State) (l : LaneId) (id : StreamId) (n : Byte) (payload : List Byte), s.pins.reset = false →
    payload.length = 116 →
    (boundRecord s l id = none →
      ∃ t, exec (.lanePush l id n payload) s = .next t ∧ t.lane = .push l .unknown ∧
        (s.captures.lane.held = none →
          t.captures.lane.held = some ⟨.unknown, s.clock.epoch, none, some id, .lane l⟩) ∧
        changesOnly [.captures, .req, .lane] s t) ∧
    ∀ r, boundRecord s l id = some r →
      (n = 0 ∨ 116 / r.sampleBytes < n.toNat →
        ∃ t, exec (.lanePush l id n payload) s = .next t ∧ t.lane = .push l .format ∧
          (s.captures.lane.held = none →
            t.captures.lane.held = some ⟨.format, s.clock.epoch, none, some id, .laneSamples l n⟩) ∧
          changesOnly [.captures, .req, .lane] s t) ∧
      (n ≠ 0 → n.toNat ≤ 116 / r.sampleBytes → r.state ∉ [.active, .retuning] →
        exec (.lanePush l id n payload) s = .next { s with lane := .push l .held }) ∧
      (n ≠ 0 → n.toNat ≤ 116 / r.sampleBytes → r.state ∈ [.active, .retuning] → r.egress ≠ none →
        2 * acceptingCells s r ≤ r.queue.length →
        ∃ t, exec (.lanePush l id n payload) s = .next t ∧ t.lane = .push l .full ∧
          recordBecomes r.index (fun r =>
            { r with source := r.source.map fun o => { o with overrunCount := min 65535 (o.overrunCount + 1) } }) s t ∧
          changesOnly [.streams, .lane] s t) ∧
      (n ≠ 0 → n.toNat ≤ 116 / r.sampleBytes → r.state ∈ [.active, .retuning] →
        (r.egress = none ∨ r.queue.length < 2 * acceptingCells s r) →
        ∃ t, exec (.lanePush l id n payload) s = .next t ∧ t.lane = .push l .accept ∧
          recordBecomes r.index (fun r =>
            { r with
              source := r.source.map fun o => { o with nextSequence := o.nextSequence + 1 }
              queue := r.queue ++ (if r.egress.isSome then
                [⟨r.id, r.gen, nextSequence r, s.clock.epoch.setWidth 16, n, false, payload, s.clock.epoch⟩] else []) })
            s t ∧
          sinksTake r ⟨nextSequence r, s.clock.epoch.setWidth 16, n, false, false, payload⟩ s t ∧ noticesOnly s t ∧
          changesOnly [.streams, .sinks, .req, .lane] s t)

/-- A pull is FORMAT for a count outside 1..8, UNKNOWN without a sink of the stream on the lane, EMPTY for an empty released
list, and otherwise passes the oldest released cells, up to the count, which leave the list. An acknowledgement is UNKNOWN as
a pull is, and otherwise OK: DONE and OVERRUN clear in every mode, and a HALTED PACED sink runs again at the nearest block
boundary not behind its expected sequence. Neither makes a capture. That the boundaries are counted forward from the block start
modulo 65536, also where the expected sequence is more than 32767 past it and a signed comparison has it behind, is the model's
choice and not the spec's (log entry 62). -/
def Obligations.PullAndAcknowledge : Prop :=
  ∀ (s : State) (l : LaneId) (id : StreamId) (n : Byte), s.pins.reset = false →
    (n = 0 ∨ 8 < n.toNat → exec (.lanePull l id n) s = .next { s with lane := .pull l .format }) ∧
    (1 ≤ n.toNat → n.toNat ≤ 8 → laneSink s l id = none →
      exec (.lanePull l id n) s = .next { s with lane := .pull l .unknown }) ∧
    (∀ x, 1 ≤ n.toNat → n.toNat ≤ 8 → laneSink s l id = some x → x.released = [] →
      exec (.lanePull l id n) s = .next { s with lane := .pull l .empty }) ∧
    (∀ x, 1 ≤ n.toNat → n.toNat ≤ 8 → laneSink s l id = some x → x.released ≠ [] →
      ∃ t, exec (.lanePull l id n) s = .next t ∧ t.lane = .pull l (.cells (x.released.take n.toNat)) ∧
        sinkBecomes x.index (fun x => { x with released := x.released.drop n.toNat }) s t ∧
        changesOnly [.sinks, .lane] s t) ∧
    (laneSink s l id = none →
      exec (.laneAcknowledgement l id) s = .next { s with lane := .acknowledgement l false }) ∧
    ∀ x, laneSink s l id = some x →
      ∃ t, exec (.laneAcknowledgement l id) s = .next t ∧ t.lane = .acknowledgement l true ∧
        sinkBecomes x.index acknowledge s t ∧ changesOnly [.sinks, .lane] s t ∧
        (acknowledge x).done = false ∧ (acknowledge x).overrun = false ∧
        (acknowledge x).held = x.held ∧ (acknowledge x).released = x.released ∧
        (¬(x.mode = .paced ∧ x.state = .halted) → acknowledge x = { x with done := false, overrun := false }) ∧
        (x.mode = .paced → x.state = .halted → (acknowledge x).state = .running) ∧
        ∀ b e, x.mode = .paced → x.state = .halted → x.blockStart = some b → x.expected = some e →
          1 ≤ x.blockSize → x.blockSize ≤ 4096 →
          ∃ k : Nat, (acknowledge x).blockStart = some (b + BitVec.ofNat 16 (x.blockSize * k)) ∧
            (e - b).toNat ≤ x.blockSize * k ∧ x.blockSize * k < (e - b).toNat + x.blockSize

/-! ### Slots taken back and moved -/

/-- The re-pack of an ADMITTED port. While its slots outnumber its U, records are taken: SUSPENDED ones that hold slots, then
PENDING ones, each from the highest index down, then ACTIVE and RETUNING ones from the newest activation order on; no record is
taken once the number fits. One taken in service is SUSPENDED with CAPACITY and breaks both ways; one SUSPENDED loses its slots
alone; any other record stands. Then slots above U + 1 move, for the records in the reverse order, each to the lowest free slot
of 2..U + 1; no other slot of a record that was not taken changes. A delay record that takes a value with another U leads to
it, and one with the same U does not. It runs for a larger U too, where it finds nothing to do (log entry 37). -/
def Obligations.PortRepacked : Prop :=
  (∀ (p : PortId) (s : State), Inv s → ordersCompare s → (s.port p).state = .admitted →
    let u := usableCount (s.port p).delay
    let t := repack p s
    ∃ took : StreamRecord → Bool,
      (∀ r ∈ s.streams.records, took r = true → repackStep s p r ≠ none) ∧
      (∀ a ∈ s.streams.records, ∀ b ∈ s.streams.records, took b = true → takenFirst s p a b → took a = true) ∧
      (∀ b ∈ s.streams.records, took b = true → ∃ before : StreamRecord → Bool,
        (∀ a ∈ s.streams.records, (before a = true ↔ took a = true ∧ takenFirst s p a b)) ∧
          u < (slotsLeft before s p).length) ∧
      ((slotsLeft took s p).length ≤ u ∨ ∀ r ∈ s.streams.records, repackStep s p r ≠ none → took r = true) ∧
      sameRecords s t ∧
      (∀ r ∈ s.streams.records, took r = true → inService r = true →
        standsSuspended .capacity r t ∧ toldOn (upstream r) (breakOf r .capacity .towardOrigin) s t ∧
          toldOn (downstream r) (breakOf r .capacity .towardTerminus) s t) ∧
      (∀ r ∈ s.streams.records, took r = true → r.state = .suspended → recordAt t r.index = some { r with changed := true }) ∧
      (∀ r ∈ s.streams.records, took r = false → recordAt t r.index = some r) ∧
      rising ((t.port p).slotMap.map (·.slot)) ∧
      (∀ i, (slotsNaming i (t.port p).slotMap).length = (slotsNaming i (slotsLeft took s p)).length) ∧
      (∀ e ∈ slotsLeft took s p, e.slot ≤ u + 1 → e ∈ (t.port p).slotMap) ∧
      (∀ e ∈ (t.port p).slotMap, e ∉ slotsLeft took s p →
        e.slot ≤ u + 1 ∧ ∀ n, 2 ≤ n → n < e.slot → ∃ f ∈ (t.port p).slotMap, f.slot = n) ∧
      (∀ e ∈ (t.port p).slotMap, ∀ f ∈ (t.port p).slotMap, e ∉ slotsLeft took s p → f ∉ slotsLeft took s p →
        ∀ a b, recordAt s e.record = some a → recordAt s f.record = some b → takenFirst s p b a → e.slot < f.slot) ∧
      ((slotsLeft took s p).length ≤ u →
        ∀ e ∈ (t.port p).slotMap, ∀ r, recordAt s e.record = some r → repackStep s p r ≠ none → e.slot ≤ u + 1) ∧
      (∀ q, (t.port q).floodQueue = (s.port q).floodQueue ∧ (q ≠ p → (t.port q).slotMap = (s.port q).slotMap)) ∧
      StreamEffects s t) ∧
  ∀ (p : PortId) (x : DelayRecord) (s : State), ∃ u, u = s.setPort p { s.port p with delay := x, jumpStands := (u.port p).jumpStands } ∧
    setDelay p x s = if usableCount x = usableCount (s.port p).delay then u else repack p u
end

