-- ==== Sys2Proof/Laws/State.lean ====
section
/-! SUPPORT. One lemma per field and update of the state: what each of the elementary operations leaves as it was, and what
it writes. -/

namespace Sys2Proof

/-! ### Tables with one value per port, input line, channel and notice kind -/

@[simp] theorem PerPort.get_all {α : Type} (a : α) (p : PortId) : (PerPort.all a).get p = a := by
  fin_cases p <;> rfl

@[simp] theorem PerPort.get_set_self {α : Type} (t : PerPort α) (p : PortId) (a : α) : (t.set p a).get p = a := by
  fin_cases p <;> rfl

theorem PerPort.get_set_of_ne {α : Type} (t : PerPort α) {p q : PortId} (h : q ≠ p) (a : α) :
    (t.set p a).get q = t.get q := by
  fin_cases p <;> fin_cases q <;> first | rfl | exact absurd rfl h

theorem PerPort.get_set {α : Type} (t : PerPort α) (p q : PortId) (a : α) :
    (t.set p a).get q = if q = p then a else t.get q := by
  split
  · next h => subst h; simp
  · next h => exact PerPort.get_set_of_ne t h a

@[simp] theorem PerPort.get_map {α β : Type} (f : α → β) (t : PerPort α) (p : PortId) : (t.map f).get p = f (t.get p) := by
  fin_cases p <;> rfl

@[simp] theorem PerPort.set_get {α : Type} (t : PerPort α) (p : PortId) : t.set p (t.get p) = t := by
  fin_cases p <;> rfl

@[simp] theorem PerInput.get_all {α : Type} (a : α) (i : InputId) : (PerInput.all a).get i = a := by
  fin_cases i <;> rfl

theorem PerInput.get_set {α : Type} (t : PerInput α) (i j : InputId) (a : α) :
    (t.set i a).get j = if j = i then a else t.get j := by
  fin_cases i <;> fin_cases j <;> rfl

@[simp] theorem PerNotice.get_all {α : Type} (a : α) (k : NoticeKind) : (PerNotice.all a).get k = a := by
  cases k <;> rfl

theorem PerNotice.get_set {α : Type} (t : PerNotice α) (k j : NoticeKind) (a : α) :
    (t.set k a).get j = if j = k then a else t.get j := by
  cases k <;> cases j <;> rfl

theorem mem_allPorts (p : PortId) : p ∈ allPorts := by
  fin_cases p <;> decide

namespace Machine

/-! ### What an update leaves -/

@[simp] theorem State.setPort_pending (s : State) (p : PortId) (x : Port) : (s.setPort p x).pending = s.pending := rfl
@[simp] theorem State.setPort_inbox (s : State) (p : PortId) (x : Port) : (s.setPort p x).inbox = s.inbox := rfl
@[simp] theorem State.setPort_clock (s : State) (p : PortId) (x : Port) : (s.setPort p x).clock = s.clock := rfl
@[simp] theorem State.setPort_time (s : State) (p : PortId) (x : Port) : (s.setPort p x).time = s.time := rfl
@[simp] theorem State.setPort_dir (s : State) (p : PortId) (x : Port) : (s.setPort p x).dir = s.dir := rfl
@[simp] theorem State.setPort_swap (s : State) (p : PortId) (x : Port) : (s.setPort p x).swap = s.swap := rfl
@[simp] theorem State.setPort_trig (s : State) (p : PortId) (x : Port) : (s.setPort p x).trig = s.trig := rfl
@[simp] theorem State.setPort_streams (s : State) (p : PortId) (x : Port) : (s.setPort p x).streams = s.streams := rfl
@[simp] theorem State.setPort_sinks (s : State) (p : PortId) (x : Port) : (s.setPort p x).sinks = s.sinks := rfl
@[simp] theorem State.setPort_captures (s : State) (p : PortId) (x : Port) : (s.setPort p x).captures = s.captures := rfl
@[simp] theorem State.setPort_req (s : State) (p : PortId) (x : Port) : (s.setPort p x).req = s.req := rfl
@[simp] theorem State.setPort_lane (s : State) (p : PortId) (x : Port) : (s.setPort p x).lane = s.lane := rfl
@[simp] theorem State.setPort_pins (s : State) (p : PortId) (x : Port) : (s.setPort p x).pins = s.pins := rfl

@[simp] theorem State.setRecords_pending (s : State) (rs : List StreamRecord) : (s.setRecords rs).pending = s.pending := rfl
@[simp] theorem State.setRecords_inbox (s : State) (rs : List StreamRecord) : (s.setRecords rs).inbox = s.inbox := rfl
@[simp] theorem State.setRecords_ports (s : State) (rs : List StreamRecord) : (s.setRecords rs).ports = s.ports := rfl
@[simp] theorem State.setRecords_clock (s : State) (rs : List StreamRecord) : (s.setRecords rs).clock = s.clock := rfl
@[simp] theorem State.setRecords_time (s : State) (rs : List StreamRecord) : (s.setRecords rs).time = s.time := rfl
@[simp] theorem State.setRecords_dir (s : State) (rs : List StreamRecord) : (s.setRecords rs).dir = s.dir := rfl
@[simp] theorem State.setRecords_swap (s : State) (rs : List StreamRecord) : (s.setRecords rs).swap = s.swap := rfl
@[simp] theorem State.setRecords_trig (s : State) (rs : List StreamRecord) : (s.setRecords rs).trig = s.trig := rfl
@[simp] theorem State.setRecords_sinks (s : State) (rs : List StreamRecord) : (s.setRecords rs).sinks = s.sinks := rfl
@[simp] theorem State.setRecords_captures (s : State) (rs : List StreamRecord) : (s.setRecords rs).captures = s.captures := rfl
@[simp] theorem State.setRecords_req (s : State) (rs : List StreamRecord) : (s.setRecords rs).req = s.req := rfl
@[simp] theorem State.setRecords_lane (s : State) (rs : List StreamRecord) : (s.setRecords rs).lane = s.lane := rfl
@[simp] theorem State.setRecords_pins (s : State) (rs : List StreamRecord) : (s.setRecords rs).pins = s.pins := rfl

@[simp] theorem State.setTrig_pending (s : State) (t : TriggerUnit) : (s.setTrig t).pending = s.pending := rfl
@[simp] theorem State.setTrig_inbox (s : State) (t : TriggerUnit) : (s.setTrig t).inbox = s.inbox := rfl
@[simp] theorem State.setTrig_ports (s : State) (t : TriggerUnit) : (s.setTrig t).ports = s.ports := rfl
@[simp] theorem State.setTrig_clock (s : State) (t : TriggerUnit) : (s.setTrig t).clock = s.clock := rfl
@[simp] theorem State.setTrig_time (s : State) (t : TriggerUnit) : (s.setTrig t).time = s.time := rfl
@[simp] theorem State.setTrig_dir (s : State) (t : TriggerUnit) : (s.setTrig t).dir = s.dir := rfl
@[simp] theorem State.setTrig_swap (s : State) (t : TriggerUnit) : (s.setTrig t).swap = s.swap := rfl
@[simp] theorem State.setTrig_streams (s : State) (t : TriggerUnit) : (s.setTrig t).streams = s.streams := rfl
@[simp] theorem State.setTrig_sinks (s : State) (t : TriggerUnit) : (s.setTrig t).sinks = s.sinks := rfl
@[simp] theorem State.setTrig_captures (s : State) (t : TriggerUnit) : (s.setTrig t).captures = s.captures := rfl
@[simp] theorem State.setTrig_req (s : State) (t : TriggerUnit) : (s.setTrig t).req = s.req := rfl
@[simp] theorem State.setTrig_lane (s : State) (t : TriggerUnit) : (s.setTrig t).lane = s.lane := rfl
@[simp] theorem State.setTrig_pins (s : State) (t : TriggerUnit) : (s.setTrig t).pins = s.pins := rfl

@[simp] theorem State.setConfig_pending (s : State) (c : Config) : (s.setConfig c).pending = s.pending := rfl
@[simp] theorem State.setConfig_inbox (s : State) (c : Config) : (s.setConfig c).inbox = s.inbox := rfl
@[simp] theorem State.setConfig_ports (s : State) (c : Config) : (s.setConfig c).ports = s.ports := rfl
@[simp] theorem State.setConfig_clock (s : State) (c : Config) : (s.setConfig c).clock = s.clock := rfl
@[simp] theorem State.setConfig_time (s : State) (c : Config) : (s.setConfig c).time = s.time := rfl
@[simp] theorem State.setConfig_dir (s : State) (c : Config) : (s.setConfig c).dir = s.dir := rfl
@[simp] theorem State.setConfig_swap (s : State) (c : Config) : (s.setConfig c).swap = s.swap := rfl
@[simp] theorem State.setConfig_trig (s : State) (c : Config) : (s.setConfig c).trig = s.trig := rfl
@[simp] theorem State.setConfig_streams (s : State) (c : Config) : (s.setConfig c).streams = s.streams := rfl
@[simp] theorem State.setConfig_sinks (s : State) (c : Config) : (s.setConfig c).sinks = s.sinks := rfl
@[simp] theorem State.setConfig_captures (s : State) (c : Config) : (s.setConfig c).captures = s.captures := rfl
@[simp] theorem State.setConfig_lane (s : State) (c : Config) : (s.setConfig c).lane = s.lane := rfl
@[simp] theorem State.setConfig_pins (s : State) (c : Config) : (s.setConfig c).pins = s.pins := rfl

@[simp] theorem State.answerLane_pending (s : State) (a : LaneAnswer) : (s.answerLane a).pending = s.pending := rfl
@[simp] theorem State.answerLane_inbox (s : State) (a : LaneAnswer) : (s.answerLane a).inbox = s.inbox := rfl
@[simp] theorem State.answerLane_ports (s : State) (a : LaneAnswer) : (s.answerLane a).ports = s.ports := rfl
@[simp] theorem State.answerLane_clock (s : State) (a : LaneAnswer) : (s.answerLane a).clock = s.clock := rfl
@[simp] theorem State.answerLane_time (s : State) (a : LaneAnswer) : (s.answerLane a).time = s.time := rfl
@[simp] theorem State.answerLane_dir (s : State) (a : LaneAnswer) : (s.answerLane a).dir = s.dir := rfl
@[simp] theorem State.answerLane_swap (s : State) (a : LaneAnswer) : (s.answerLane a).swap = s.swap := rfl
@[simp] theorem State.answerLane_trig (s : State) (a : LaneAnswer) : (s.answerLane a).trig = s.trig := rfl
@[simp] theorem State.answerLane_streams (s : State) (a : LaneAnswer) : (s.answerLane a).streams = s.streams := rfl
@[simp] theorem State.answerLane_sinks (s : State) (a : LaneAnswer) : (s.answerLane a).sinks = s.sinks := rfl
@[simp] theorem State.answerLane_captures (s : State) (a : LaneAnswer) : (s.answerLane a).captures = s.captures := rfl
@[simp] theorem State.answerLane_req (s : State) (a : LaneAnswer) : (s.answerLane a).req = s.req := rfl
@[simp] theorem State.answerLane_pins (s : State) (a : LaneAnswer) : (s.answerLane a).pins = s.pins := rfl

@[simp] theorem State.setSlotMap_pending (s : State) (p : PortId) (m : List SlotEntry) : (s.setSlotMap p m).pending = s.pending := rfl
@[simp] theorem State.setSlotMap_inbox (s : State) (p : PortId) (m : List SlotEntry) : (s.setSlotMap p m).inbox = s.inbox := rfl
@[simp] theorem State.setSlotMap_clock (s : State) (p : PortId) (m : List SlotEntry) : (s.setSlotMap p m).clock = s.clock := rfl
@[simp] theorem State.setSlotMap_time (s : State) (p : PortId) (m : List SlotEntry) : (s.setSlotMap p m).time = s.time := rfl
@[simp] theorem State.setSlotMap_dir (s : State) (p : PortId) (m : List SlotEntry) : (s.setSlotMap p m).dir = s.dir := rfl
@[simp] theorem State.setSlotMap_swap (s : State) (p : PortId) (m : List SlotEntry) : (s.setSlotMap p m).swap = s.swap := rfl
@[simp] theorem State.setSlotMap_trig (s : State) (p : PortId) (m : List SlotEntry) : (s.setSlotMap p m).trig = s.trig := rfl
@[simp] theorem State.setSlotMap_streams (s : State) (p : PortId) (m : List SlotEntry) : (s.setSlotMap p m).streams = s.streams := rfl
@[simp] theorem State.setSlotMap_sinks (s : State) (p : PortId) (m : List SlotEntry) : (s.setSlotMap p m).sinks = s.sinks := rfl
@[simp] theorem State.setSlotMap_captures (s : State) (p : PortId) (m : List SlotEntry) : (s.setSlotMap p m).captures = s.captures := rfl
@[simp] theorem State.setSlotMap_req (s : State) (p : PortId) (m : List SlotEntry) : (s.setSlotMap p m).req = s.req := rfl
@[simp] theorem State.setSlotMap_lane (s : State) (p : PortId) (m : List SlotEntry) : (s.setSlotMap p m).lane = s.lane := rfl
@[simp] theorem State.setSlotMap_pins (s : State) (p : PortId) (m : List SlotEntry) : (s.setSlotMap p m).pins = s.pins := rfl

@[simp] theorem raise_pending (s : State) (k : NoticeKind) : (raise k s).pending = s.pending := rfl
@[simp] theorem raise_inbox (s : State) (k : NoticeKind) : (raise k s).inbox = s.inbox := rfl
@[simp] theorem raise_ports (s : State) (k : NoticeKind) : (raise k s).ports = s.ports := rfl
@[simp] theorem raise_clock (s : State) (k : NoticeKind) : (raise k s).clock = s.clock := rfl
@[simp] theorem raise_time (s : State) (k : NoticeKind) : (raise k s).time = s.time := rfl
@[simp] theorem raise_dir (s : State) (k : NoticeKind) : (raise k s).dir = s.dir := rfl
@[simp] theorem raise_swap (s : State) (k : NoticeKind) : (raise k s).swap = s.swap := rfl
@[simp] theorem raise_trig (s : State) (k : NoticeKind) : (raise k s).trig = s.trig := rfl
@[simp] theorem raise_streams (s : State) (k : NoticeKind) : (raise k s).streams = s.streams := rfl
@[simp] theorem raise_sinks (s : State) (k : NoticeKind) : (raise k s).sinks = s.sinks := rfl
@[simp] theorem raise_captures (s : State) (k : NoticeKind) : (raise k s).captures = s.captures := rfl
@[simp] theorem raise_lane (s : State) (k : NoticeKind) : (raise k s).lane = s.lane := rfl
@[simp] theorem raise_pins (s : State) (k : NoticeKind) : (raise k s).pins = s.pins := rfl

@[simp] theorem answer_pending (s : State) (st : Status) (b : Body) : (answer st b s).pending = s.pending := rfl
@[simp] theorem answer_inbox (s : State) (st : Status) (b : Body) : (answer st b s).inbox = s.inbox := rfl
@[simp] theorem answer_ports (s : State) (st : Status) (b : Body) : (answer st b s).ports = s.ports := rfl
@[simp] theorem answer_clock (s : State) (st : Status) (b : Body) : (answer st b s).clock = s.clock := rfl
@[simp] theorem answer_time (s : State) (st : Status) (b : Body) : (answer st b s).time = s.time := rfl
@[simp] theorem answer_dir (s : State) (st : Status) (b : Body) : (answer st b s).dir = s.dir := rfl
@[simp] theorem answer_swap (s : State) (st : Status) (b : Body) : (answer st b s).swap = s.swap := rfl
@[simp] theorem answer_trig (s : State) (st : Status) (b : Body) : (answer st b s).trig = s.trig := rfl
@[simp] theorem answer_streams (s : State) (st : Status) (b : Body) : (answer st b s).streams = s.streams := rfl
@[simp] theorem answer_sinks (s : State) (st : Status) (b : Body) : (answer st b s).sinks = s.sinks := rfl
@[simp] theorem answer_captures (s : State) (st : Status) (b : Body) : (answer st b s).captures = s.captures := rfl
@[simp] theorem answer_lane (s : State) (st : Status) (b : Body) : (answer st b s).lane = s.lane := rfl
@[simp] theorem answer_pins (s : State) (st : Status) (b : Body) : (answer st b s).pins = s.pins := rfl

@[simp] theorem refuseWith_pending (s : State) (r : RefusalReason) : (refuseWith r s).pending = s.pending := rfl
@[simp] theorem refuseWith_inbox (s : State) (r : RefusalReason) : (refuseWith r s).inbox = s.inbox := rfl
@[simp] theorem refuseWith_ports (s : State) (r : RefusalReason) : (refuseWith r s).ports = s.ports := rfl
@[simp] theorem refuseWith_clock (s : State) (r : RefusalReason) : (refuseWith r s).clock = s.clock := rfl
@[simp] theorem refuseWith_time (s : State) (r : RefusalReason) : (refuseWith r s).time = s.time := rfl
@[simp] theorem refuseWith_dir (s : State) (r : RefusalReason) : (refuseWith r s).dir = s.dir := rfl
@[simp] theorem refuseWith_swap (s : State) (r : RefusalReason) : (refuseWith r s).swap = s.swap := rfl
@[simp] theorem refuseWith_trig (s : State) (r : RefusalReason) : (refuseWith r s).trig = s.trig := rfl
@[simp] theorem refuseWith_streams (s : State) (r : RefusalReason) : (refuseWith r s).streams = s.streams := rfl
@[simp] theorem refuseWith_sinks (s : State) (r : RefusalReason) : (refuseWith r s).sinks = s.sinks := rfl
@[simp] theorem refuseWith_captures (s : State) (r : RefusalReason) : (refuseWith r s).captures = s.captures := rfl
@[simp] theorem refuseWith_lane (s : State) (r : RefusalReason) : (refuseWith r s).lane = s.lane := rfl
@[simp] theorem refuseWith_pins (s : State) (r : RefusalReason) : (refuseWith r s).pins = s.pins := rfl

@[simp] theorem takeMessage_pending (s : State) (p : PortId) (m : Msg) : (takeMessage p m s).pending = s.pending := rfl
@[simp] theorem takeMessage_ports (s : State) (p : PortId) (m : Msg) : (takeMessage p m s).ports = s.ports := rfl
@[simp] theorem takeMessage_clock (s : State) (p : PortId) (m : Msg) : (takeMessage p m s).clock = s.clock := rfl
@[simp] theorem takeMessage_time (s : State) (p : PortId) (m : Msg) : (takeMessage p m s).time = s.time := rfl
@[simp] theorem takeMessage_dir (s : State) (p : PortId) (m : Msg) : (takeMessage p m s).dir = s.dir := rfl
@[simp] theorem takeMessage_swap (s : State) (p : PortId) (m : Msg) : (takeMessage p m s).swap = s.swap := rfl
@[simp] theorem takeMessage_trig (s : State) (p : PortId) (m : Msg) : (takeMessage p m s).trig = s.trig := rfl
@[simp] theorem takeMessage_streams (s : State) (p : PortId) (m : Msg) : (takeMessage p m s).streams = s.streams := rfl
@[simp] theorem takeMessage_sinks (s : State) (p : PortId) (m : Msg) : (takeMessage p m s).sinks = s.sinks := rfl
@[simp] theorem takeMessage_captures (s : State) (p : PortId) (m : Msg) : (takeMessage p m s).captures = s.captures := rfl
@[simp] theorem takeMessage_req (s : State) (p : PortId) (m : Msg) : (takeMessage p m s).req = s.req := rfl
@[simp] theorem takeMessage_lane (s : State) (p : PortId) (m : Msg) : (takeMessage p m s).lane = s.lane := rfl
@[simp] theorem takeMessage_pins (s : State) (p : PortId) (m : Msg) : (takeMessage p m s).pins = s.pins := rfl

@[simp] theorem changePort_pending (s : State) (p : PortId) (x : PortState) (r : Option PortReason) : (changePort p x r s).pending = s.pending := rfl
@[simp] theorem changePort_inbox (s : State) (p : PortId) (x : PortState) (r : Option PortReason) : (changePort p x r s).inbox = s.inbox := rfl
@[simp] theorem changePort_clock (s : State) (p : PortId) (x : PortState) (r : Option PortReason) : (changePort p x r s).clock = s.clock := rfl
@[simp] theorem changePort_time (s : State) (p : PortId) (x : PortState) (r : Option PortReason) : (changePort p x r s).time = s.time := rfl
@[simp] theorem changePort_dir (s : State) (p : PortId) (x : PortState) (r : Option PortReason) : (changePort p x r s).dir = s.dir := rfl
@[simp] theorem changePort_swap (s : State) (p : PortId) (x : PortState) (r : Option PortReason) : (changePort p x r s).swap = s.swap := rfl
@[simp] theorem changePort_trig (s : State) (p : PortId) (x : PortState) (r : Option PortReason) : (changePort p x r s).trig = s.trig := rfl
@[simp] theorem changePort_streams (s : State) (p : PortId) (x : PortState) (r : Option PortReason) : (changePort p x r s).streams = s.streams := rfl
@[simp] theorem changePort_sinks (s : State) (p : PortId) (x : PortState) (r : Option PortReason) : (changePort p x r s).sinks = s.sinks := rfl
@[simp] theorem changePort_captures (s : State) (p : PortId) (x : PortState) (r : Option PortReason) : (changePort p x r s).captures = s.captures := rfl
@[simp] theorem changePort_lane (s : State) (p : PortId) (x : PortState) (r : Option PortReason) : (changePort p x r s).lane = s.lane := rfl
@[simp] theorem changePort_pins (s : State) (p : PortId) (x : PortState) (r : Option PortReason) : (changePort p x r s).pins = s.pins := rfl

@[simp] theorem editRecord_pending (s : State) (i : Nat) (f : StreamRecord → StreamRecord) : (editRecord i f s).pending = s.pending := rfl
@[simp] theorem editRecord_inbox (s : State) (i : Nat) (f : StreamRecord → StreamRecord) : (editRecord i f s).inbox = s.inbox := rfl
@[simp] theorem editRecord_ports (s : State) (i : Nat) (f : StreamRecord → StreamRecord) : (editRecord i f s).ports = s.ports := rfl
@[simp] theorem editRecord_clock (s : State) (i : Nat) (f : StreamRecord → StreamRecord) : (editRecord i f s).clock = s.clock := rfl
@[simp] theorem editRecord_time (s : State) (i : Nat) (f : StreamRecord → StreamRecord) : (editRecord i f s).time = s.time := rfl
@[simp] theorem editRecord_dir (s : State) (i : Nat) (f : StreamRecord → StreamRecord) : (editRecord i f s).dir = s.dir := rfl
@[simp] theorem editRecord_swap (s : State) (i : Nat) (f : StreamRecord → StreamRecord) : (editRecord i f s).swap = s.swap := rfl
@[simp] theorem editRecord_trig (s : State) (i : Nat) (f : StreamRecord → StreamRecord) : (editRecord i f s).trig = s.trig := rfl
@[simp] theorem editRecord_sinks (s : State) (i : Nat) (f : StreamRecord → StreamRecord) : (editRecord i f s).sinks = s.sinks := rfl
@[simp] theorem editRecord_captures (s : State) (i : Nat) (f : StreamRecord → StreamRecord) : (editRecord i f s).captures = s.captures := rfl
@[simp] theorem editRecord_req (s : State) (i : Nat) (f : StreamRecord → StreamRecord) : (editRecord i f s).req = s.req := rfl
@[simp] theorem editRecord_lane (s : State) (i : Nat) (f : StreamRecord → StreamRecord) : (editRecord i f s).lane = s.lane := rfl
@[simp] theorem editRecord_pins (s : State) (i : Nat) (f : StreamRecord → StreamRecord) : (editRecord i f s).pins = s.pins := rfl

@[simp] theorem changeRecord_pending (s : State) (i : Nat) (f : StreamRecord → StreamRecord) : (changeRecord i f s).pending = s.pending := rfl
@[simp] theorem changeRecord_inbox (s : State) (i : Nat) (f : StreamRecord → StreamRecord) : (changeRecord i f s).inbox = s.inbox := rfl
@[simp] theorem changeRecord_ports (s : State) (i : Nat) (f : StreamRecord → StreamRecord) : (changeRecord i f s).ports = s.ports := rfl
@[simp] theorem changeRecord_clock (s : State) (i : Nat) (f : StreamRecord → StreamRecord) : (changeRecord i f s).clock = s.clock := rfl
@[simp] theorem changeRecord_time (s : State) (i : Nat) (f : StreamRecord → StreamRecord) : (changeRecord i f s).time = s.time := rfl
@[simp] theorem changeRecord_dir (s : State) (i : Nat) (f : StreamRecord → StreamRecord) : (changeRecord i f s).dir = s.dir := rfl
@[simp] theorem changeRecord_swap (s : State) (i : Nat) (f : StreamRecord → StreamRecord) : (changeRecord i f s).swap = s.swap := rfl
@[simp] theorem changeRecord_trig (s : State) (i : Nat) (f : StreamRecord → StreamRecord) : (changeRecord i f s).trig = s.trig := rfl
@[simp] theorem changeRecord_sinks (s : State) (i : Nat) (f : StreamRecord → StreamRecord) : (changeRecord i f s).sinks = s.sinks := rfl
@[simp] theorem changeRecord_captures (s : State) (i : Nat) (f : StreamRecord → StreamRecord) : (changeRecord i f s).captures = s.captures := rfl
@[simp] theorem changeRecord_lane (s : State) (i : Nat) (f : StreamRecord → StreamRecord) : (changeRecord i f s).lane = s.lane := rfl
@[simp] theorem changeRecord_pins (s : State) (i : Nat) (f : StreamRecord → StreamRecord) : (changeRecord i f s).pins = s.pins := rfl

@[simp] theorem dropSink_pending (s : State) (k : Nat) : (dropSink k s).pending = s.pending := rfl
@[simp] theorem dropSink_inbox (s : State) (k : Nat) : (dropSink k s).inbox = s.inbox := rfl
@[simp] theorem dropSink_ports (s : State) (k : Nat) : (dropSink k s).ports = s.ports := rfl
@[simp] theorem dropSink_clock (s : State) (k : Nat) : (dropSink k s).clock = s.clock := rfl
@[simp] theorem dropSink_time (s : State) (k : Nat) : (dropSink k s).time = s.time := rfl
@[simp] theorem dropSink_dir (s : State) (k : Nat) : (dropSink k s).dir = s.dir := rfl
@[simp] theorem dropSink_swap (s : State) (k : Nat) : (dropSink k s).swap = s.swap := rfl
@[simp] theorem dropSink_trig (s : State) (k : Nat) : (dropSink k s).trig = s.trig := rfl
@[simp] theorem dropSink_captures (s : State) (k : Nat) : (dropSink k s).captures = s.captures := rfl
@[simp] theorem dropSink_req (s : State) (k : Nat) : (dropSink k s).req = s.req := rfl
@[simp] theorem dropSink_lane (s : State) (k : Nat) : (dropSink k s).lane = s.lane := rfl
@[simp] theorem dropSink_pins (s : State) (k : Nat) : (dropSink k s).pins = s.pins := rfl

@[simp] theorem detachSink_pending (s : State) (k : Nat) : (detachSink k s).pending = s.pending := rfl
@[simp] theorem detachSink_inbox (s : State) (k : Nat) : (detachSink k s).inbox = s.inbox := rfl
@[simp] theorem detachSink_ports (s : State) (k : Nat) : (detachSink k s).ports = s.ports := rfl
@[simp] theorem detachSink_clock (s : State) (k : Nat) : (detachSink k s).clock = s.clock := rfl
@[simp] theorem detachSink_time (s : State) (k : Nat) : (detachSink k s).time = s.time := rfl
@[simp] theorem detachSink_dir (s : State) (k : Nat) : (detachSink k s).dir = s.dir := rfl
@[simp] theorem detachSink_swap (s : State) (k : Nat) : (detachSink k s).swap = s.swap := rfl
@[simp] theorem detachSink_trig (s : State) (k : Nat) : (detachSink k s).trig = s.trig := rfl
@[simp] theorem detachSink_captures (s : State) (k : Nat) : (detachSink k s).captures = s.captures := rfl
@[simp] theorem detachSink_lane (s : State) (k : Nat) : (detachSink k s).lane = s.lane := rfl
@[simp] theorem detachSink_pins (s : State) (k : Nat) : (detachSink k s).pins = s.pins := rfl

@[simp] theorem moveClock_pending (s : State) (n : Nat) : (moveClock n s).pending = s.pending := rfl
@[simp] theorem moveClock_inbox (s : State) (n : Nat) : (moveClock n s).inbox = s.inbox := rfl
@[simp] theorem moveClock_ports (s : State) (n : Nat) : (moveClock n s).ports = s.ports := rfl
@[simp] theorem moveClock_time (s : State) (n : Nat) : (moveClock n s).time = s.time := rfl
@[simp] theorem moveClock_dir (s : State) (n : Nat) : (moveClock n s).dir = s.dir := rfl
@[simp] theorem moveClock_swap (s : State) (n : Nat) : (moveClock n s).swap = s.swap := rfl
@[simp] theorem moveClock_streams (s : State) (n : Nat) : (moveClock n s).streams = s.streams := rfl
@[simp] theorem moveClock_sinks (s : State) (n : Nat) : (moveClock n s).sinks = s.sinks := rfl
@[simp] theorem moveClock_captures (s : State) (n : Nat) : (moveClock n s).captures = s.captures := rfl
@[simp] theorem moveClock_req (s : State) (n : Nat) : (moveClock n s).req = s.req := rfl
@[simp] theorem moveClock_lane (s : State) (n : Nat) : (moveClock n s).lane = s.lane := rfl
@[simp] theorem moveClock_pins (s : State) (n : Nat) : (moveClock n s).pins = s.pins := rfl

@[simp] theorem setRecognizer_pending (s : State) (p : PortId) (r : Recognizer) : (setRecognizer p r s).pending = s.pending := rfl
@[simp] theorem setRecognizer_inbox (s : State) (p : PortId) (r : Recognizer) : (setRecognizer p r s).inbox = s.inbox := rfl
@[simp] theorem setRecognizer_clock (s : State) (p : PortId) (r : Recognizer) : (setRecognizer p r s).clock = s.clock := rfl
@[simp] theorem setRecognizer_time (s : State) (p : PortId) (r : Recognizer) : (setRecognizer p r s).time = s.time := rfl
@[simp] theorem setRecognizer_dir (s : State) (p : PortId) (r : Recognizer) : (setRecognizer p r s).dir = s.dir := rfl
@[simp] theorem setRecognizer_swap (s : State) (p : PortId) (r : Recognizer) : (setRecognizer p r s).swap = s.swap := rfl
@[simp] theorem setRecognizer_trig (s : State) (p : PortId) (r : Recognizer) : (setRecognizer p r s).trig = s.trig := rfl
@[simp] theorem setRecognizer_streams (s : State) (p : PortId) (r : Recognizer) : (setRecognizer p r s).streams = s.streams := rfl
@[simp] theorem setRecognizer_sinks (s : State) (p : PortId) (r : Recognizer) : (setRecognizer p r s).sinks = s.sinks := rfl
@[simp] theorem setRecognizer_captures (s : State) (p : PortId) (r : Recognizer) : (setRecognizer p r s).captures = s.captures := rfl
@[simp] theorem setRecognizer_req (s : State) (p : PortId) (r : Recognizer) : (setRecognizer p r s).req = s.req := rfl
@[simp] theorem setRecognizer_lane (s : State) (p : PortId) (r : Recognizer) : (setRecognizer p r s).lane = s.lane := rfl
@[simp] theorem setRecognizer_pins (s : State) (p : PortId) (r : Recognizer) : (setRecognizer p r s).pins = s.pins := rfl

@[simp] theorem beginSlot_pending (s : State) (p : PortId) (n : Nat) (w : Wire) : (beginSlot p n w s).pending = s.pending := rfl
@[simp] theorem beginSlot_inbox (s : State) (p : PortId) (n : Nat) (w : Wire) : (beginSlot p n w s).inbox = s.inbox := rfl
@[simp] theorem beginSlot_clock (s : State) (p : PortId) (n : Nat) (w : Wire) : (beginSlot p n w s).clock = s.clock := rfl
@[simp] theorem beginSlot_time (s : State) (p : PortId) (n : Nat) (w : Wire) : (beginSlot p n w s).time = s.time := rfl
@[simp] theorem beginSlot_dir (s : State) (p : PortId) (n : Nat) (w : Wire) : (beginSlot p n w s).dir = s.dir := rfl
@[simp] theorem beginSlot_swap (s : State) (p : PortId) (n : Nat) (w : Wire) : (beginSlot p n w s).swap = s.swap := rfl
@[simp] theorem beginSlot_trig (s : State) (p : PortId) (n : Nat) (w : Wire) : (beginSlot p n w s).trig = s.trig := rfl
@[simp] theorem beginSlot_streams (s : State) (p : PortId) (n : Nat) (w : Wire) : (beginSlot p n w s).streams = s.streams := rfl
@[simp] theorem beginSlot_sinks (s : State) (p : PortId) (n : Nat) (w : Wire) : (beginSlot p n w s).sinks = s.sinks := rfl
@[simp] theorem beginSlot_captures (s : State) (p : PortId) (n : Nat) (w : Wire) : (beginSlot p n w s).captures = s.captures := rfl
@[simp] theorem beginSlot_req (s : State) (p : PortId) (n : Nat) (w : Wire) : (beginSlot p n w s).req = s.req := rfl
@[simp] theorem beginSlot_lane (s : State) (p : PortId) (n : Nat) (w : Wire) : (beginSlot p n w s).lane = s.lane := rfl
@[simp] theorem beginSlot_pins (s : State) (p : PortId) (n : Nat) (w : Wire) : (beginSlot p n w s).pins = s.pins := rfl

@[simp] theorem clearCounts_pending (s : State) : (clearCounts s).pending = s.pending := rfl
@[simp] theorem clearCounts_inbox (s : State) : (clearCounts s).inbox = s.inbox := rfl
@[simp] theorem clearCounts_ports (s : State) : (clearCounts s).ports = s.ports := rfl
@[simp] theorem clearCounts_clock (s : State) : (clearCounts s).clock = s.clock := rfl
@[simp] theorem clearCounts_dir (s : State) : (clearCounts s).dir = s.dir := rfl
@[simp] theorem clearCounts_swap (s : State) : (clearCounts s).swap = s.swap := rfl
@[simp] theorem clearCounts_trig (s : State) : (clearCounts s).trig = s.trig := rfl
@[simp] theorem clearCounts_streams (s : State) : (clearCounts s).streams = s.streams := rfl
@[simp] theorem clearCounts_sinks (s : State) : (clearCounts s).sinks = s.sinks := rfl
@[simp] theorem clearCounts_captures (s : State) : (clearCounts s).captures = s.captures := rfl
@[simp] theorem clearCounts_req (s : State) : (clearCounts s).req = s.req := rfl
@[simp] theorem clearCounts_lane (s : State) : (clearCounts s).lane = s.lane := rfl
@[simp] theorem clearCounts_pins (s : State) : (clearCounts s).pins = s.pins := rfl

/-! ### What an update writes -/

@[simp] theorem port_setPort_self (s : State) (p : PortId) (x : Port) : (s.setPort p x).port p = x := by
  simp [State.port, State.setPort]

theorem port_setPort (s : State) (p q : PortId) (x : Port) :
    (s.setPort p x).port q = if q = p then x else s.port q := by
  simp [State.port, State.setPort, PerPort.get_set]

theorem port_setPort_of_ne (s : State) {p q : PortId} (h : q ≠ p) (x : Port) : (s.setPort p x).port q = s.port q := by
  simp [port_setPort, h]

@[simp] theorem State.setPort_port (s : State) (p : PortId) : s.setPort p (s.port p) = s := by
  simp [State.port, State.setPort]

@[simp] theorem State.setRecords_records (s : State) (rs : List StreamRecord) :
    (s.setRecords rs).streams.records = rs := rfl

@[simp] theorem State.setTrig_trig (s : State) (t : TriggerUnit) : (s.setTrig t).trig = t := rfl

@[simp] theorem moveClock_table (s : State) (n : Nat) : (moveClock n s).trig.table = s.trig.table := rfl
@[simp] theorem moveClock_tick (s : State) (n : Nat) : (moveClock n s).clock.tick = s.clock.tick + n := rfl
@[simp] theorem moveClock_epoch (s : State) (n : Nat) : (moveClock n s).clock.epoch = s.clock.epoch := rfl

@[simp] theorem State.setConfig_config (s : State) (c : Config) : (s.setConfig c).req.config = c := rfl

@[simp] theorem State.answerLane_lane (s : State) (a : LaneAnswer) : (s.answerLane a).lane = a := rfl

@[simp] theorem raise_config (s : State) (k : NoticeKind) : (raise k s).req.config = s.req.config := rfl
@[simp] theorem raise_spi (s : State) (k : NoticeKind) : (raise k s).req.spi = s.req.spi := rfl
@[simp] theorem raise_strap (s : State) (k : NoticeKind) : (raise k s).req.strap = s.req.strap := rfl

/-- A raised notice sets its own flag and keeps every other. -/
theorem raise_flag (s : State) (k j : NoticeKind) :
    (raise k s).req.pending.get j = (s.req.pending.get j || decide (j = k)) := by
  simp only [raise, PerNotice.get_set]
  by_cases h : j = k <;> simp [h]

theorem raiseIf_of (b : Bool) (k : NoticeKind) (s : State) (h : b = true) : raiseIf b k s = raise k s := by
  simp [raiseIf, h]

theorem raiseIf_of_not (b : Bool) (k : NoticeKind) (s : State) (h : b = false) : raiseIf b k s = s := by
  simp [raiseIf, h]

@[simp] theorem raiseIf_config (b : Bool) (s : State) (k : NoticeKind) : (raiseIf b k s).req.config = s.req.config := by
  unfold raiseIf; split <;> rfl

theorem port_of_ports {s t : State} (h : t.ports = s.ports) (p : PortId) : t.port p = s.port p := by
  simp [State.port, h]

@[simp] theorem answer_spi (s : State) (st : Status) (b : Body) :
    (answer st b s).req.spi = .response ⟨st, none, b⟩ := rfl
@[simp] theorem answer_config (s : State) (st : Status) (b : Body) : (answer st b s).req.config = s.req.config := rfl
@[simp] theorem answer_flags (s : State) (st : Status) (b : Body) : (answer st b s).req.pending = s.req.pending := rfl

/-- An answer alone is the state with that answer. -/
theorem answer_eq (s : State) (st : Status) (b : Body) : answer st b s = withAnswer s st b := rfl

/-! ### Requests and events -/

/-- Outside of reset a request has its effect (R177). -/
theorem request_of_run (s : State) (f : State → State) (h : s.pins.reset = false) : request s f = .next (f s) := by
  simp [request, h]

/-- Outside of reset an event has its effect (R177). -/
theorem event_of_run (s : State) (f : State → State) (h : s.pins.reset = false) : event s f = .next (f s) := by
  simp [event, h]

end Machine

end Sys2Proof
end

