-- ==== Sys2Proof/Laws/Effects.lean ====
section
/-! SUPPORT. What each shared operation leaves alone: one lemma for each, composed from those of the operations it is made
of. -/

namespace Sys2Proof.Machine

open Sys2Proof

/-! ### Frames compose -/

theorem changesOnly.refl (xs : List Piece) (s : State) : changesOnly xs s s := by
  intro x _; cases x <;> rfl

theorem changesOnly.trans {xs : List Piece} {s t u : State} (h : changesOnly xs s t) (k : changesOnly xs t u) :
    changesOnly xs s u := by
  intro x hx
  have a := h x hx
  have b := k x hx
  cases x <;> exact Eq.trans b a

theorem changesOnly.mono {xs ys : List Piece} {s t : State} (h : changesOnly xs s t) (k : ∀ x ∈ xs, x ∈ ys) :
    changesOnly ys s t := fun x hx => h x fun m => hx (k x m)

theorem changesOnly.foldl {α : Type} {xs : List Piece} (f : State → α → State) (h : ∀ s a, changesOnly xs s (f s a)) :
    ∀ (l : List α) (s : State), changesOnly xs s (l.foldl f s)
  | [], s => changesOnly.refl xs s
  | a :: l, s => (h s a).trans (changesOnly.foldl f h l (f s a))

theorem sameLink.refl (x : Port) : sameLink x x := rfl

theorem sameLink.trans {x y z : Port} (h : sameLink x y) (k : sameLink y z) : sameLink x z := by
  unfold sameLink at *
  rw [k, h]

theorem queuesKept.of_eq {x y : Port} (hp : y.protocolQueue = x.protocolQueue) (hf : y.floodQueue = x.floodQueue) :
    queuesKept x y := fun _ => ⟨hp, hf⟩

theorem queuesKept.trans {x y z : Port} (l : sameLink x y) (h : queuesKept x y) (k : queuesKept y z) : queuesKept x z := by
  intro hx
  have e : y.state = x.state := by rw [show y = _ from l]
  have b := k (by rw [e]; exact hx)
  exact ⟨b.1.trans (h hx).1, b.2.trans (h hx).2⟩

theorem noticesOnly.refl (s : State) : noticesOnly s s := ⟨rfl, fun _ h => h⟩

theorem noticesOnly.trans {s t u : State} (h : noticesOnly s t) (k : noticesOnly t u) : noticesOnly s u := by
  refine ⟨?_, fun j hj => k.2 j (h.2 j hj)⟩
  rw [k.1, h.1]

theorem noticesOnly.raise (k : NoticeKind) (s : State) : noticesOnly s (raise k s) :=
  ⟨rfl, fun j hj => by simp [raise_flag, hj]⟩

theorem noticesOnly.of_req {s t : State} (h : t.req = s.req) : noticesOnly s t := by
  refine ⟨?_, fun j hj => by rw [h]; exact hj⟩
  rw [h]

theorem StreamEffects.refl (s : State) : StreamEffects s s :=
  ⟨changesOnly.refl _ s, fun _ => rfl, fun _ => .of_eq rfl rfl, noticesOnly.refl s⟩

theorem StreamEffects.trans {s t u : State} (h : StreamEffects s t) (k : StreamEffects t u) : StreamEffects s u :=
  ⟨h.pieces.trans k.pieces, fun p => (h.links p).trans (k.links p),
    fun p => .trans (h.links p) (h.quiet p) (k.quiet p), h.notices.trans k.notices⟩

theorem StreamEffects.foldl {α : Type} (f : State → α → State) (h : ∀ s a, StreamEffects s (f s a)) :
    ∀ (l : List α) (s : State), StreamEffects s (l.foldl f s)
  | [], s => StreamEffects.refl s
  | a :: l, s => (h s a).trans (StreamEffects.foldl f h l (f s a))

theorem TimingEffects.refl (s : State) : TimingEffects s s :=
  ⟨changesOnly.refl _ s, fun _ => rfl, fun _ => .of_eq rfl rfl, noticesOnly.refl s, rfl, rfl, rfl⟩

theorem TimingEffects.trans {s t u : State} (h : TimingEffects s t) (k : TimingEffects t u) : TimingEffects s u :=
  ⟨h.pieces.trans k.pieces, fun p => (h.links p).trans (k.links p),
    fun p => .trans (h.links p) (h.quiet p) (k.quiet p), h.notices.trans k.notices,
    k.entries.trans h.entries, k.refin.trans h.refin, k.steps.trans h.steps⟩

theorem StreamEffects.timing {s t : State} (h : StreamEffects s t) : TimingEffects s t := by
  have ht := h.pieces .time (by decide)
  have hd := h.pieces .dir (by decide)
  simp only [agree] at ht hd
  exact ⟨h.pieces.mono (by decide), h.links, h.quiet, h.notices, by rw [hd], by rw [ht], by rw [ht]⟩

/-! ### Elementary operations -/

theorem raise_effects (k : NoticeKind) (s : State) : StreamEffects s (raise k s) := by
  refine ⟨fun x hx => ?_, fun _ => rfl, fun _ => .of_eq rfl rfl, noticesOnly.raise k s⟩
  cases x <;> first | rfl | simp at hx

theorem raiseIf_effects (b : Bool) (k : NoticeKind) (s : State) : StreamEffects s (raiseIf b k s) := by
  unfold raiseIf; split
  · exact raise_effects k s
  · exact StreamEffects.refl s

theorem setPort_effects {s : State} {p : PortId} {x : Port} (h : sameLink (s.port p) x) (hq : queuesKept (s.port p) x) :
    StreamEffects s (s.setPort p x) := by
  refine ⟨fun y hy => ?_, fun q => ?_, fun q => ?_, noticesOnly.of_req rfl⟩
  · cases y <;> first | rfl | simp at hy
  · rw [port_setPort]
    split
    · next e => subst e; exact h
    · rfl
  · rw [port_setPort]
    split
    · next e => subst e; exact hq
    · exact .of_eq rfl rfl

theorem protocolAnswer_open {s : State} {p : PortId} {m : Msg} (h : protocolAnswer s p m = .taken) :
    takesOffers (s.port p).state = true := by
  unfold protocolAnswer at h
  split at h
  · cases h
  · next e => simpa using e

theorem setSlotMap_effects (p : PortId) (m : List SlotEntry) (s : State) : StreamEffects s (s.setSlotMap p m) :=
  setPort_effects rfl (.of_eq rfl rfl)

theorem setRecords_effects (rs : List StreamRecord) (s : State) : StreamEffects s (s.setRecords rs) := by
  refine ⟨fun x hx => ?_, fun _ => rfl, fun _ => .of_eq rfl rfl, noticesOnly.of_req rfl⟩
  cases x <;> first | rfl | simp at hx

theorem captures_effects (c : Captures) (s : State) : StreamEffects s { s with captures := c } := by
  refine ⟨fun x hx => ?_, fun _ => rfl, fun _ => .of_eq rfl rfl, noticesOnly.of_req rfl⟩
  cases x <;> first | rfl | simp at hx

theorem sinks_effects (ks : List Sink) (s : State) : StreamEffects s { s with sinks := ks } := by
  refine ⟨fun x hx => ?_, fun _ => rfl, fun _ => .of_eq rfl rfl, noticesOnly.of_req rfl⟩
  cases x <;> first | rfl | simp at hx

theorem capturePort_effects (p : PortId) (k : ErrorKind) (n : Option Nat) (id : Option StreamId) (d : Detail) (s : State) :
    StreamEffects s (capturePort p k n id d s) := by
  unfold capturePort
  exact (captures_effects _ s).trans (raiseIf_effects _ _ _)

theorem captureLane_effects (k : ErrorKind) (id : Option StreamId) (d : Detail) (s : State) :
    StreamEffects s (captureLane k id d s) := by
  unfold captureLane
  exact (captures_effects _ s).trans (raiseIf_effects _ _ _)

theorem captureProtocol_effects (k : ErrorKind) (id : Option StreamId) (d : Detail) (s : State) :
    StreamEffects s (captureProtocol k id d s) := by
  unfold captureProtocol
  exact (captures_effects _ s).trans (raiseIf_effects _ _ _)

theorem protocolError_effects (c : ProtocolCause) (m : Msg) (p : PortId) (s : State) :
    StreamEffects s (protocolError c m p s) := captureProtocol_effects _ _ _ s

theorem joinProtocol_effects (p : PortId) (m : Msg) (s : State) : StreamEffects s (joinProtocol p m s) := by
  unfold joinProtocol; split
  · next h => exact setPort_effects rfl fun hq => by simp [protocolAnswer_open h] at hq
  · exact StreamEffects.refl s

theorem send_effects (p : PortId) (m : Msg) (s : State) : StreamEffects s (send p m s) := by
  unfold send; split
  · exact joinProtocol_effects p m s
  · exact protocolError_effects _ m p s
  · exact StreamEffects.refl s

theorem sendSide_effects (side : Option PortId) (m : Msg) (s : State) : StreamEffects s (sendSide side m s) := by
  unfold sendSide; split
  · exact send_effects _ m s
  · exact StreamEffects.refl s

theorem offerAnnounce_effects (a : AnnounceMsg) (p : PortId) (s : State) : StreamEffects s (offerAnnounce a p s) := by
  unfold offerAnnounce; split
  · next h => exact setPort_effects rfl fun hq => by simp [h] at hq
  · exact StreamEffects.refl s

theorem offerFlood_effects (m : Msg) (p : PortId) (s : State) : StreamEffects s (offerFlood m p s) := by
  unfold offerFlood; split
  · exact StreamEffects.refl s
  · next h =>
    split
    · exact setPort_effects rfl fun hq => by simp [hq] at h
    · exact protocolError_effects _ m p s

theorem offerAll_effects (offer : PortId → State → State) (h : ∀ p s, StreamEffects s (offer p s)) (ps : List PortId)
    (s : State) : StreamEffects s (offerAll offer ps s) :=
  StreamEffects.foldl _ (fun s p => h p s) ps s

theorem editRecord_effects (i : Nat) (f : StreamRecord → StreamRecord) (s : State) : StreamEffects s (editRecord i f s) :=
  setRecords_effects _ s

theorem changeRecord_effects (i : Nat) (f : StreamRecord → StreamRecord) (s : State) :
    StreamEffects s (changeRecord i f s) := (editRecord_effects _ _ s).trans (raise_effects _ _)

theorem changeSink_effects (k : Nat) (f : Sink → Sink) (s : State) : StreamEffects s (changeSink k f s) :=
  (sinks_effects _ s).trans (raiseIf_effects _ _ _)

theorem dropSink_effects (k : Nat) (s : State) : StreamEffects s (dropSink k s) :=
  (sinks_effects (s.sinks.filter fun x => x.index != k) s).trans
    (setRecords_effects (s.streams.records.map fun r => { r with sinks := r.sinks.filter fun j => j != k }) _)

theorem detachSink_effects (k : Nat) (s : State) : StreamEffects s (detachSink k s) :=
  (dropSink_effects k s).trans (raise_effects _ _)

/-! ### Slots and sinks of a record -/

theorem assignSlots_effects (i n : Nat) (s : State) : StreamEffects s (assignSlots i n s) := by
  unfold assignSlots; split
  · exact setSlotMap_effects _ _ s
  · exact StreamEffects.refl s

theorem releaseSlots_effects (i k : Nat) (s : State) : StreamEffects s (releaseSlots i k s) := by
  unfold releaseSlots; split
  · dsimp only; split
    · exact (setSlotMap_effects _ _ s).trans (changeRecord_effects _ _ _)
    · exact setSlotMap_effects _ _ s
  · exact StreamEffects.refl s

theorem reserveSinks_effects (r : StreamRecord) (c : Nat) (s : State) : StreamEffects s (reserveSinks r c s) :=
  StreamEffects.foldl _ (fun s k => changeSink_effects k _ s) _ s

theorem setSettle_effects (r : StreamRecord) (e : Option Epoch) (s : State) : StreamEffects s (setSettle r e s) :=
  StreamEffects.foldl _ (fun s k => changeSink_effects k _ s) _ s

theorem copyToSinks_effects (r : StreamRecord) (c : SinkCell) (s : State) : StreamEffects s (copyToSinks r c s) :=
  StreamEffects.foldl (fun s' k => changeSink k (takeCopy s' r.budget c) s') (fun s' k => changeSink_effects k _ s') _ s

theorem detachAll_effects (ks : List Nat) (s : State) : StreamEffects s (ks.foldl (fun s k => detachSink k s) s) :=
  StreamEffects.foldl _ (fun s k => detachSink_effects k s) ks s

/-! ### The Stream Table -/

theorem breakUp_effects (r : StreamRecord) (c : ReasonCode) (s : State) : StreamEffects s (breakUp r c s) :=
  sendSide_effects _ _ s

theorem breakDown_effects (r : StreamRecord) (c : ReasonCode) (s : State) : StreamEffects s (breakDown r c s) :=
  sendSide_effects _ _ s

theorem releaseDown_effects (r : StreamRecord) (s : State) : StreamEffects s (releaseDown r s) := sendSide_effects _ _ s

theorem suspend_effects (i : Nat) (c : ReasonCode) (free : Bool) (s : State) : StreamEffects s (suspend i c free s) := by
  unfold suspend; split
  · exact StreamEffects.refl s
  · split
    · split
      · exact releaseSlots_effects i 0 s
      · exact StreamEffects.refl s
    · dsimp only
      have h : ∀ k, StreamEffects s (releaseSlots i k (changeRecord i (suspended c) s)) := fun k =>
        (changeRecord_effects i _ s).trans (releaseSlots_effects i k _)
      split
      · exact ((h _).trans (reserveSinks_effects _ _ _)).trans (setSettle_effects _ _ _)
      · exact h _

theorem removeRecord_effects (i : Nat) (s : State) : StreamEffects s (removeRecord i s) := by
  unfold removeRecord; split
  · exact StreamEffects.refl s
  · dsimp only
    refine StreamEffects.trans (StreamEffects.trans (StreamEffects.trans ?_ (detachAll_effects _ _))
      (setRecords_effects _ _)) (raise_effects _ _)
    split
    · exact setSlotMap_effects _ _ s
    · exact StreamEffects.refl s

theorem closeRecord_effects (i : Nat) (reason : StreamReason) (f : Option FrameId) (s : State) :
    StreamEffects s (closeRecord i reason f s) :=
  (changeRecord_effects i _ s).trans (releaseSlots_effects i 0 _)

theorem revertRetune_effects (i : Nat) (s : State) : StreamEffects s (revertRetune i s) := by
  unfold revertRetune; split
  · exact StreamEffects.refl s
  · exact ((changeRecord_effects i _ s).trans (releaseSlots_effects i _ _)).trans (reserveSinks_effects _ _ _)

theorem refuseRetune_effects (i : Nat) (c : ReasonCode) (s : State) : StreamEffects s (refuseRetune i c s) :=
  (revertRetune_effects i s).trans (changeRecord_effects i _ _)

theorem captureTrim_effects (p : PortId) (cs : List QueuedCell) (s : State) : StreamEffects s (captureTrim p cs s) :=
  StreamEffects.foldl _ (fun s _ => capturePort_effects p _ _ _ _ s) cs s

theorem switchRecord_effects (i : Nat) (s : State) : StreamEffects s (switchRecord i s) := by
  unfold switchRecord; split
  · exact StreamEffects.refl s
  · split
    · exact StreamEffects.refl s
    · dsimp only
      have h : ∀ (b : Prop) [Decidable b] (n : Nat), StreamEffects s (if b then releaseSlots i n s else s) := by
        intro b _ n
        split
        · exact releaseSlots_effects i _ s
        · exact StreamEffects.refl s
      split
      · exact ((h _ _).trans (changeRecord_effects i _ _)).trans (captureTrim_effects _ _ _)
      · exact (h _ _).trans (changeRecord_effects i _ _)

theorem timeLostRecord_effects (i : Nat) (s : State) : StreamEffects s (timeLostRecord i s) := by
  unfold timeLostRecord; split
  · split
    · exact ((suspend_effects i _ _ s).trans (breakUp_effects _ _ _)).trans (breakDown_effects _ _ _)
    · exact StreamEffects.refl s
  · exact StreamEffects.refl s

theorem loseTime_effects (s : State) : StreamEffects s (loseTime s) :=
  StreamEffects.foldl _ (fun s i => timeLostRecord_effects i s) _ s

theorem portResetRecord_effects (p : PortId) (i : Nat) (s : State) : StreamEffects s (portResetRecord p i s) := by
  unfold portResetRecord; split
  · exact StreamEffects.refl s
  · split
    · split
      · exact (suspend_effects i _ _ s).trans (breakUp_effects _ _ _)
      · split
        · exact releaseSlots_effects i 0 s
        · exact StreamEffects.refl s
    · split
      · exact (suspend_effects i _ _ s).trans (breakDown_effects _ _ _)
      · exact StreamEffects.refl s

theorem portResetStreams_effects (p : PortId) (s : State) : StreamEffects s (portResetStreams p s) :=
  StreamEffects.foldl _ (fun s i => portResetRecord_effects p i s) _ s

theorem drainEndRecord_effects (i : Nat) (s : State) : StreamEffects s (drainEndRecord i s) := by
  unfold drainEndRecord; split
  · exact StreamEffects.refl s
  · split
    · exact StreamEffects.refl s
    · dsimp only
      refine StreamEffects.trans ?_ (suspend_effects i _ _ _)
      split
      · exact releaseDown_effects _ s
      · exact (breakUp_effects _ _ s).trans (breakDown_effects _ _ _)
      · exact breakUp_effects _ _ s
      · exact StreamEffects.refl s

theorem drainEndStreams_effects (s : State) : StreamEffects s (drainEndStreams s) :=
  StreamEffects.foldl _ (fun s i => drainEndRecord_effects i s) _ s

theorem clearMessages_effects (r : StreamRecord) (s : State) : StreamEffects s (clearMessages r s) := by
  unfold clearMessages; split
  · exact StreamEffects.refl s
  · split
    · exact releaseDown_effects _ s
    · exact (breakUp_effects _ _ s).trans (releaseDown_effects _ _)
    · exact breakUp_effects _ _ s
    · exact StreamEffects.refl s

theorem repackTake_effects (p : PortId) (s : State) (i : Nat) : StreamEffects s (repackTake p s i) := by
  unfold repackTake; split
  · exact StreamEffects.refl s
  · split
    · exact StreamEffects.refl s
    · split
      · exact releaseSlots_effects i 0 s
      · exact ((suspend_effects i _ _ s).trans (breakUp_effects _ _ _)).trans (breakDown_effects _ _ _)

theorem repack_effects (p : PortId) (s : State) : StreamEffects s (repack p s) := by
  unfold repack; split
  · exact (StreamEffects.foldl _ (fun s i => repackTake_effects p s i) _ s).trans (setSlotMap_effects _ _ _)
  · exact StreamEffects.refl s

/-! ### The Path Controller -/

theorem refuseOrigin_effects (i : Nat) (c : ReasonCode) (f : FrameId) (s : State) :
    StreamEffects s (refuseOrigin i c f s) := by
  unfold refuseOrigin; split
  · exact StreamEffects.refl s
  · split
    · exact closeRecord_effects i _ _ s
    · exact (suspend_effects i _ _ s).trans (editRecord_effects i _ _)

theorem offerSetup_effects (i : Nat) (s : State) : StreamEffects s (offerSetup i s) := by
  unfold offerSetup; split
  · exact StreamEffects.refl s
  · split
    · exact StreamEffects.refl s
    · split
      · exact joinProtocol_effects _ _ s
      · exact refuseOrigin_effects i _ _ s
      · exact StreamEffects.refl s

theorem stageRetune_effects (i : Nat) (d : Staged) (t : Option Nat) (s : State) : StreamEffects s (stageRetune i d t s) := by
  unfold stageRetune; split
  · exact StreamEffects.refl s
  · exact ((changeRecord_effects i _ s).trans (assignSlots_effects i _ _)).trans (reserveSinks_effects _ _ _)

theorem takeSwitchEpoch_effects (i : Nat) (e : Epoch) (s : State) : StreamEffects s (takeSwitchEpoch i e s) := by
  unfold takeSwitchEpoch; split
  · exact StreamEffects.refl s
  · exact (editRecord_effects i _ s).trans (setSettle_effects _ _ _)

/-! ### The Frame Directory and the Timebase Unit -/

theorem time_dir_effects (t : Timebase) (d : Directory) (s : State) (he : d.entries = s.dir.entries)
    (hr : t.refin = s.time.refin) (hs : t.stepCount = s.time.stepCount) :
    TimingEffects s { s with time := t, dir := d } := by
  refine ⟨fun x hx => ?_, fun _ => rfl, fun _ => .of_eq rfl rfl, noticesOnly.of_req rfl, he, hr, hs⟩
  cases x <;> first | rfl | simp at hx

theorem announceRepeating_effects (p : PortId) (s : State) : StreamEffects s (announceRepeating p s) := by
  unfold announceRepeating; split
  · exact StreamEffects.refl s
  · exact offerAnnounce_effects _ p s

theorem announceAdvancing_effects (s : State) : TimingEffects s (announceAdvancing s) := by
  unfold announceAdvancing; split
  · exact TimingEffects.refl s
  · dsimp only
    refine TimingEffects.trans ?_ (offerAll_effects _ (fun p s => offerAnnounce_effects _ p s) _ _).timing
    exact time_dir_effects _ _ s rfl rfl rfl

theorem clearCounts_effects (s : State) : TimingEffects s (clearCounts s) := time_dir_effects _ s.dir s rfl rfl rfl

theorem shiftTiming_effects (eval : State → State) (he : ∀ s, TimingEffects s (eval s)) (x : TimingState) (s : State) :
    TimingEffects s (shiftTiming eval x s) := by
  unfold shiftTiming
  dsimp only
  refine TimingEffects.trans (TimingEffects.trans ?_ (announceAdvancing_effects _)) (he _)
  split
  · refine TimingEffects.trans (TimingEffects.trans ?_ (raise_effects _ _).timing) (loseTime_effects _).timing
    exact (clearCounts_effects s).trans (time_dir_effects _ _ _ rfl rfl rfl)
  · refine TimingEffects.trans ?_ (raise_effects _ _).timing
    exact (clearCounts_effects s).trans (time_dir_effects _ _ _ rfl rfl rfl)

theorem toTiming_effects (eval : State → State) (he : ∀ s, TimingEffects s (eval s)) (x : TimingState) (s : State) :
    TimingEffects s (toTiming eval x s) := by
  unfold toTiming; split
  · exact TimingEffects.refl s
  · dsimp only; split
    · exact (shiftTiming_effects eval he x s).trans (shiftTiming_effects eval he .free _)
    · exact shiftTiming_effects eval he x s

theorem handResult_effects (eval : State → State) (he : ∀ s, TimingEffects s (eval s)) (r : ElectionResult) (s : State) :
    TimingEffects s (handResult eval r s) := by
  unfold handResult
  dsimp only
  generalize hu : raiseIf _ NoticeKind.timing _ = u
  have h : TimingEffects s u := by
    subst hu
    refine TimingEffects.trans ?_ (raiseIf_effects _ _ _).timing
    exact (clearCounts_effects s).trans (time_dir_effects _ _ _ rfl rfl rfl)
  split
  · split
    · exact h.trans (he _)
    · exact h
  · exact h.trans (toTiming_effects eval he _ _)

theorem evaluateFor_effects (n : Nat) : ∀ s, TimingEffects s (evaluateFor n s) := by
  induction n with
  | zero => exact TimingEffects.refl
  | succ n ih =>
    intro s
    unfold evaluateFor
    dsimp only
    have h : ∀ o, TimingEffects s { s with dir := { s.dir with hold := o } } := fun o =>
      time_dir_effects _ _ s rfl rfl rfl
    split
    · exact h _
    · exact ((h _).trans (raise_effects _ _).timing).trans (handResult_effects _ ih _ _)

theorem evaluate_effects (s : State) : TimingEffects s (evaluate s) := evaluateFor_effects 8 s

theorem changeTiming_effects (x : TimingState) (s : State) : TimingEffects s (changeTiming x s) :=
  toTiming_effects evaluate evaluate_effects x s

theorem timingPortLost_effects (p : PortId) (s : State) : TimingEffects s (timingPortLost p s) := by
  unfold timingPortLost; split
  · split
    · exact (clearCounts_effects s).trans (changeTiming_effects _ _)
    · exact (clearCounts_effects s).trans (changeTiming_effects _ _)
    · exact clearCounts_effects s
    · exact clearCounts_effects s
  · exact TimingEffects.refl s

theorem referenceChanged_effects (s : State) : TimingEffects s (referenceChanged s) :=
  ((raise_effects _ s).timing.trans (announceAdvancing_effects _)).trans (evaluate_effects _)

theorem time_effects (t : Timebase) (s : State) (hr : t.refin = s.time.refin) (hs : t.stepCount = s.time.stepCount) :
    TimingEffects s { s with time := t } := time_dir_effects t s.dir s rfl hr hs

theorem enterAcquiring_effects (o : Observation) (s : State) : TimingEffects s (enterAcquiring o s) := by
  unfold enterAcquiring
  dsimp only
  split
  · exact (changeTiming_effects _ s).trans (time_effects _ _ rfl rfl)
  · exact changeTiming_effects _ s

theorem observeUsable_effects (o : Observation) (s : State) : TimingEffects s (observeUsable o s) := by
  unfold observeUsable
  dsimp only
  refine TimingEffects.trans (time_effects { s.time with lastPhase := some o } s rfl rfl) ?_
  split
  · exact enterAcquiring_effects o _
  · exact time_effects _ _ rfl rfl
  · split
    · exact enterAcquiring_effects o _
    · exact time_effects _ _ rfl rfl
  · exact time_effects _ _ rfl rfl

theorem observeUnusable_effects (s : State) : TimingEffects s (observeUnusable s) := time_effects _ s rfl rfl

theorem observeMarker_effects (p : PortId) (b : Bool) (a : Stamp) (n : Epoch) (s : State) :
    TimingEffects s (observeMarker p b a n s) := by
  unfold observeMarker; split
  · split
    · exact TimingEffects.refl s
    · split
      · exact observeUsable_effects _ s
      · exact observeUnusable_effects s
  · exact TimingEffects.refl s

theorem observeMiss_effects (p : PortId) (s : State) : TimingEffects s (observeMiss p s) := by
  unfold observeMiss; split
  · exact observeUnusable_effects s
  · exact TimingEffects.refl s

end Sys2Proof.Machine
end

