-- ==== Sys2Proof/Laws/Firing.lean ====
section
/-! SUPPORT. What the firing of triggers and the passing of time can do. -/

namespace Sys2Proof.Machine

open Sys2Proof

/-- An entry without its state. -/
def unfired (e : TriggerEntry) : TriggerId × RackTime × Nat := (e.id, e.fire, e.channel)

/-- What firings can change: entries' states, pulses, sinks that wait for a trigger, notices. -/
structure Fires (s t : State) : Prop where
  pieces : changesOnly [.trig, .sinks, .req] s t
  triggers : t.trig = { s.trig with table := t.trig.table, pulses := t.trig.pulses }
  entries : t.trig.table.map unfired = s.trig.table.map unfired
  armed : ∀ e ∈ t.trig.table, e.state = .armed → e ∈ s.trig.table
  notices : noticesOnly s t

theorem Fires.refl (s : State) : Fires s s := ⟨changesOnly.refl _ s, rfl, rfl, fun _ h _ => h, noticesOnly.refl s⟩

theorem Fires.trans {s t u : State} (h : Fires s t) (k : Fires t u) : Fires s u := by
  refine ⟨h.pieces.trans k.pieces, ?_, k.entries.trans h.entries, fun e he ha => h.armed e (k.armed e he ha) ha,
    h.notices.trans k.notices⟩
  rw [k.triggers, h.triggers]

theorem raise_fires (k : NoticeKind) (s : State) : Fires s (raise k s) :=
  ⟨fun x hx => by cases x <;> first | rfl | exact absurd (by decide) hx, rfl, rfl, fun _ h _ => h, noticesOnly.raise k s⟩

theorem reportTrigger_fires (id : TriggerId) (s : State) : Fires s (reportTrigger id s) := by
  unfold reportTrigger
  dsimp only
  have k : Fires s { s with sinks := s.sinks.map fun x =>
      if x.state == .waiting && x.start == some (.trigger id) then { x with start := some .lost } else x } :=
    ⟨fun x hx => by cases x <;> first | rfl | exact absurd (by decide) hx, rfl, rfl, fun _ h _ => h, noticesOnly.of_req rfl⟩
  unfold raiseIf
  split
  · exact k.trans (raise_fires _ _)
  · exact k

theorem setTriggerState_fires (id : TriggerId) {x : TriggerState} (hx : x ≠ .armed) (s : State) :
    Fires s (setTriggerState id x s) := by
  refine ⟨fun y hy => by cases y <;> first | rfl | exact absurd (by decide) hy, rfl, ?_, ?_, noticesOnly.of_req rfl⟩
  · simp only [setTriggerState, State.setTrig_trig, List.map_map]
    refine List.map_congr_left fun e _ => ?_
    simp only [Function.comp]
    split <;> rfl
  · intro e he ha
    obtain ⟨y, hy, rfl⟩ := List.mem_map.mp he
    split at ha
    · exact absurd ha hx
    · next h => rw [if_neg h]; exact hy

theorem beginPulse_fires (m : Byte) (n : Nat) (s : State) : Fires s (beginPulse m n s) := by
  unfold beginPulse
  split
  · exact Fires.refl s
  · exact ⟨fun y hy => by cases y <;> first | rfl | exact absurd (by decide) hy, rfl, rfl, fun _ h _ => h,
      noticesOnly.of_req rfl⟩

theorem fireEntry_fires (n : Nat) (e : TriggerEntry) (s : State) : Fires s (fireEntry n e s) := by
  unfold fireEntry
  refine Fires.trans ?_ (raise_fires _ _)
  split
  · exact (setTriggerState_fires _ (by simp) _).trans (beginPulse_fires _ _ _)
  · exact (setTriggerState_fires _ (by simp) _).trans (reportTrigger_fires _ _)

/-- The entry that fires is ARMED no more. -/
theorem fireEntry_done (n : Nat) (e : TriggerEntry) (s : State) :
    ∀ y ∈ (fireEntry n e s).trig.table, y.id = e.id → y.state ≠ .armed := by
  have h : ∀ x : TriggerState, x ≠ .armed → ∀ y ∈ (setTriggerState e.id x s).trig.table, y.id = e.id → y.state ≠ .armed := by
    intro x hx y hy hi
    obtain ⟨z, _, rfl⟩ := List.mem_map.mp hy
    split
    · exact hx
    · next hn => rw [if_neg hn] at hi; exact absurd hi hn
  intro y hy hi ha
  have hm := (raise_fires .trigger _).armed y hy ha
  split at hm
  · exact h _ (by simp) y ((beginPulse_fires _ _ _).armed y hm ha) hi ha
  · exact h _ (by simp) y ((reportTrigger_fires _ _).armed y hm ha) hi ha

theorem fires_foldl (left : TriggerEntry → Nat) :
    ∀ (l : List TriggerEntry) (s : State), Fires s (l.foldl (fun s e => fireEntry (left e) e s) s) ∧
      ∀ y ∈ (l.foldl (fun s e => fireEntry (left e) e s) s).trig.table, y.state = .armed → y ∉ l
  | [], s => ⟨Fires.refl s, fun _ _ _ h => by simp at h⟩
  | e :: l, s => by
    obtain ⟨h, k⟩ := fires_foldl left l (fireEntry (left e) e s)
    refine ⟨(fireEntry_fires _ e s).trans h, fun y hy ha hm => ?_⟩
    rcases List.mem_cons.mp hm with rfl | hm
    · exact fireEntry_done _ y s y (h.armed y hy ha) rfl ha
    · exact k y hy ha hm

theorem fireThose_fires (hit : TriggerEntry → Bool) (left : TriggerEntry → Nat) (s : State) :
    Fires s (fireThose hit left s) := (fires_foldl left _ s).1

/-- No entry that the test picks out is ARMED afterwards. -/
theorem fireThose_armed (hit : TriggerEntry → Bool) (left : TriggerEntry → Nat) (s : State) :
    ∀ e ∈ (fireThose hit left s).trig.table, e.state = .armed → hit e = false := by
  intro e he ha
  have hm := (fireThose_fires hit left s).armed e he ha
  have hn := (fires_foldl left _ s).2 e he ha
  rw [List.mem_filter] at hn
  cases hb : hit e with
  | false => rfl
  | true => exact absurd ⟨hm, by simp [isArmed, ha, hb]⟩ hn

/-- Where the test picks out no ARMED entry, nothing happens. -/
theorem fireThose_none (hit : TriggerEntry → Bool) (left : TriggerEntry → Nat) (s : State)
    (h : ∀ e ∈ s.trig.table, e.state = .armed → hit e = false) : fireThose hit left s = s := by
  unfold fireThose
  rw [List.filter_eq_nil_iff.mpr]
  · rfl
  · intro e he hb
    simp only [Bool.and_eq_true, isArmed, beq_iff_eq] at hb
    exact absurd (h e he hb.1) (by simp [hb.2])

theorem Fires.clock {s t : State} (h : Fires s t) : t.clock = s.clock := h.pieces .clock (by decide)

/-- No ARMED entry is left behind the rack time. -/
theorem fireOverdue_onTime (s : State) : onTime (now (fireOverdue s)) (fireOverdue s).trig.table := by
  intro e he ha
  have h : (fireOverdue s).clock = s.clock := (fireThose_fires _ _ s).clock
  unfold now
  rw [h]
  exact fireThose_armed _ _ s e he ha

theorem fireOverdue_none {s : State} (h : onTime (now s) s.trig.table) : fireOverdue s = s := fireThose_none _ _ s h

/-- What the passing of ticks does. -/
theorem passTicks_passes (n : Nat) (s : State) : TimePasses n s (passTicks n s) := by
  by_cases hn : n = 0
  · subst hn
    have e : passTicks 0 s = s := rfl
    rw [e]
    exact ⟨changesOnly.refl _ s, by simp, by simp [timeOnly], rfl, noticesOnly.refl s,
      fun _ => ⟨by simp [timeOnly], rfl, rfl⟩, fun h => absurd rfl h⟩
  · have e : passTicks n s = fireThose (fun e => later (now (moveClock n (fireThose (fun e => reached s e.fire)
        (fun _ => Figures.pulseTicks) s))) e.fire) (fun e => Figures.pulseTicks - ((moveClock n (fireThose (fun e =>
        reached s e.fire) (fun _ => Figures.pulseTicks) s)).clock.tick - e.fire.tick)) (moveClock n (fireThose
        (fun e => reached s e.fire) (fun _ => Figures.pulseTicks) s)) := by simp [passTicks, hn]
    have f := fireThose_fires (fun e => reached s e.fire) (fun _ => Figures.pulseTicks) s
    have hc := f.clock
    have hr : (fireThose (fun e => reached s e.fire) (fun _ => Figures.pulseTicks) s).req.config = s.req.config := by
      rw [f.notices.1]
    have quiet : (∀ e ∈ s.trig.table, e.state = .armed → later e.fire (now s) = true) →
        fireThose (fun e => reached s e.fire) (fun _ => Figures.pulseTicks) s = s := fun h =>
      fireThose_none _ _ s fun e he ha => by simp [reached, h e he ha]
    generalize fireThose (fun e => reached s e.fire) (fun _ => Figures.pulseTicks) s = u at *
    have g := fireThose_fires (fun e => later (now (moveClock n u)) e.fire)
      (fun e => Figures.pulseTicks - ((moveClock n u).clock.tick - e.fire.tick)) (moveClock n u)
    have ga := fireThose_armed (fun e => later (now (moveClock n u)) e.fire)
      (fun e => Figures.pulseTicks - ((moveClock n u).clock.tick - e.fire.tick)) (moveClock n u)
    have gn := fireThose_none (fun e => later (now (moveClock n u)) e.fire)
      (fun e => Figures.pulseTicks - ((moveClock n u).clock.tick - e.fire.tick)) (moveClock n u)
    rw [← e] at g ga gn
    have hnow : now (moveClock n u) = ⟨s.clock.epoch, s.clock.tick + n⟩ := by simp [now, hc]
    have hm : changesOnly [.clock, .trig, .sinks, .req] u (moveClock n u) := fun y hy => by
      cases y <;> first | rfl | exact absurd (by decide) hy
    refine ⟨(f.pieces.mono (by decide)).trans (hm.trans (g.pieces.mono (by decide))), ?_, ?_, ?_, ?_, ?_, ?_⟩
    · rw [g.clock]; simp [moveClock, hc]
    · rw [g.triggers]
      have := f.triggers
      simp only [timeOnly, hn, if_false, moveClock]
      rw [this, hr]
    · exact g.entries.trans f.entries
    · exact f.notices.trans ((noticesOnly.of_req rfl).trans g.notices)
    · intro h
      have hu := quiet fun e he ha => (h e he ha).1
      subst hu
      have := gn fun e he ha => by rw [hnow]; exact (h e he ha).2
      rw [this]
      exact ⟨by simp [timeOnly, hn, moveClock], rfl, rfl⟩
    · intro _ e he ha
      have := ga e he ha
      rwa [hnow] at this

end Sys2Proof.Machine
end

