-- ==== Sys2Proof/Laws/Slots.lean ====
section
/-! SUPPORT. Slot maps, and tables kept in index order: what putting in and taking out leaves of their order. -/

namespace Sys2Proof.Machine

open Sys2Proof

/-! ### Rising lists -/

theorem rising.sublist {l m : List Nat} (h : rising m) (k : l.Sublist m) : rising l := List.Pairwise.sublist k h

theorem rising.nodup {l : List Nat} (h : rising l) : l.Nodup := h.imp fun hab => Nat.ne_of_lt hab

/-! ### Slot maps (R16, R102) -/

/-- A map's slots rise and lie in 2..61 (R16). -/
structure MapInv (m : List SlotEntry) : Prop where
  order : rising (m.map (·.slot))
  range : ∀ e ∈ m, 2 ≤ e.slot ∧ e.slot ≤ 61

theorem MapInv.nil : MapInv [] := ⟨List.Pairwise.nil, by simp⟩

theorem MapInv.sublist {l m : List SlotEntry} (h : MapInv m) (k : l.Sublist m) : MapInv l :=
  ⟨h.order.sublist (k.map _), fun e he => h.range e (k.subset he)⟩

theorem keepSlots_sublist (k i : Nat) (m : List SlotEntry) : (keepSlots k i m).Sublist m := by
  induction m generalizing k with
  | nil => exact List.Sublist.slnil
  | cons e m ih =>
    unfold keepSlots
    split
    · split
      · exact (ih 0).cons e
      · exact (ih _).cons_cons e
    · exact (ih k).cons_cons e

theorem mem_insertSlot (e x : SlotEntry) (m : List SlotEntry) : x ∈ insertSlot e m ↔ x = e ∨ x ∈ m := by
  induction m with
  | nil => simp [insertSlot]
  | cons y m ih =>
    unfold insertSlot
    split
    · simp
    · simp only [List.mem_cons, ih]; tauto

theorem insertSlot_inv {e : SlotEntry} {m : List SlotEntry} (h : MapInv m) (hr : 2 ≤ e.slot ∧ e.slot ≤ 61)
    (hn : ∀ x ∈ m, x.slot ≠ e.slot) : MapInv (insertSlot e m) := by
  refine ⟨?_, fun x hx => ?_⟩
  · induction m with
    | nil => exact List.pairwise_singleton _ _
    | cons y m ih =>
      unfold insertSlot
      have ho : rising (y.slot :: m.map (·.slot)) := h.order
      split
      · next hlt =>
        refine List.Pairwise.cons (fun z hz => ?_) ho
        rcases List.mem_cons.mp hz with rfl | hz
        · exact hlt
        · exact Nat.lt_trans hlt (List.rel_of_pairwise_cons ho hz)
      · next hge =>
        refine List.Pairwise.cons (fun z hz => ?_) (ih ⟨ho.of_cons, fun x hx => h.range x (List.mem_cons_of_mem _ hx)⟩
          fun x hx => hn x (List.mem_cons_of_mem _ hx))
        obtain ⟨w, hw, rfl⟩ := List.mem_map.mp hz
        rcases (mem_insertSlot e w m).mp hw with rfl | hw
        · have := hn y List.mem_cons_self; simp only at this ⊢; omega
        · exact List.rel_of_pairwise_cons ho (List.mem_map_of_mem hw)
  · rcases (mem_insertSlot e x m).mp hx with rfl | hx
    · exact hr
    · exact h.range x hx

theorem usableFor_le (d : Nat) : usableFor d ≤ 60 := by
  unfold usableFor; dsimp only; split <;> omega

theorem usableCount_le (r : DelayRecord) : usableCount r ≤ 60 := by
  unfold usableCount; split
  · omega
  · exact usableFor_le _

theorem mem_freeSlots {u n : Nat} {m : List SlotEntry} (h : n ∈ freeSlots u m) :
    (2 ≤ n ∧ n ≤ u + 1) ∧ ∀ e ∈ m, e.slot ≠ n := by
  simp only [freeSlots, List.mem_filter, List.mem_range'_1, List.all_eq_true, bne_iff_ne] at h
  exact ⟨by omega, h.2⟩

theorem freeSlots_nodup (u : Nat) (m : List SlotEntry) : (freeSlots u m).Nodup := (List.nodup_range').filter _

theorem assign_foldl_inv (i : Nat) (l : List Nat) : ∀ m : List SlotEntry, MapInv m → l.Nodup →
    (∀ n ∈ l, (2 ≤ n ∧ n ≤ 61) ∧ ∀ e ∈ m, e.slot ≠ n) → MapInv (l.foldl (fun m slot => insertSlot ⟨slot, i⟩ m) m) := by
  induction l with
  | nil => intro m h _ _; exact h
  | cons n l ih =>
    intro m h hd hl
    have hn := hl n List.mem_cons_self
    refine ih _ (insertSlot_inv h hn.1 hn.2) hd.of_cons fun k hk => ⟨(hl k (List.mem_cons_of_mem _ hk)).1, fun e he => ?_⟩
    rcases (mem_insertSlot _ e m).mp he with rfl | he
    · intro heq
      have : n = k := heq
      subst this
      exact (List.nodup_cons.mp hd).1 hk
    · exact (hl k (List.mem_cons_of_mem _ hk)).2 e he

theorem assignIn_inv {n i u : Nat} {m : List SlotEntry} (hu : u ≤ 60) (h : MapInv m) : MapInv (assignIn n i u m) := by
  refine assign_foldl_inv i _ m h ((freeSlots_nodup u m).sublist (List.take_sublist _ _)) fun k hk => ?_
  have := mem_freeSlots (List.mem_of_mem_take hk)
  exact ⟨by omega, this.2⟩

theorem moveSlot_inv {i u : Nat} {m : List SlotEntry} (slot : Nat) (hu : u ≤ 60) (h : MapInv m) :
    MapInv (moveSlot i u m slot) := by
  unfold moveSlot
  dsimp only
  split
  · exact h
  · next n l hl =>
    have := mem_freeSlots (u := u) (m := m) (n := n) (by rw [hl]; exact List.mem_cons_self)
    refine insertSlot_inv (h.sublist List.filter_sublist) (by simp only; omega) fun x hx => ?_
    exact this.2 x (List.mem_of_mem_filter hx)

theorem foldl_invariant {α β : Type} (P : β → Prop) (f : β → α → β) (h : ∀ b a, P b → P (f b a)) :
    ∀ (l : List α) (b : β), P b → P (l.foldl f b)
  | [], _, hb => hb
  | a :: l, b, hb => foldl_invariant P f h l (f b a) (h b a hb)

theorem moveRecord_inv {u : Nat} {m : List SlotEntry} (i : Nat) (hu : u ≤ 60) (h : MapInv m) :
    MapInv (moveRecord u m i) := by
  unfold moveRecord
  exact foldl_invariant MapInv _ (fun m slot hm => moveSlot_inv slot hu hm) _ m h

/-! ### Tables in index order (R96, R146) -/

/-- Values in a list that rises by a key, put in by that key. -/
theorem insert_rising {α : Type} (key : α → Nat) (ins : α → List α → List α)
    (hnil : ∀ a, ins a [] = [a])
    (hcons : ∀ a x l, ins a (x :: l) = if key a < key x then a :: x :: l else x :: ins a l) (a : α) :
    ∀ l : List α, rising (l.map key) → (∀ x ∈ l, key x ≠ key a) →
      rising ((ins a l).map key) ∧ ∀ x, x ∈ ins a l ↔ x = a ∨ x ∈ l
  | [], _, _ => by rw [hnil]; exact ⟨List.pairwise_singleton _ _, by simp⟩
  | y :: l, h, hn => by
    rw [hcons]
    have ho : rising (key y :: l.map key) := h
    split
    · next hlt =>
      refine ⟨List.Pairwise.cons (fun z hz => ?_) ho, by simp⟩
      rcases List.mem_cons.mp hz with rfl | hz
      · exact hlt
      · exact Nat.lt_trans hlt (List.rel_of_pairwise_cons ho hz)
    · next hge =>
      obtain ⟨h1, h2⟩ := insert_rising key ins hnil hcons a l ho.of_cons fun x hx => hn x (List.mem_cons_of_mem _ hx)
      refine ⟨List.Pairwise.cons (fun z hz => ?_) h1, fun x => ?_⟩
      · obtain ⟨w, hw, rfl⟩ := List.mem_map.mp hz
        rcases (h2 w).mp hw with rfl | hw
        · have := hn y List.mem_cons_self; omega
        · exact List.rel_of_pairwise_cons ho (List.mem_map_of_mem hw)
      · simp only [List.mem_cons, h2]; tauto

theorem insertRecord_inv {r : StreamRecord} {rs : List StreamRecord} (h : RecordsInv rs) (hr : r.index < 128)
    (hn : ∀ x ∈ rs, x.index ≠ r.index) : RecordsInv (insertRecord r rs) := by
  obtain ⟨h1, h2⟩ := insert_rising (·.index) insertRecord (fun _ => rfl) (fun _ _ _ => rfl) r rs h.order hn
  refine ⟨h1, fun x hx => ?_⟩
  rcases (h2 x).mp hx with rfl | hx
  · exact hr
  · exact h.range x hx

theorem insertSink_inv {x : Sink} {ks : List Sink} (h : SinksInv ks) (hr : x.index < 64)
    (hn : ∀ y ∈ ks, y.index ≠ x.index) (ho : x.held.length + x.released.length ≤ x.reservation) :
    SinksInv (insertSink x ks) := by
  obtain ⟨h1, h2⟩ := insert_rising (·.index) insertSink (fun _ => rfl) (fun _ _ _ => rfl) x ks h.order hn
  refine ⟨h1, fun y hy => ?_, fun y hy => ?_⟩
  · rcases (h2 y).mp hy with rfl | hy
    · exact hr
    · exact h.range y hy
  · rcases (h2 y).mp hy with rfl | hy
    · exact ho
    · exact h.room y hy

theorem RecordsInv.sublist {l rs : List StreamRecord} (h : RecordsInv rs) (k : l.Sublist rs) : RecordsInv l :=
  ⟨h.order.sublist (k.map _), fun r hr => h.range r (k.subset hr)⟩

theorem SinksInv.sublist {l ks : List Sink} (h : SinksInv ks) (k : l.Sublist ks) : SinksInv l :=
  ⟨h.order.sublist (k.map _), fun x hx => h.range x (k.subset hx), fun x hx => h.room x (k.subset hx)⟩

theorem RecordsInv.map {rs : List StreamRecord} (h : RecordsInv rs) (f : StreamRecord → StreamRecord)
    (hf : ∀ r, (f r).index = r.index) : RecordsInv (rs.map f) := by
  refine ⟨?_, fun r hr => ?_⟩
  · have : (rs.map f).map (·.index) = rs.map (·.index) := by simp [Function.comp_def, hf]
    rw [this]; exact h.order
  · obtain ⟨x, hx, rfl⟩ := List.mem_map.mp hr
    rw [hf]; exact h.range x hx

/-- A sink holds no more cells than its reservation (R147). -/
def sinkRoom (x : Sink) : Prop := x.held.length + x.released.length ≤ x.reservation

theorem SinksInv.map {ks : List Sink} (h : SinksInv ks) (f : Sink → Sink) (hi : ∀ x, (f x).index = x.index)
    (hf : ∀ x, sinkRoom x → sinkRoom (f x)) : SinksInv (ks.map f) := by
  refine ⟨?_, fun r hr => ?_, fun r hr => ?_⟩
  · have : (ks.map f).map (·.index) = ks.map (·.index) := by simp [Function.comp_def, hi]
    rw [this]; exact h.order
  · obtain ⟨x, hx, rfl⟩ := List.mem_map.mp hr
    rw [hi]; exact h.range x hx
  · obtain ⟨x, hx, rfl⟩ := List.mem_map.mp hr
    exact hf x (h.room x hx)

theorem freeIndex_spec {s : State} {i : Nat} (h : freeIndex s = some i) :
    i < 128 ∧ ∀ r ∈ s.streams.records, r.index ≠ i := by
  have h1 := List.mem_of_find?_eq_some h
  have h2 := List.find?_some h
  simp only [Figures.streamRecords, List.mem_range] at h1
  simp only [List.all_eq_true, bne_iff_ne] at h2
  exact ⟨h1, h2⟩

theorem freeSink_spec {s : State} {k : Nat} (h : freeSink s = some k) : k < 64 ∧ ∀ x ∈ s.sinks, x.index ≠ k := by
  have h1 := List.mem_of_find?_eq_some h
  have h2 := List.find?_some h
  simp only [Figures.sinkEntries, List.mem_range] at h1
  simp only [List.all_eq_true, bne_iff_ne] at h2
  exact ⟨h1, h2⟩

/-! ### Cells of a sink (R147, R151 to R156) -/

theorem foldl_pick_mem {α : Type} (p : α → α → Bool) (q : List α) (c : α) :
    q.foldl (fun best x => if p best x then best else x) c ∈ c :: q := by
  induction q generalizing c with
  | nil => simp
  | cons y q ih =>
    rw [List.foldl_cons]
    split
    · rcases List.mem_cons.mp (ih c) with h | h <;> simp [h]
    · exact List.mem_cons_of_mem _ (ih y)

theorem highestCell_mem {q : List SinkCell} {c : SinkCell} (h : highestCell q = some c) : c ∈ q := by
  cases q with
  | nil => cases h
  | cons d q => cases h; exact foldl_pick_mem _ q d

theorem highestCell_none {q : List SinkCell} (h : highestCell q = none) : q = [] := by
  cases q with
  | nil => rfl
  | cons d q => cases h

theorem discardCell_keeps (c : SinkCell) (x : Sink) :
    (discardCell c x).index = x.index ∧ (discardCell c x).reservation = x.reservation := by
  unfold discardCell; split <;> exact ⟨rfl, rfl⟩

theorem discardCell_occupied {c : SinkCell} {x : Sink} (h : c ∈ x.released ++ x.held) :
    occupied (discardCell c x) = occupied x - 1 := by
  unfold discardCell occupied
  split
  · next hc =>
    have := List.length_pos_of_mem hc
    simp only [List.length_erase_of_mem hc]; omega
  · next hc =>
    have hr := (List.mem_append.mp h).resolve_right hc
    have := List.length_pos_of_mem hr
    simp only [List.length_erase_of_mem hr]; omega

theorem trimCells_index (n : Nat) (x : Sink) :
    (trimCells n x).index = x.index ∧ (trimCells n x).reservation = x.reservation := by
  induction n generalizing x with
  | zero => exact ⟨rfl, rfl⟩
  | succ n ih =>
    unfold trimCells
    split
    · exact ⟨rfl, rfl⟩
    · next c _ => exact ⟨(ih _).1.trans (discardCell_keeps c x).1, (ih _).2.trans (discardCell_keeps c x).2⟩

theorem trimCells_occupied (n : Nat) (x : Sink) : occupied (trimCells n x) = occupied x - n := by
  induction n generalizing x with
  | zero => simp [trimCells]
  | succ n ih =>
    unfold trimCells
    split
    · next h =>
      have := congrArg List.length (highestCell_none h)
      simp only [List.length_append, List.length_nil] at this
      simp only [occupied]; omega
    · next c h => rw [ih, discardCell_occupied (highestCell_mem h)]; omega

/-- A sink with a new reservation holds at most that many cells (R147). -/
theorem withReservation_room (r : Nat) (x : Sink) : sinkRoom (withReservation r x) := by
  unfold withReservation sinkRoom
  dsimp only
  split
  · next h =>
    have h1 := trimCells_occupied (occupied { x with reservation := r } - r) { x with reservation := r }
    have h2 := (trimCells_index (occupied { x with reservation := r } - r) { x with reservation := r }).2
    simp only [occupied] at *
    omega
  · next h => simp only [occupied] at *; omega

theorem withReservation_index (r : Nat) (x : Sink) : (withReservation r x).index = x.index := by
  unfold withReservation
  dsimp only
  split
  · exact (trimCells_index _ _).1
  · rfl

/-- One release leaves at most one cell more in the sink's lists (R153 to R156). -/
theorem releaseCell_occupied (late : Bool) (c : SinkCell) (x : Sink) :
    (releaseCell late c x).index = x.index ∧ (releaseCell late c x).reservation = x.reservation ∧
      occupied (releaseCell late c x) ≤ occupied x + 1 := by
  unfold releaseCell
  split
  · exact ⟨rfl, rfl, by omega⟩
  · split
    · exact ⟨rfl, rfl, by simp [occupied, intoReleased]; omega⟩
    · split
      · exact ⟨rfl, rfl, by simp [occupied, intoReleased]; omega⟩
      · dsimp only
        split
        · split
          · exact ⟨rfl, rfl, by simp [occupied, intoReleased, halt]⟩
          · exact ⟨rfl, rfl, by simp [occupied, halt]; omega⟩
        · exact ⟨rfl, rfl, by simp [occupied, intoReleased]; omega⟩

theorem releaseAll_occupied (late : SinkCell → Bool) (cs : List SinkCell) : ∀ x : Sink,
    (cs.foldl (fun x c => releaseCell (late c) c x) x).index = x.index ∧
      (cs.foldl (fun x c => releaseCell (late c) c x) x).reservation = x.reservation ∧
      occupied (cs.foldl (fun x c => releaseCell (late c) c x) x) ≤ occupied x + cs.length := by
  induction cs with
  | nil => intro x; exact ⟨rfl, rfl, by simp⟩
  | cons c cs ih =>
    intro x
    obtain ⟨a, b, d⟩ := ih (releaseCell (late c) c x)
    obtain ⟨a', b', d'⟩ := releaseCell_occupied (late c) c x
    simp only [List.foldl_cons, List.length_cons]
    exact ⟨a.trans a', b.trans b', by omega⟩

/-- The releases at the start of an epoch keep a sink within its reservation (R147, R153). -/
theorem releaseDue_room (low : Seq) (b : Nat) (x : Sink) :
    (releaseDue low b x).index = x.index ∧ (sinkRoom x → sinkRoom (releaseDue low b x)) := by
  unfold releaseDue
  dsimp only
  obtain ⟨h1, h2, h3⟩ := releaseAll_occupied (fun c => decide (32 < releaseIn low b c))
    (x.held.filter fun c => !staysHeld low b c) { x with held := x.held.filter (staysHeld low b) }
  refine ⟨h1, fun h => ?_⟩
  unfold sinkRoom at *
  rw [h2]
  simp only [occupied] at h3
  have h4 := List.length_eq_length_filter_add (l := x.held) (staysHeld low b)
  simp only at *
  omega

theorem present_room (low : Seq) (b : Nat) (c : SinkCell) (x : Sink) :
    (present low b c x).index = x.index ∧ (occupied x < x.reservation → sinkRoom (present low b c x)) := by
  unfold present
  split
  · refine ⟨rfl, fun h => ?_⟩
    simp only [sinkRoom, occupied, List.length_append, List.length_singleton] at *; omega
  · dsimp only
    obtain ⟨h1, h2, h3⟩ := releaseAll_occupied (fun _ => false) x.held { x with held := [] }
    obtain ⟨k1, k2, k3⟩ := releaseCell_occupied true c
      (x.held.foldl (fun x c => releaseCell false c x) { x with held := [] })
    refine ⟨k1.trans h1, fun h => ?_⟩
    unfold sinkRoom
    rw [k2, h2]
    simp only [occupied, List.length_nil] at *
    omega

theorem runningCopy_room (low : Seq) (b : Nat) (c : SinkCell) (x : Sink) :
    (runningCopy low b c x).index = x.index ∧ (sinkRoom x → sinkRoom (runningCopy low b c x)) := by
  unfold runningCopy
  split
  · exact ⟨rfl, id⟩
  · split
    · exact ⟨rfl, id⟩
    · next hlt =>
      obtain ⟨h1, h2⟩ := present_room low b c { x with blockStart := some (x.blockStart.getD c.sequence) }
      exact ⟨h1, fun _ => h2 (by simp only [occupied] at *; omega)⟩

/-- A copy taken keeps a sink within its reservation (R147, R152). -/
theorem takeCopy_room (s : State) (b : Nat) (c : SinkCell) (x : Sink) :
    (takeCopy s b c x).index = x.index ∧ (sinkRoom x → sinkRoom (takeCopy s b c x)) := by
  unfold takeCopy
  have hs : ∀ y, sequenceTest c x = some y → y.index = x.index ∧ (sinkRoom x → sinkRoom y) := by
    intro y hy
    unfold sequenceTest at hy
    dsimp only at hy
    split at hy
    · cases hy; exact ⟨rfl, id⟩
    · split at hy
      · cases hy; exact ⟨rfl, id⟩
      · split at hy
        · cases hy; exact ⟨rfl, id⟩
        · cases hy
  split
  · exact ⟨rfl, id⟩
  · next y hy =>
    obtain ⟨hi, hr⟩ := hs y hy
    split
    · exact ⟨hi, hr⟩
    · obtain ⟨a, b⟩ := runningCopy_room (epochLow s) b c y
      exact ⟨a.trans hi, fun h => b (hr h)⟩
    · split
      · obtain ⟨a, b⟩ := runningCopy_room (epochLow s) b c { y with state := .running, blockStart := some c.sequence }
        exact ⟨a.trans hi, fun h => b (hr h)⟩
      · exact ⟨hi, hr⟩

theorem acknowledge_room (x : Sink) : (acknowledge x).index = x.index ∧ (sinkRoom x → sinkRoom (acknowledge x)) := by
  unfold acknowledge
  dsimp only
  split <;> exact ⟨rfl, id⟩

end Sys2Proof.Machine
end

