-- ==== Sys2Proof/Laws/Invariant.lean ====
section
/-! SUPPORT. Every shared operation keeps the bounds of the invariant. -/

namespace Sys2Proof.Machine

open Sys2Proof

/-! ### Elementary operations -/

/-- A state that agrees in what the invariant reads keeps it. -/
theorem Bounds.congr {s t : State} (h : Bounds s) (hp : t.ports = s.ports) (ht : t.trig = s.trig)
    (hc : t.req.config = s.req.config) (hr : t.streams.records = s.streams.records) (hk : t.sinks = s.sinks) : Bounds t :=
  ⟨fun p => by rw [port_of_ports hp]; exact h.ports p, ht ▸ h.triggers, hc ▸ h.config, hr ▸ h.records, hk ▸ h.sinks⟩

theorem raise_inv (k : NoticeKind) {s : State} (h : Bounds s) : Bounds (raise k s) := h.congr rfl rfl rfl rfl rfl

theorem raiseIf_inv (b : Bool) (k : NoticeKind) {s : State} (h : Bounds s) : Bounds (raiseIf b k s) := by
  unfold raiseIf; split
  · exact raise_inv k h
  · exact h

theorem answer_inv (st : Status) (b : Body) {s : State} (h : Bounds s) : Bounds (answer st b s) := h.congr rfl rfl rfl rfl rfl

theorem refuseWith_inv (r : RefusalReason) {s : State} (h : Bounds s) : Bounds (refuseWith r s) := h.congr rfl rfl rfl rfl rfl

theorem answerLane_inv (a : LaneAnswer) {s : State} (h : Bounds s) : Bounds (s.answerLane a) := h.congr rfl rfl rfl rfl rfl

theorem takeMessage_inv (p : PortId) (m : Msg) {s : State} (h : Bounds s) : Bounds (takeMessage p m s) :=
  h.congr rfl rfl rfl rfl rfl

theorem setPort_inv {p : PortId} {x : Port} {s : State} (h : Bounds s) (hx : PortInv x) : Bounds (s.setPort p x) := by
  refine ⟨fun q => ?_, h.triggers, h.config, h.records, h.sinks⟩
  rw [port_setPort]; split
  · exact hx
  · exact h.ports q

/-- A port that keeps its queues, slot map and miss count keeps its bounds. -/
theorem PortInv.congr {x y : Port} (h : PortInv x) (hp : y.protocolQueue = x.protocolQueue)
    (hf : y.floodQueue = x.floodQueue) (hs : y.slotMap = x.slotMap) (hm : y.missCount = x.missCount)
    (hl : y.lossDue = x.lossDue) : PortInv y := by
  obtain ⟨a, b, c, d, e, f, g⟩ := h
  constructor <;> simp only [hp, hf, hs, hm, hl] <;> assumption

theorem PortInv.map {x : Port} (h : PortInv x) : MapInv x.slotMap := ⟨h.slots, h.slotRange⟩

theorem PortInv.withMap {x : Port} (h : PortInv x) {m : List SlotEntry} (hm : MapInv m) :
    PortInv { x with slotMap := m } := ⟨h.protocol, h.flood, h.announces, hm.order, hm.range, h.misses, h.loss⟩

theorem changePort_inv (p : PortId) (x : PortState) (r : Option PortReason) {s : State} (h : Bounds s) :
    Bounds (changePort p x r s) := raise_inv _ (setPort_inv h ((h.ports p).congr rfl rfl rfl rfl rfl))

theorem setSlotMap_inv {p : PortId} {m : List SlotEntry} {s : State} (h : Bounds s) (hm : MapInv m) :
    Bounds (s.setSlotMap p m) := setPort_inv h ((h.ports p).withMap hm)

theorem setRecords_inv {rs : List StreamRecord} {s : State} (h : Bounds s) (hr : RecordsInv rs) : Bounds (s.setRecords rs) :=
  ⟨h.ports, h.triggers, h.config, hr, h.sinks⟩

theorem sinks_inv {ks : List Sink} {s : State} (h : Bounds s) (hk : SinksInv ks) : Bounds { s with sinks := ks } :=
  ⟨h.ports, h.triggers, h.config, h.records, hk⟩

theorem setTrig_inv {t : TriggerUnit} {s : State} (h : Bounds s) (ht : TriggersInv t) : Bounds (s.setTrig t) :=
  ⟨h.ports, ht, h.config, h.records, h.sinks⟩

theorem setConfig_inv {c : Config} {s : State} (h : Bounds s) (hc : ConfigInv c) : Bounds (s.setConfig c) :=
  ⟨h.ports, h.triggers, hc, h.records, h.sinks⟩

theorem editRecord_inv (i : Nat) {f : StreamRecord → StreamRecord} {s : State} (h : Bounds s)
    (hf : ∀ r, (f r).index = r.index) : Bounds (editRecord i f s) :=
  setRecords_inv h (h.records.map _ fun r => by
    by_cases e : r.index = i
    · simp [e, hf]
    · simp [e])

theorem changeRecord_inv (i : Nat) {f : StreamRecord → StreamRecord} {s : State} (h : Bounds s)
    (hf : ∀ r, (f r).index = r.index) : Bounds (changeRecord i f s) :=
  raise_inv .stream (editRecord_inv i h (f := fun r => { f r with changed := true }) hf)

theorem changeSink_inv (k : Nat) {f : Sink → Sink} {s : State} (h : Bounds s) (hi : ∀ x, (f x).index = x.index)
    (hf : ∀ x, sinkRoom x → sinkRoom (f x)) : Bounds (changeSink k f s) := by
  refine raiseIf_inv _ _ (sinks_inv h (h.sinks.map _ (fun x => ?_) fun x hx => ?_))
  · by_cases e : x.index = k
    · simp [e, hi]
    · simp [e]
  · by_cases e : x.index = k
    · simp only [e, if_true]; exact hf x hx
    · simp only [e, if_false]; exact hx

theorem dropSink_inv (k : Nat) {s : State} (h : Bounds s) : Bounds (dropSink k s) :=
  ⟨h.ports, h.triggers, h.config, h.records.map _ fun _ => rfl, h.sinks.sublist List.filter_sublist⟩

theorem detachSink_inv (k : Nat) {s : State} (h : Bounds s) : Bounds (detachSink k s) := raise_inv _ (dropSink_inv k h)

theorem captures_inv (c : Captures) {s : State} (h : Bounds s) : Bounds { s with captures := c } := h.congr rfl rfl rfl rfl rfl

theorem capturePort_inv (p : PortId) (k : ErrorKind) (n : Option Nat) (id : Option StreamId) (d : Detail) {s : State}
    (h : Bounds s) : Bounds (capturePort p k n id d s) := raiseIf_inv _ _ (captures_inv _ h)

theorem captureLane_inv (k : ErrorKind) (id : Option StreamId) (d : Detail) {s : State} (h : Bounds s) :
    Bounds (captureLane k id d s) := raiseIf_inv _ _ (captures_inv _ h)

theorem captureProtocol_inv (k : ErrorKind) (id : Option StreamId) (d : Detail) {s : State} (h : Bounds s) :
    Bounds (captureProtocol k id d s) := raiseIf_inv _ _ (captures_inv _ h)

theorem protocolError_inv (c : ProtocolCause) (m : Msg) (p : PortId) {s : State} (h : Bounds s) :
    Bounds (protocolError c m p s) := captureProtocol_inv _ _ _ h

theorem fold_inv {α : Type} (f : State → α → State) (hf : ∀ s a, Bounds s → Bounds (f s a)) (l : List α) {s : State}
    (h : Bounds s) : Bounds (l.foldl f s) := foldl_invariant Bounds f hf l s h

/-! ### Port queues (R13, R15) -/

/-- A message joins a protocol queue only while it holds fewer than its class allows (R13). -/
theorem protocolAnswer_taken {s : State} {p : PortId} {m : Msg} (h : protocolAnswer s p m = .taken) :
    takesOffers (s.port p).state = true ∧ (s.port p).protocolQueue.length < protocolRoom m := by
  unfold protocolAnswer at h
  split at h
  · cases h
  · next h1 =>
    split at h
    · next h2 => exact ⟨by simpa using h1, h2⟩
    · cases h

theorem protocolRoom_le (m : Msg) : protocolRoom m ≤ 20 := by
  unfold protocolRoom; split <;> decide

theorem joinProtocol_inv (p : PortId) (m : Msg) {s : State} (h : Bounds s) : Bounds (joinProtocol p m s) := by
  unfold joinProtocol; split
  · next ht =>
    have h1 := (protocolAnswer_taken ht).2
    have h2 := protocolRoom_le m
    obtain ⟨_, b, c, d, e, f, g⟩ := h.ports p
    exact setPort_inv h ⟨by simp only [List.length_append, List.length_singleton]; omega, b, c, d, e, f, g⟩
  · exact h

theorem send_inv (p : PortId) (m : Msg) {s : State} (h : Bounds s) : Bounds (send p m s) := by
  unfold send; split
  · exact joinProtocol_inv p m h
  · exact protocolError_inv _ m p h
  · exact h

theorem sendSide_inv (side : Option PortId) (m : Msg) {s : State} (h : Bounds s) : Bounds (sendSide side m s) := by
  unfold sendSide; split
  · exact send_inv _ m h
  · exact h

theorem announces_iff (x : FrameId) (m : Msg) : announces x m = true ↔ announcedFrame m = some x := by
  cases m <;> simp [announces, announcedFrame]

/-- A flood queue keeps its size and holds one ANNOUNCE for a frame at most (R15). -/
theorem floodAnnounce_inv (a : AnnounceMsg) (q : List Msg) (hl : q.length ≤ 8)
    (hq : (q.filterMap announcedFrame).Nodup) :
    (floodAnnounce a q).length ≤ 8 ∧ ((floodAnnounce a q).filterMap announcedFrame).Nodup := by
  unfold floodAnnounce
  split
  · refine ⟨by simpa using hl, ?_⟩
    have : (q.map fun m => if announces a.frame m then Msg.announce a else m).filterMap announcedFrame =
        q.filterMap announcedFrame := by
      rw [List.filterMap_map]
      congr 1
      funext m
      simp only [Function.comp]
      split
      · next h => rw [(announces_iff _ _).mp h]; rfl
      · rfl
    rw [this]; exact hq
  · next hn =>
    split
    · next hlt =>
      refine ⟨by simp [Figures.floodQueueSize] at *; omega, ?_⟩
      rw [List.filterMap_append, List.nodup_append]
      refine ⟨hq, by simp [announcedFrame], ?_⟩
      intro x hx y hy
      simp only [List.filterMap_cons, List.filterMap_nil, announcedFrame, List.mem_singleton] at hy
      subst hy
      obtain ⟨m, hm, he⟩ := List.mem_filterMap.mp hx
      rintro rfl
      exact hn (List.any_eq_true.mpr ⟨m, hm, (announces_iff _ _).mpr he⟩)
    · exact ⟨hl, hq⟩

theorem offerAnnounce_inv (a : AnnounceMsg) (p : PortId) {s : State} (h : Bounds s) : Bounds (offerAnnounce a p s) := by
  unfold offerAnnounce; split
  · obtain ⟨x, b, c, d, e, f⟩ := h.ports p
    obtain ⟨u, v⟩ := floodAnnounce_inv a _ b c
    exact setPort_inv h ⟨x, u, v, d, e, f, (h.ports p).loss⟩
  · exact h

theorem offerFlood_inv (m : Msg) (hm : announcedFrame m = none) (p : PortId) {s : State} (h : Bounds s) :
    Bounds (offerFlood m p s) := by
  unfold offerFlood; split
  · exact h
  · split
    · next hlt =>
      obtain ⟨x, b, c, d, e, f⟩ := h.ports p
      refine setPort_inv h ⟨x, ?_, ?_, d, e, f, (h.ports p).loss⟩
      · simp [Figures.floodQueueSize] at *; omega
      · simpa [List.filterMap_append, hm] using c
    · exact protocolError_inv _ m p h

theorem offerAll_inv (offer : PortId → State → State) (ho : ∀ p s, Bounds s → Bounds (offer p s)) (ps : List PortId) {s : State}
    (h : Bounds s) : Bounds (offerAll offer ps s) := fold_inv _ (fun s p hs => ho p s hs) ps h

/-! ### Slots and sinks of a record -/

theorem assignSlots_inv (i n : Nat) {s : State} (h : Bounds s) : Bounds (assignSlots i n s) := by
  unfold assignSlots; split
  · exact setSlotMap_inv h (assignIn_inv (usableCount_le _) (h.ports _).map)
  · exact h

theorem keepSlots_inv (p : PortId) (k i : Nat) {s : State} (h : Bounds s) :
    Bounds (s.setSlotMap p (keepSlots k i (s.port p).slotMap)) :=
  setSlotMap_inv h ((h.ports p).map.sublist (keepSlots_sublist k i _))

theorem releaseSlots_inv (i k : Nat) {s : State} (h : Bounds s) : Bounds (releaseSlots i k s) := by
  unfold releaseSlots; split
  · dsimp only; split
    · exact changeRecord_inv _ (keepSlots_inv _ _ _ h) (by exact fun _ => rfl)
    · exact keepSlots_inv _ _ _ h
  · exact h

theorem reserveSinks_inv (r : StreamRecord) (c : Nat) {s : State} (h : Bounds s) : Bounds (reserveSinks r c s) :=
  fold_inv _ (fun _ k hs => changeSink_inv k hs (fun x => withReservation_index _ x)
    (fun x _ => withReservation_room _ x)) _ h

theorem setSettle_inv (r : StreamRecord) (e : Option Epoch) {s : State} (h : Bounds s) : Bounds (setSettle r e s) :=
  fold_inv (fun s k => changeSink k (fun x => { x with settle := e }) s)
    (fun _ k hs => changeSink_inv k hs (by exact fun _ => rfl) (by exact fun _ hx => hx)) _ h

theorem copyToSinks_inv (r : StreamRecord) (c : SinkCell) {s : State} (h : Bounds s) : Bounds (copyToSinks r c s) :=
  fold_inv (fun s' k => changeSink k (takeCopy s' r.budget c) s')
    (fun s' k hs => changeSink_inv k hs (fun x => (takeCopy_room s' r.budget c x).1)
      (fun x => (takeCopy_room s' r.budget c x).2)) _ h

/-! ### The Stream Table and the Path Controller -/

theorem suspend_inv (i : Nat) (c : ReasonCode) (free : Bool) {s : State} (h : Bounds s) : Bounds (suspend i c free s) := by
  unfold suspend; split
  · exact h
  · split
    · split
      · exact releaseSlots_inv i 0 h
      · exact h
    · dsimp only
      have k : ∀ k, Bounds (releaseSlots i k (changeRecord i (suspended c) s)) := fun k =>
        releaseSlots_inv i k (changeRecord_inv i h (by exact fun _ => rfl))
      split
      · exact setSettle_inv _ _ (reserveSinks_inv _ _ (k _))
      · exact k _

theorem removeRecord_inv (i : Nat) {s : State} (h : Bounds s) : Bounds (removeRecord i s) := by
  unfold removeRecord; split
  · exact h
  · next r _ =>
    dsimp only
    have a : Bounds (match r.egress with
        | some p => s.setSlotMap p (keepSlots 0 i (s.port p).slotMap)
        | none => s) := by
      split
      · exact keepSlots_inv _ _ _ h
      · exact h
    have b := fold_inv (fun s k => detachSink k s) (fun _ k hs => detachSink_inv k hs) r.sinks a
    exact raise_inv _ (setRecords_inv b (b.records.sublist List.filter_sublist))

theorem closeRecord_inv (i : Nat) (reason : StreamReason) (f : Option FrameId) {s : State} (h : Bounds s) :
    Bounds (closeRecord i reason f s) := releaseSlots_inv i 0 (changeRecord_inv i h (by exact fun _ => rfl))

theorem activate_inv (i : Nat) (n : Option Nat) {s : State} (h : Bounds s) : Bounds (activate i n s) := by
  have k := changeRecord_inv i h
    (f := fun r =>
      { r with
        state := .active, activation := some s.streams.activations, pathLength := n
        setupTimer := none, suspendTimer := none, rerouteTimer := none, queue := [] }) (fun _ => rfl)
  exact ⟨k.ports, k.triggers, k.config, k.records, k.sinks⟩

theorem revertRetune_inv (i : Nat) {s : State} (h : Bounds s) : Bounds (revertRetune i s) := by
  unfold revertRetune; split
  · exact h
  · exact reserveSinks_inv _ _ (releaseSlots_inv i _ (changeRecord_inv i h (by exact fun _ => rfl)))

theorem refuseRetune_inv (i : Nat) (c : ReasonCode) {s : State} (h : Bounds s) : Bounds (refuseRetune i c s) :=
  changeRecord_inv i (revertRetune_inv i h) (by exact fun _ => rfl)

theorem captureTrim_inv (p : PortId) (cs : List QueuedCell) {s : State} (h : Bounds s) : Bounds (captureTrim p cs s) :=
  fold_inv _ (fun _ _ hs => capturePort_inv p _ _ _ _ hs) cs h

theorem switchRecord_inv (i : Nat) {s : State} (h : Bounds s) : Bounds (switchRecord i s) := by
  unfold switchRecord; split
  · exact h
  · split
    · exact h
    · dsimp only
      have k : ∀ (b : Prop) [Decidable b] (n : Nat), Bounds (if b then releaseSlots i n s else s) := by
        intro b _ n
        split
        · exact releaseSlots_inv i _ h
        · exact h
      split
      · exact captureTrim_inv _ _ (changeRecord_inv i (k _ _) (by exact fun _ => rfl))
      · exact changeRecord_inv i (k _ _) (by exact fun _ => rfl)

theorem timeLostRecord_inv (i : Nat) {s : State} (h : Bounds s) : Bounds (timeLostRecord i s) := by
  unfold timeLostRecord; split
  · split
    · exact sendSide_inv _ _ (sendSide_inv _ _ (suspend_inv i _ _ h))
    · exact h
  · exact h

theorem loseTime_inv {s : State} (h : Bounds s) : Bounds (loseTime s) := fold_inv _ (fun _ i hs => timeLostRecord_inv i hs) _ h

theorem portResetRecord_inv (p : PortId) (i : Nat) {s : State} (h : Bounds s) : Bounds (portResetRecord p i s) := by
  unfold portResetRecord; split
  · exact h
  · split
    · split
      · exact sendSide_inv _ _ (suspend_inv i _ _ h)
      · split
        · exact releaseSlots_inv i 0 h
        · exact h
    · split
      · exact sendSide_inv _ _ (suspend_inv i _ _ h)
      · exact h

theorem portResetStreams_inv (p : PortId) {s : State} (h : Bounds s) : Bounds (portResetStreams p s) :=
  fold_inv _ (fun _ i hs => portResetRecord_inv p i hs) _ h

theorem drainEndRecord_inv (i : Nat) {s : State} (h : Bounds s) : Bounds (drainEndRecord i s) := by
  unfold drainEndRecord; split
  · exact h
  · split
    · exact h
    · dsimp only
      refine suspend_inv i _ _ ?_
      split
      · exact sendSide_inv _ _ h
      · exact sendSide_inv _ _ (sendSide_inv _ _ h)
      · exact sendSide_inv _ _ h
      · exact h

theorem drainEndStreams_inv {s : State} (h : Bounds s) : Bounds (drainEndStreams s) :=
  fold_inv _ (fun _ i hs => drainEndRecord_inv i hs) _ h

theorem clearMessages_inv (r : StreamRecord) {s : State} (h : Bounds s) : Bounds (clearMessages r s) := by
  unfold clearMessages; split
  · exact h
  · split
    · exact sendSide_inv _ _ h
    · exact sendSide_inv _ _ (sendSide_inv _ _ h)
    · exact sendSide_inv _ _ h
    · exact h

theorem repackTake_inv (p : PortId) (i : Nat) {s : State} (h : Bounds s) : Bounds (repackTake p s i) := by
  unfold repackTake; split
  · exact h
  · split
    · exact h
    · split
      · exact releaseSlots_inv i 0 h
      · exact sendSide_inv _ _ (sendSide_inv _ _ (suspend_inv i _ _ h))

theorem repack_inv (p : PortId) {s : State} (h : Bounds s) : Bounds (repack p s) := by
  unfold repack; split
  · have k := fold_inv (repackTake p) (fun _ i hs => repackTake_inv p i hs) (repackOrder s p) h
    exact setSlotMap_inv k (foldl_invariant MapInv _ (fun _ i hm => moveRecord_inv i (usableCount_le _) hm) _ _
      (k.ports p).map)
  · exact h

theorem refuseOrigin_inv (i : Nat) (c : ReasonCode) (f : FrameId) {s : State} (h : Bounds s) :
    Bounds (refuseOrigin i c f s) := by
  unfold refuseOrigin; split
  · exact h
  · split
    · exact closeRecord_inv i _ _ h
    · exact editRecord_inv i (suspend_inv i _ _ h) (by exact fun _ => rfl)

theorem offerSetup_inv (i : Nat) {s : State} (h : Bounds s) : Bounds (offerSetup i s) := by
  unfold offerSetup; split
  · exact h
  · split
    · exact h
    · split
      · exact joinProtocol_inv _ _ h
      · exact refuseOrigin_inv i _ _ h
      · exact h

theorem stageRetune_inv (i : Nat) (d : Staged) (t : Option Nat) {s : State} (h : Bounds s) : Bounds (stageRetune i d t s) := by
  unfold stageRetune; split
  · exact h
  · exact reserveSinks_inv _ _ (assignSlots_inv i _ (changeRecord_inv i h (by exact fun _ => rfl)))

theorem takeSwitchEpoch_inv (i : Nat) (e : Epoch) {s : State} (h : Bounds s) : Bounds (takeSwitchEpoch i e s) := by
  unfold takeSwitchEpoch; split
  · exact h
  · exact setSettle_inv _ _ (editRecord_inv i h (by exact fun _ => rfl))

/-! ### The Frame Directory and the Timebase Unit -/

theorem time_dir_inv (t : Timebase) (d : Directory) {s : State} (h : Bounds s) : Bounds { s with time := t, dir := d } :=
  h.congr rfl rfl rfl rfl rfl

theorem announceRepeating_inv (p : PortId) {s : State} (h : Bounds s) : Bounds (announceRepeating p s) := by
  unfold announceRepeating; split
  · exact h
  · exact offerAnnounce_inv _ p h

theorem announceAdvancing_inv {s : State} (h : Bounds s) : Bounds (announceAdvancing s) := by
  unfold announceAdvancing; split
  · exact h
  · exact offerAll_inv _ (fun p _ hs => offerAnnounce_inv _ p hs) _ (h.congr rfl rfl rfl rfl rfl)

theorem shiftTiming_inv (eval : State → State) (he : ∀ s, Bounds s → Bounds (eval s)) (x : TimingState) {s : State} (h : Bounds s) :
    Bounds (shiftTiming eval x s) := by
  unfold shiftTiming
  dsimp only
  refine he _ (announceAdvancing_inv ?_)
  split
  · exact loseTime_inv (raise_inv _ (h.congr rfl rfl rfl rfl rfl))
  · exact raise_inv _ (h.congr rfl rfl rfl rfl rfl)

theorem toTiming_inv (eval : State → State) (he : ∀ s, Bounds s → Bounds (eval s)) (x : TimingState) {s : State} (h : Bounds s) :
    Bounds (toTiming eval x s) := by
  unfold toTiming; split
  · exact h
  · dsimp only; split
    · exact shiftTiming_inv eval he _ (shiftTiming_inv eval he _ h)
    · exact shiftTiming_inv eval he _ h

theorem handResult_inv (eval : State → State) (he : ∀ s, Bounds s → Bounds (eval s)) (r : ElectionResult) {s : State}
    (h : Bounds s) : Bounds (handResult eval r s) := by
  unfold handResult
  dsimp only
  generalize hu : raiseIf _ NoticeKind.timing _ = u
  have k : Bounds u := by
    subst hu
    exact raiseIf_inv _ _ (h.congr rfl rfl rfl rfl rfl)
  split
  · split
    · exact he _ k
    · exact k
  · exact toTiming_inv eval he _ k

theorem evaluateFor_inv (n : Nat) : ∀ s, Bounds s → Bounds (evaluateFor n s) := by
  induction n with
  | zero => exact fun _ h => h
  | succ n ih =>
    intro s h
    unfold evaluateFor
    dsimp only
    split
    · exact h.congr rfl rfl rfl rfl rfl
    · exact handResult_inv _ ih _ (raise_inv _ (h.congr rfl rfl rfl rfl rfl))

theorem evaluate_inv {s : State} (h : Bounds s) : Bounds (evaluate s) := evaluateFor_inv 8 s h

theorem changeTiming_inv (x : TimingState) {s : State} (h : Bounds s) : Bounds (changeTiming x s) :=
  toTiming_inv evaluate (fun _ => evaluate_inv) x h

theorem clearCounts_inv {s : State} (h : Bounds s) : Bounds (clearCounts s) := h.congr rfl rfl rfl rfl rfl

theorem timingPortLost_inv (p : PortId) {s : State} (h : Bounds s) : Bounds (timingPortLost p s) := by
  unfold timingPortLost; split
  · split
    · exact changeTiming_inv _ (clearCounts_inv h)
    · exact changeTiming_inv _ (clearCounts_inv h)
    · exact clearCounts_inv h
    · exact clearCounts_inv h
  · exact h

theorem referenceChanged_inv {s : State} (h : Bounds s) : Bounds (referenceChanged s) :=
  evaluate_inv (announceAdvancing_inv (raise_inv _ h))

theorem enterAcquiring_inv (o : Observation) {s : State} (h : Bounds s) : Bounds (enterAcquiring o s) := by
  unfold enterAcquiring
  dsimp only
  split
  · exact (changeTiming_inv _ h).congr rfl rfl rfl rfl rfl
  · exact changeTiming_inv _ h

theorem observeUsable_inv (o : Observation) {s : State} (h : Bounds s) : Bounds (observeUsable o s) := by
  unfold observeUsable
  dsimp only
  have k : Bounds { s with time := { s.time with lastPhase := some o } } := h.congr rfl rfl rfl rfl rfl
  split
  · exact enterAcquiring_inv o k
  · exact k.congr rfl rfl rfl rfl rfl
  · split
    · exact enterAcquiring_inv o k
    · exact k.congr rfl rfl rfl rfl rfl
  · exact k.congr rfl rfl rfl rfl rfl

theorem observeUnusable_inv {s : State} (h : Bounds s) : Bounds (observeUnusable s) := h.congr rfl rfl rfl rfl rfl

theorem observeMarker_inv (p : PortId) (b : Bool) (a : Stamp) (n : Epoch) {s : State} (h : Bounds s) :
    Bounds (observeMarker p b a n s) := by
  unfold observeMarker; split
  · split
    · exact h
    · split
      · exact observeUsable_inv _ h
      · exact observeUnusable_inv h
  · exact h

theorem observeMiss_inv (p : PortId) {s : State} (h : Bounds s) : Bounds (observeMiss p s) := by
  unfold observeMiss; split
  · exact observeUnusable_inv h
  · exact h

/-! ### Ports (R26 to R31, R35, R58 to R62) -/

theorem admitPort_inv (p : PortId) {s : State} (h : Bounds s) : Bounds (admitPort p s) := by
  unfold admitPort; split
  · exact changePort_inv _ _ _ h
  · exact h

theorem enterUp_inv (p : PortId) {s : State} (h : Bounds s) : Bounds (enterUp p s) := by
  unfold enterUp
  dsimp only
  have k := changePort_inv p .up (upReason s p) h
  exact admitPort_inv p (announceRepeating_inv p (setPort_inv k ((k.ports p).congr rfl rfl rfl rfl rfl)))

theorem nextHopLost_inv (p : PortId) {s : State} (h : Bounds s) : Bounds (nextHopLost p s) :=
  evaluate_inv (raiseIf_inv _ _ (h.congr rfl rfl rfl rfl rfl))

theorem enterFault_inv (p : PortId) (r : PortReason) {s : State} (h : Bounds s) : Bounds (enterFault p r s) := by
  unfold enterFault
  dsimp only
  have k : ∀ (b : Prop) [Decidable b], Bounds (if b then nextHopLost p (changePort p .fault (some r) s)
      else changePort p .fault (some r) s) := by
    intro b _; split
    · exact nextHopLost_inv p (changePort_inv _ _ _ h)
    · exact changePort_inv _ _ _ h
  split
  · exact timingPortLost_inv p (k _)
  · exact k _

theorem portReset_inv (p : PortId) (c : ErrorKind) (d : Detail) {s : State} (h : Bounds s) : Bounds (portReset p c d s) := by
  unfold portReset
  dsimp only
  refine capturePort_inv _ _ _ _ _ (setSlotMap_inv ?_ MapInv.nil)
  have k : Bounds (raise .port (s.setPort p (resetOwnState (s.port p)))) := by
    refine raise_inv _ (setPort_inv h ?_)
    have x := h.ports p
    exact ⟨by simp [resetOwnState], by simp [resetOwnState], by simp [resetOwnState], x.slots, x.slotRange,
      by simp [resetOwnState], by simp [resetOwnState]⟩
  have n := nextHopLost_inv p k
  refine portResetStreams_inv p ?_
  exact timingPortLost_inv p (setPort_inv n ((n.ports p).congr rfl rfl rfl rfl rfl))

theorem takeCause_inv (p : PortId) (c : ErrorKind) {s : State} (h : Bounds s) : Bounds (takeCause p c s) := by
  unfold takeCause; split
  · exact portReset_inv _ _ _ h
  · exact h

theorem giveUpLock_inv {x : Port} (h : PortInv x) : PortInv (giveUpLock x) := by
  unfold giveUpLock; split
  · obtain ⟨a, b, c, d, e, f⟩ := h
    exact ⟨a, b, c, d, e, by simp, by simp⟩
  · exact h.congr rfl rfl rfl rfl rfl

theorem countError_inv (p : PortId) {s : State} (h : Bounds s) : Bounds (countError p s) := by
  unfold countError; split
  · exact h
  · dsimp only
    have k := setPort_inv (p := p) (x := { s.port p with symbolErrors := (s.port p).symbolErrors + 1 }) h
      ((h.ports p).congr rfl rfl rfl rfl rfl)
    split
    · split
      · exact setPort_inv k (giveUpLock_inv (k.ports p))
      · exact takeCause_inv p _ k
    · exact k

theorem countErrors_inv (n : Nat) (p : PortId) : ∀ {s : State}, Bounds s → Bounds (countErrors n p s) := by
  induction n with
  | zero => exact fun h => h
  | succ n ih => exact fun h => ih (countError_inv p h)

theorem endDrain_inv {s : State} (h : Bounds s) : Bounds (endDrain s) := by
  unfold endDrain
  dsimp only
  exact fold_inv _ (fun _ p hs => changePort_inv p _ _ hs) _
    (drainEndStreams_inv (raise_inv _ (h.congr rfl rfl rfl rfl rfl)))

theorem reexaminePort_inv (p : PortId) {s : State} (h : Bounds s) : Bounds (reexaminePort p s) := by
  unfold reexaminePort
  dsimp only
  have k := setPort_inv (p := p) (x := { s.port p with announceSeen := false }) h ((h.ports p).congr rfl rfl rfl rfl rfl)
  split
  · split
    · exact enterFault_inv _ _ k
    · exact admitPort_inv p (setPort_inv k ((k.ports p).congr rfl rfl rfl rfl rfl))
  · split
    · exact enterUp_inv p h
    · exact h
  · split
    · exact enterFault_inv _ _ h
    · exact h
  · exact h
  · exact h
  · exact h
  · exact h

theorem takeFrameId_inv (f : FrameId) {s : State} (h : Bounds s) : Bounds (takeFrameId f s) := by
  unfold takeFrameId renumberDirectory
  dsimp only
  refine evaluate_inv (announceAdvancing_inv (raiseIf_inv _ _ (Bounds.congr
    (fold_inv _ (fun _ p hs => reexaminePort_inv p hs) allPorts
      (s := { s with req := { s.req with config := { s.req.config with frameId := f } } }) ?_) rfl rfl rfl rfl rfl)))
  obtain ⟨a, b, c, d, e, g⟩ := h.config
  exact ⟨h.ports, h.triggers, ⟨a, b, c, d, e, g⟩, h.records, h.sinks⟩

theorem delayVerdict_inv (p : PortId) (d : Nat) {s : State} (h : Bounds s) : Bounds (delayVerdict p d s) := by
  unfold delayVerdict; split
  · split
    · exact enterFault_inv _ _ h
    · split
      · exact enterFault_inv _ _ h
      · exact enterUp_inv p h
  · split
    · exact enterFault_inv _ _ h
    · exact h
  all_goals exact h

theorem setDelay_inv (p : PortId) (r : DelayRecord) {s : State} (h : Bounds s) : Bounds (setDelay p r s) := by
  unfold setDelay
  dsimp only
  have k := setPort_inv (p := p) (x := { s.port p with delay := r, jumpStands := jumpFound (s.port p) r }) h ((h.ports p).congr rfl rfl rfl rfl rfl)
  split
  · exact repack_inv p k
  · exact k

theorem sampleDelay_inv (p : PortId) (m : Marker) (a : Stamp) {s : State} (h : Bounds s) : Bounds (sampleDelay p m a s) := by
  unfold sampleDelay; split
  · split
    · exact h
    · next x _ =>
      dsimp only
      have k : Bounds (if x < 0 then capturePort p .negativeDelay (some 0) none (.delay x) s else s) := by
        split
        · exact capturePort_inv _ _ _ _ _ h
        · exact h
      split
      · exact delayVerdict_inv _ _ (setDelay_inv p _ k)
      · exact setDelay_inv p _ k
  · exact h

theorem acceptMarker_inv (p : PortId) (m : Marker) (i : InfoBits) (a : Stamp) {s : State} (h : Bounds s) :
    Bounds (acceptMarker p m i a s) := by
  unfold acceptMarker
  dsimp only
  refine observeMarker_inv _ _ _ _ ?_
  have k : Bounds (recordMarker p m i a s) := by
    refine raiseIf_inv _ _ (setPort_inv h ?_)
    obtain ⟨x, b, c, d, e, f⟩ := h.ports p
    exact ⟨x, b, c, d, e, by simp, by simp⟩
  unfold bringUp
  split
  · dsimp only
    have n := changePort_inv p .probing none k
    exact setPort_inv n ((n.ports p).congr rfl rfl rfl rfl rfl)
  · exact sampleDelay_inv p m _ k

theorem takeMarker_inv (p : PortId) (bs : List Byte) (a : Stamp) {s : State} (h : Bounds s) : Bounds (takeMarker p bs a s) := by
  unfold takeMarker
  dsimp only
  split
  · exact capturePort_inv _ _ _ _ _ h
  · split
    · exact capturePort_inv _ _ _ _ _ h
    · exact acceptMarker_inv _ _ _ _ h
  · have k := capturePort_inv p .markerCorrected (some 0) none
    split
    · exact capturePort_inv _ _ _ _ _ (k _ h)
    · exact acceptMarker_inv _ _ _ _ (k _ h)

theorem setRecognizer_inv (p : PortId) (r : Recognizer) {s : State} (h : Bounds s) : Bounds (setRecognizer p r s) :=
  setPort_inv h ((h.ports p).congr rfl rfl rfl rfl rfl)

theorem readByte_inv (p : PortId) (b : Byte) {s : State} (h : Bounds s) : Bounds (readByte p b s) := by
  unfold readByte
  dsimp only
  split
  · exact setRecognizer_inv _ _ h
  · split
    · exact takeMarker_inv _ _ _ (setRecognizer_inv _ _ h)
    · exact setRecognizer_inv _ _ h

theorem recognize_inv (p : PortId) (c : Symbol) (a : Stamp) {s : State} (h : Bounds s) : Bounds (recognize p c a s) := by
  unfold recognize
  dsimp only
  split
  · split
    · exact setRecognizer_inv _ _ h
    · exact h
    all_goals exact setRecognizer_inv _ _ h
  · split
    · exact readByte_inv _ _ h
    · exact readByte_inv _ _ h
    · exact h
    all_goals exact capturePort_inv _ _ _ _ _ (setRecognizer_inv _ _ h)

theorem receiveSymbol_inv (p : PortId) (c : Symbol) (a : Stamp) {s : State} (h : Bounds s) :
    Bounds (receiveSymbol p c a s) := by
  unfold receiveSymbol
  have k : Bounds (if c = .invalid then countError p s else s) := by
    split
    · exact countError_inv p h
    · exact h
  revert k
  generalize (if c = .invalid then countError p s else s) = u
  intro k
  dsimp only
  split
  · exact recognize_inv _ _ _ k
  · exact k

theorem recognizeAll_inv (p : PortId) (cs : List Symbol) : ∀ {s : State}, Bounds s → Bounds (recognizeAll p cs s) := by
  induction cs with
  | nil => exact fun h => h
  | cons c cs ih =>
    intro s h
    exact ih (receiveSymbol_inv p c _ h)

/-! ### The Trigger Scheduler -/

theorem reportTrigger_inv (id : TriggerId) {s : State} (h : Bounds s) : Bounds (reportTrigger id s) := by
  unfold reportTrigger
  dsimp only
  refine raiseIf_inv _ _ (sinks_inv h (h.sinks.map _ (fun x => ?_) fun x hx => ?_))
  · split <;> rfl
  · split
    · exact hx
    · exact hx

theorem insertBy_length {α : Type} (b : α → α → Bool) (a : α) (l : List α) :
    (insertBy b a l).length = l.length + 1 := by
  induction l with
  | nil => rfl
  | cons x l ih => unfold insertBy; split <;> simp [ih]

theorem dropEntry_inv (id : TriggerId) {s : State} (h : Bounds s) : Bounds (dropEntry id s) := by
  obtain ⟨a, b, c, d⟩ := h.triggers
  exact reportTrigger_inv _ (setTrig_inv h ⟨(List.length_filter_le _ _).trans a, b, c, d⟩)

/-- Making room leaves fewer than 32 entries where an entry can be stored (R79). -/
theorem makeRoom_inv {s : State} (h : Bounds s) : Bounds (makeRoom s) ∧ (canStore s = true → (makeRoom s).trig.table.length < 32) := by
  unfold makeRoom
  split
  · next hl => exact ⟨h, fun _ => hl⟩
  · next hl =>
    split
    · next e he =>
      refine ⟨dropEntry_inv _ h, fun _ => ?_⟩
      have hm := List.mem_of_find?_eq_some he
      have ht := h.triggers.table
      have : (dropEntry e.id s).trig.table = s.trig.table.filter fun x => x.id != e.id := by
        unfold dropEntry reportTrigger raiseIf
        dsimp only
        split <;> rfl
      rw [this]
      refine lt_of_lt_of_le (List.length_filter_lt_length_iff_exists.mpr ⟨e, hm, by simp⟩) ht
    · next he =>
      refine ⟨h, fun hc => ?_⟩
      exfalso
      simp only [earliestNonArmed, List.find?_eq_none] at he
      simp only [canStore, Bool.or_eq_true, decide_eq_true_eq, List.any_eq_true] at hc
      rcases hc with hc | ⟨x, hx, hy⟩
      · exact hl hc
      · exact he x hx hy

theorem storeTrigger_inv (e : TriggerEntry) {s : State} (h : Bounds s) : Bounds (storeTrigger e s) := by
  unfold storeTrigger
  split
  · next hc =>
    obtain ⟨k, hl⟩ := makeRoom_inv h
    have := hl hc
    obtain ⟨a, b, c, d⟩ := k.triggers
    exact setTrig_inv k ⟨by simp only [insertBy_length]; omega, b, c, d⟩
  · obtain ⟨a, b, c, d⟩ := h.triggers
    refine raise_inv _ (setTrig_inv h ⟨a, ?_, ?_, d⟩)
    · simp only [List.length_append, List.length_singleton]
      split
      · next hl => simp only [Figures.droppedNotes] at hl; omega
      · next hl => simp only [List.length_drop, Figures.droppedNotes] at *; omega
    · simp only [saturate, Figures.saturation]; omega

theorem createTrigger_inv (f : RackTime) (c : Nat) {s : State} (h : Bounds s) : Bounds (createTrigger f c s) := by
  unfold createTrigger
  dsimp only
  refine offerAll_inv _ (fun p _ hs => offerFlood_inv _ rfl p hs) _ (storeTrigger_inv _ (setTrig_inv h ?_))
  obtain ⟨a, b, c, d⟩ := h.triggers
  exact ⟨a, b, c, d⟩

theorem setTriggerState_inv (id : TriggerId) (x : TriggerState) {s : State} (h : Bounds s) : Bounds (setTriggerState id x s) := by
  obtain ⟨a, b, c, d⟩ := h.triggers
  exact setTrig_inv h ⟨by simpa using a, b, c, d⟩

theorem cancelEntry_inv (id : TriggerId) {s : State} (h : Bounds s) : Bounds (cancelEntry id s) :=
  raise_inv _ (reportTrigger_inv _ (setTriggerState_inv _ _ h))

theorem fireEntry_inv {n : Nat} (hn : n ≤ 64) (e : TriggerEntry) {s : State} (h : Bounds s) : Bounds (fireEntry n e s) := by
  unfold fireEntry
  refine raise_inv _ ?_
  split
  · have k := setTriggerState_inv e.id (.fired (s.time.state == .holdover)) h
    unfold beginPulse
    split
    · exact k
    · obtain ⟨a, b, c, d⟩ := k.triggers
      refine setTrig_inv k ⟨a, b, c, fun p hp => ?_⟩
      rcases List.mem_append.mp hp with hp | hp
      · exact d p hp
      · rw [List.mem_singleton.mp hp]; exact hn
  · exact reportTrigger_inv _ (setTriggerState_inv _ _ h)

theorem fireIfReached_inv (id : TriggerId) {s : State} (h : Bounds s) : Bounds (fireIfReached id s) := by
  unfold fireIfReached; split
  · exact h
  · split
    · exact fireEntry_inv (Nat.le_refl 64) _ h
    · exact h

theorem fireThose_inv (hit : TriggerEntry → Bool) {left : TriggerEntry → Nat} (hl : ∀ e, left e ≤ 64) {s : State}
    (h : Bounds s) : Bounds (fireThose hit left s) :=
  fold_inv (fun s e => fireEntry (left e) e s) (fun _ e hs => fireEntry_inv (hl e) e hs) _ h

theorem fireOverdue_inv {s : State} (h : Bounds s) : Bounds (fireOverdue s) :=
  fireThose_inv _ (fun _ => Nat.le_refl 64) h

theorem stepReport_inv {s : State} (h : Bounds s) : Bounds (stepReport s) := by
  unfold stepReport
  dsimp only
  refine raise_inv _ (fold_inv _ (fun _ id hs => reportTrigger_inv id hs) _ (setTrig_inv h ?_))
  obtain ⟨a, b, c, d⟩ := h.triggers
  exact ⟨by simpa using a, b, c, d⟩

theorem retain_inv {s : State} (h : Bounds s) : Bounds (retain s) := by
  unfold retain
  dsimp only
  refine fold_inv _ (fun _ id hs => dropEntry_inv id hs) _ (setTrig_inv h ?_)
  obtain ⟨a, b, c, d⟩ := h.triggers
  exact ⟨a, (List.length_filter_le _ _).trans b, c, d⟩

theorem setInput_inv (i : InputId) (x : InputLine) {s : State} (h : Bounds s) : Bounds (setInput i x s) := by
  obtain ⟨a, b, c, d⟩ := h.triggers
  exact setTrig_inv h ⟨a, b, c, d⟩

theorem takeEdge_inv (i : InputId) (e : RackTime) {s : State} (h : Bounds s) : Bounds (takeEdge i e s) := by
  unfold takeEdge
  dsimp only
  split
  · exact h
  · split
    · exact h
    · split
      · exact raise_inv _ (setInput_inv _ _ h)
      · exact raise_inv _ (setInput_inv _ _ (fireOverdue_inv (createTrigger_inv _ _ h)))

/-! ### The clock -/

theorem moveClock_inv (n : Nat) {s : State} (h : Bounds s) : Bounds (moveClock n s) := by
  obtain ⟨a, b, c, d⟩ := h.triggers
  refine ⟨h.ports, ⟨a, b, c, fun p hp => ?_⟩, h.config, h.records, h.sinks⟩
  obtain ⟨q, hq, rfl⟩ := List.mem_map.mp hp
  have := d q hq
  simp only; omega

theorem passTicks_inv (n : Nat) {s : State} (h : Bounds s) : Bounds (passTicks n s) := by
  unfold passTicks; split
  · exact h
  · exact fireThose_inv _ (fun _ => Nat.sub_le _ _)
      (moveClock_inv n (fireThose_inv _ (fun _ => Nat.le_refl 64) h))

theorem mapPorts_inv (f : Port → Port) (hf : ∀ x, PortInv x → PortInv (f x)) {s : State} (h : Bounds s) :
    Bounds { s with ports := s.ports.map f } := by
  refine ⟨fun p => ?_, h.triggers, h.config, h.records, h.sinks⟩
  have : ({ s with ports := s.ports.map f } : State).port p = f (s.port p) := by simp [State.port]
  rw [this]
  exact hf _ (h.ports p)

theorem beginGap_inv {s : State} (h : Bounds s) : Bounds (beginGap s) := by
  unfold beginGap; split
  · exact h
  · dsimp only
    have k := passTicks_inv (Figures.slotsTicks - s.clock.tick) h
    have n := mapPorts_inv (fun x => { x with nextSlot := Figures.slots, wire := quietWire x.state })
      (fun x hx => hx.congr rfl rfl rfl rfl rfl) k
    exact ⟨n.ports, n.triggers, n.config, n.records, n.sinks⟩

theorem runTo_inv (t : Nat) {s : State} (h : Bounds s) : Bounds (runTo t s) := by
  have k : Bounds (if Figures.slotsTicks ≤ t then beginGap s else s) := by
    split
    · exact beginGap_inv h
    · exact h
  unfold runTo
  revert k
  generalize (if Figures.slotsTicks ≤ t then beginGap s else s) = u
  intro k
  dsimp only
  split
  · exact passTicks_inv _ k
  · exact h

/-! ### The turn of an epoch -/

theorem closePort_inv (p : PortId) {s : State} (h : Bounds s) : Bounds (closePort s p) := by
  unfold closePort
  split
  · refine observeMiss_inv p (setPort_inv h ?_)
    obtain ⟨a, b, c, d, e, f, g⟩ := h.ports p
    refine ⟨a, b, c, d, e, by simp only [countMiss]; omega, fun hl => ?_⟩
    simp only [countMiss, Bool.or_eq_true, Bool.and_eq_true, beq_iff_eq] at hl ⊢
    rcases hl with hl | hl
    · have := g hl; omega
    · omega
  · exact h

theorem endEpoch_inv {s : State} (h : Bounds s) : Bounds (endEpoch s) :=
  (fold_inv closePort (fun _ p hs => closePort_inv p hs) allPorts h).congr rfl rfl rfl rfl rfl

theorem turnCounter_inv {s : State} (h : Bounds s) : Bounds (turnCounter s) := by
  unfold turnCounter
  dsimp only
  have k := passTicks_inv (Figures.slotsTicks + (currentGap s).length - s.clock.tick) h
  have n := mapPorts_inv (fun x => { x with nextSlot := 0, markerThisEpoch := false, symbolErrors := 0 })
    (fun x hx => hx.congr rfl rfl rfl rfl rfl) k
  exact ⟨n.ports, n.triggers, n.config, n.records, n.sinks⟩

theorem reportStep_inv {s : State} (h : Bounds s) : Bounds (reportStep s) :=
  stepReport_inv (raise_inv _ (h.congr rfl rfl rfl rfl rfl))

theorem samplePort_inv (x : BitVec 6) (p : PortId) {s : State} (h : Bounds s) : Bounds (samplePort x s p) :=
  setPort_inv h ((h.ports p).congr rfl rfl rfl rfl rfl)

theorem beginEpoch_inv {s : State} (h : Bounds s) : Bounds (beginEpoch s) := by
  unfold beginEpoch
  dsimp only
  have k := fold_inv (samplePort s.pins.presence) (fun _ p hs => samplePort_inv _ p hs) allPorts h
  exact retain_inv ⟨k.ports, k.triggers, k.config, k.records.map _ fun _ => rfl, k.sinks⟩

theorem crossBoundary_inv {s : State} (h : Bounds s) : Bounds (crossBoundary s) := by
  unfold crossBoundary
  dsimp only
  refine beginEpoch_inv ?_
  split
  · exact reportStep_inv (turnCounter_inv (endEpoch_inv h))
  · exact fireOverdue_inv (turnCounter_inv (endEpoch_inv h))

end Sys2Proof.Machine
end

