-- ==== Sys2Proof/Laws/Records.lean ====
section
/-! SUPPORT. What the operations on one stream record leave of the others: a record operation changes the records of its index
alone, keeps every index, and (but for the operations that detach sinks) leaves the number of records as it was. -/

namespace Sys2Proof.Machine

open Sys2Proof

/-- The table's records are those of before, those at one index changed, none re-indexed. -/
def touchesOnly (i : Nat) (s t : State) : Prop :=
  ∃ g : StreamRecord → StreamRecord, t.streams.records = s.streams.records.map g ∧ (∀ r, (g r).index = r.index) ∧
    ∀ r, r.index ≠ i → g r = r

theorem touchesOnly.of_eq {i : Nat} {s t : State} (h : t.streams.records = s.streams.records) : touchesOnly i s t :=
  ⟨id, by simp [h], fun _ => rfl, fun _ _ => rfl⟩

theorem touchesOnly.refl (i : Nat) (s : State) : touchesOnly i s s := .of_eq rfl

theorem touchesOnly.trans {i : Nat} {s t u : State} (h : touchesOnly i s t) (k : touchesOnly i t u) : touchesOnly i s u := by
  obtain ⟨f, hf, hi, ho⟩ := h
  obtain ⟨g, hg, ki, ko⟩ := k
  refine ⟨fun r => g (f r), by rw [hg, hf, List.map_map]; rfl, fun r => by rw [ki, hi], fun r hr => ?_⟩
  dsimp only
  rw [ho r hr, ko r hr]

theorem touchesOnly.foldl {α : Type} {i : Nat} (f : State → α → State) (h : ∀ s a, touchesOnly i s (f s a)) :
    ∀ (l : List α) (s : State), touchesOnly i s (l.foldl f s)
  | [], s => .refl i s
  | a :: l, s => (h s a).trans (touchesOnly.foldl f h l (f s a))

/-- The records at other indices are found as before. -/
theorem touchesOnly.recordAt {i j : Nat} {s t : State} (h : touchesOnly i s t) (hj : j ≠ i) :
    Machine.recordAt t j = Machine.recordAt s j := by
  obtain ⟨g, hg, hi, ho⟩ := h
  unfold Machine.recordAt
  rw [hg]
  induction s.streams.records with
  | nil => rfl
  | cons r rs ih =>
    simp only [List.map_cons, List.find?_cons, hi r]
    by_cases e : r.index = j
    · simp [e, ho r (by rw [e]; exact hj)]
    · have hne : (r.index == j) = false := by simpa using e
      simp only [hne, ih]

theorem touchesOnly.indices {i : Nat} {s t : State} (h : touchesOnly i s t) : recordIndices t = recordIndices s := by
  obtain ⟨g, hg, hi, _⟩ := h
  unfold recordIndices
  rw [hg, List.map_map]
  exact List.map_congr_left fun r _ => hi r

/-! ### Operations that leave the Stream Table alone -/

@[simp] theorem protocolError_streams (c : ProtocolCause) (m : Msg) (p : PortId) (s : State) :
    (protocolError c m p s).streams = s.streams := by
  unfold protocolError captureProtocol raiseIf; dsimp only; split <;> rfl

@[simp] theorem capturePort_streams (p : PortId) (k : ErrorKind) (n : Option Nat) (id : Option StreamId) (d : Detail)
    (s : State) : (capturePort p k n id d s).streams = s.streams := by
  unfold capturePort raiseIf; dsimp only; split <;> rfl

@[simp] theorem joinProtocol_streams (p : PortId) (m : Msg) (s : State) : (joinProtocol p m s).streams = s.streams := by
  unfold joinProtocol; split <;> rfl

@[simp] theorem send_streams (p : PortId) (m : Msg) (s : State) : (send p m s).streams = s.streams := by
  unfold send; split <;> simp

@[simp] theorem sendSide_streams (side : Option PortId) (m : Msg) (s : State) : (sendSide side m s).streams = s.streams := by
  unfold sendSide; split <;> simp

@[simp] theorem breakUp_streams (r : StreamRecord) (c : ReasonCode) (s : State) : (breakUp r c s).streams = s.streams :=
  sendSide_streams _ _ s

@[simp] theorem breakDown_streams (r : StreamRecord) (c : ReasonCode) (s : State) : (breakDown r c s).streams = s.streams :=
  sendSide_streams _ _ s

@[simp] theorem releaseDown_streams (r : StreamRecord) (s : State) : (releaseDown r s).streams = s.streams :=
  sendSide_streams _ _ s

@[simp] theorem changeSink_streams (k : Nat) (f : Sink → Sink) (s : State) : (changeSink k f s).streams = s.streams := by
  unfold changeSink raiseIf; split <;> rfl

theorem foldl_streams {α : Type} (f : State → α → State) (h : ∀ s a, (f s a).streams = s.streams) :
    ∀ (l : List α) (s : State), (l.foldl f s).streams = s.streams
  | [], _ => rfl
  | a :: l, s => (foldl_streams f h l (f s a)).trans (h s a)

@[simp] theorem reserveSinks_streams (r : StreamRecord) (c : Nat) (s : State) : (reserveSinks r c s).streams = s.streams :=
  foldl_streams _ (fun s k => changeSink_streams k _ s) _ s

@[simp] theorem setSettle_streams (r : StreamRecord) (e : Option Epoch) (s : State) : (setSettle r e s).streams = s.streams :=
  foldl_streams _ (fun s k => changeSink_streams k _ s) _ s

@[simp] theorem copyToSinks_streams (r : StreamRecord) (c : SinkCell) (s : State) : (copyToSinks r c s).streams = s.streams :=
  foldl_streams (fun s' k => changeSink k (takeCopy s' r.budget c) s') (fun s' k => changeSink_streams k _ s') _ s

@[simp] theorem assignSlots_streams (i n : Nat) (s : State) : (assignSlots i n s).streams = s.streams := by
  unfold assignSlots; split <;> rfl

/-! ### Operations on one record -/

theorem editRecord_touches (i : Nat) {f : StreamRecord → StreamRecord} (hf : ∀ r, (f r).index = r.index) (s : State) :
    touchesOnly i s (editRecord i f s) := by
  refine ⟨fun r => if r.index = i then f r else r, rfl, fun r => ?_, fun r hr => if_neg hr⟩
  dsimp only; split
  · exact hf r
  · rfl

theorem changeRecord_touches (i : Nat) {f : StreamRecord → StreamRecord} (hf : ∀ r, (f r).index = r.index) (s : State) :
    touchesOnly i s (changeRecord i f s) :=
  (editRecord_touches i (f := fun r => { f r with changed := true }) hf s).trans (.of_eq rfl)

theorem releaseSlots_touches (i k : Nat) (s : State) : touchesOnly i s (releaseSlots i k s) := by
  unfold releaseSlots; split
  · dsimp only; split
    · exact (touchesOnly.of_eq rfl).trans (changeRecord_touches i (by exact fun _ => rfl) _)
    · exact .of_eq rfl
  · exact .refl i s

theorem suspend_touches (i : Nat) (c : ReasonCode) (free : Bool) (s : State) : touchesOnly i s (suspend i c free s) := by
  unfold suspend; split
  · exact .refl i s
  · next r _ =>
    split
    · split
      · exact releaseSlots_touches i 0 s
      · exact .refl i s
    · have h : touchesOnly i s (releaseSlots i (if free then 0 else r.cells) (changeRecord i (suspended c) s)) :=
        (changeRecord_touches i (f := suspended c) (fun _ => rfl) s).trans (releaseSlots_touches i _ _)
      dsimp only
      split
      · exact h.trans (.of_eq (congrArg _ ((setSettle_streams _ _ _).trans (reserveSinks_streams _ _ _))))
      · exact h

theorem closeRecord_touches (i : Nat) (reason : StreamReason) (f : Option FrameId) (s : State) :
    touchesOnly i s (closeRecord i reason f s) :=
  (changeRecord_touches i (by exact fun _ => rfl) s).trans (releaseSlots_touches i 0 _)

theorem activate_touches (i : Nat) (n : Option Nat) (s : State) : touchesOnly i s (activate i n s) := by
  unfold activate
  exact (changeRecord_touches i (by exact fun _ => rfl) s).trans (.of_eq rfl)

theorem revertRetune_touches (i : Nat) (s : State) : touchesOnly i s (revertRetune i s) := by
  unfold revertRetune; split
  · exact .refl i s
  · exact ((changeRecord_touches i (by exact fun _ => rfl) s).trans (releaseSlots_touches i _ _)).trans
      (.of_eq (congrArg _ (reserveSinks_streams _ _ _)))

theorem refuseRetune_touches (i : Nat) (c : ReasonCode) (s : State) : touchesOnly i s (refuseRetune i c s) :=
  (revertRetune_touches i s).trans (changeRecord_touches i (by exact fun _ => rfl) _)

theorem stageRetune_touches (i : Nat) (d : Staged) (t : Option Nat) (s : State) : touchesOnly i s (stageRetune i d t s) := by
  unfold stageRetune; split
  · exact .refl i s
  · exact (changeRecord_touches i (by exact fun _ => rfl) s).trans
      (.of_eq (congrArg _ ((reserveSinks_streams _ _ _).trans (assignSlots_streams _ _ _))))

theorem takeSwitchEpoch_touches (i : Nat) (e : Epoch) (s : State) : touchesOnly i s (takeSwitchEpoch i e s) := by
  unfold takeSwitchEpoch; split
  · exact .refl i s
  · exact (editRecord_touches i (by exact fun _ => rfl) s).trans (.of_eq (congrArg _ (setSettle_streams _ _ _)))

theorem refuseOrigin_touches (i : Nat) (c : ReasonCode) (f : FrameId) (s : State) :
    touchesOnly i s (refuseOrigin i c f s) := by
  unfold refuseOrigin; split
  · exact .refl i s
  · split
    · exact closeRecord_touches i _ _ s
    · exact (suspend_touches i c _ s).trans (editRecord_touches i (by exact fun _ => rfl) _)

theorem offerSetup_touches (i : Nat) (s : State) : touchesOnly i s (offerSetup i s) := by
  unfold offerSetup; split
  · exact .refl i s
  · split
    · exact .refl i s
    · split
      · exact .of_eq (by simp)
      · exact refuseOrigin_touches i _ _ s
      · exact .refl i s

/-! ### A record taken out of service -/

/-- At one index only records of some kind stand. -/
def recordsAt (i : Nat) (P : StreamRecord → Prop) (s : State) : Prop := ∀ r ∈ s.streams.records, r.index = i → P r

theorem recordsAt.of_touches {i j : Nat} {P : StreamRecord → Prop} {s t : State} (h : recordsAt j P s)
    (k : touchesOnly i s t) (hij : j ≠ i) : recordsAt j P t := by
  obtain ⟨g, hg, hi, ho⟩ := k
  intro r hr e
  rw [hg, List.mem_map] at hr
  obtain ⟨x, hx, rfl⟩ := hr
  rw [hi] at e
  rw [ho x (by rw [e]; exact hij)]
  exact h x hx e

/-- A record found at an index of a table in order is the only one there. -/
theorem recordAt_unique {s : State} {i : Nat} {r x : StreamRecord} (hI : RecordsInv s.streams.records)
    (h : recordAt s i = some r) (hx : x ∈ s.streams.records) (e : x.index = i) : x = r := by
  unfold recordAt at h
  have hr := List.mem_of_find?_eq_some h
  have he : r.index = i := by simpa using List.find?_some h
  have hn : (s.streams.records.map (·.index)).Nodup := rising.nodup hI.order
  exact List.inj_on_of_nodup_map hn hx hr (by rw [e, he])

/-- Releasing slots changes nothing of a record but its changed mark. -/
theorem releaseSlots_records (i k : Nat) {P : StreamRecord → Prop} (hP : ∀ r, P r → P { r with changed := true }) (j : Nat)
    {s : State} (h : recordsAt j P s) : recordsAt j P (releaseSlots i k s) := by
  unfold releaseSlots; split
  · dsimp only; split
    · intro r hr e
      simp only [changeRecord, raise_streams, editRecord, State.setRecords, State.setSlotMap_streams, List.mem_map] at hr
      obtain ⟨x, hx, rfl⟩ := hr
      by_cases hxi : x.index = i
      · rw [if_pos hxi] at e ⊢
        exact hP x (h x hx e)
      · rw [if_neg hxi] at e ⊢
        exact h x hx e
    · exact h
  · exact h

/-- A suspended record stands SUSPENDED. -/
theorem suspend_atRest (i : Nat) (c : ReasonCode) (free : Bool) {s : State} (hI : RecordsInv s.streams.records) :
    recordsAt i (fun r => r.state = .suspended) (suspend i c free s) := by
  unfold suspend
  split
  · next h =>
    intro r hr e
    unfold recordAt at h
    rw [List.find?_eq_none] at h
    exact absurd e (by simpa using h r hr)
  · next r h =>
    split
    · next hs =>
      have base : recordsAt i (fun r => r.state = .suspended) s := fun x hx e => by
        rw [recordAt_unique hI h hx e]; exact hs
      split
      · exact releaseSlots_records i 0 (fun _ h => h) i base
      · exact base
    · dsimp only
      have base : recordsAt i (fun r => r.state = .suspended) (changeRecord i (suspended c) s) := by
        intro x hx e
        simp only [changeRecord, raise_streams, editRecord, State.setRecords, List.mem_map] at hx
        obtain ⟨y, hy, rfl⟩ := hx
        by_cases hyi : y.index = i
        · simp [hyi, suspended]
        · simp [hyi] at e
      have step := releaseSlots_records i (if free then 0 else r.cells) (fun _ h => h) i base
      split
      · intro x hx e
        simp only [setSettle_streams, reserveSinks_streams] at hx
        exact step x hx e
      · exact step

end Sys2Proof.Machine
end

