-- ==== Sys2Proof/Tests/Slice0.lean ====
section
/-! SUPPORT. The model's own tests: ill-formed commands that the check refuses, the spec's worked examples, and for each
statement with hypotheses a state and operands that meet them. Expected results are the spec's own figures. -/

namespace Sys2Proof.Tests

open Sys2Proof Sys2Proof.Machine

/-! ### Fixtures -/

/-- A port in ADMITTED toward port 0 of frame n, with d = 151 (section 2.9). -/
def link (n : FrameId) : Port :=
  { Port.reset with
    state := .admitted, symbolLock := true, presence := ⟨true, 0, 0⟩, announceSeen := true, neighbour := some ⟨n, 0⟩
    delay := .valid [151, 150, 150, 151] 2408 0 }

/-- A REACHABLE entry for frame n over port p. -/
def entry (n : FrameId) (p : PortId) : DirEntry :=
  { frame := n, state := .reachable, nextHop := p, distance := 1, serial := 40, restartSeen := false, age := 0
    priority := 15, reference := false, timing := .locked }

/-- Frame 5, LOCKED to frame 9 over P2, with a second link on P4 to frame 11, in epoch 70,100 at a tick. -/
def frame5 (tick : Nat) : State :=
  let s := State.reset
  { s with
    ports := (s.ports.set 2 (link 9)).set 4 (link 11)
    clock := { s.clock with epoch := 70100, tick := tick }
    time := { s.time with state := .locked, result := .frame 9 2, port := some 2 }
    dir := { s.dir with entries := [{ entry 9 2 with priority := 3 }, entry 11 4] }
    req := { s.req with config := { s.req.config with frameId := 5 }, strap := 5 } }

/-- The same frame with one port changed. -/
def withPort (p : PortId) (f : Port → Port) (s : State) : State := s.setPort p (f (s.port p))

/-- Stream 0x2805 of frame 5 (serial 5) at its origin, over P2 to frame 9, one cell an epoch. -/
def origin : StreamRecord :=
  { originRecord 3 0x2805 1 9 1000 1 8 100 true (some 2) 0 with
    state := .active, setupTimer := none, pathLength := some 1, activation := some 0 }

/-- Stream 0x4801 of frame 9 at a transit hop, from P2 to P4, one cell an epoch. -/
def transit : StreamRecord :=
  { origin with
    index := 7, id := 0x4801, role := .transit, ingress := .port 2, egress := some 4, terminal := 11, hop := 1
    source := none }

/-- Stream 0x4802 of frame 9 at its terminus, from P2. -/
def terminus : StreamRecord := { transit with index := 8, id := 0x4802, role := .terminus, egress := none, terminal := 5 }

/-- A loopback stream of frame 5. -/
def loopback : StreamRecord := { origin with index := 4, id := 0x2806, role := .loopback, egress := none, terminal := 5 }

/-- Frame 5 with records. -/
def holding (rs : List StreamRecord) (s : State) : State := s.setRecords rs

/-- A RUNNING sink of record i on lane 6 with reservation 4. -/
def sink (k i : Nat) : Sink :=
  { index := k, record := i, stream := 0x4802, lane := 6, hop := 1, mode := .continuous, blockSize := 2, threshold := 1
    start := none, state := .running, done := false, overrun := false, held := [], released := [], reservation := 4
    settle := none, lateCount := 0, gapCount := 0, blockStart := none, expected := none }

/-- A copy of a cell at a sink. -/
def cell (n : Seq) (made : Seq) : SinkCell :=
  { sequence := n, originEpoch := made, samples := 1, poison := false, late := false, payload := [] }

/-- A trigger of frame 3 at a fire time. -/
def armedAt (serial : Byte) (e : Epoch) (tick : Nat) : TriggerEntry := ⟨⟨3, serial⟩, ⟨e, tick⟩, 2, .armed⟩

/-- Frame 5 with a Trigger Table. -/
def withTable (t : List TriggerEntry) (s : State) : State := { s with trig := { s.trig with table := t } }

/-- The state after a command; the state before where it does not go on. -/
def after (i : Instr) (s : State) : State :=
  match exec i s with
  | .next t => t
  | .fault _ | .refused _ => s

/-! ### Ill-formed commands -/

theorem test_illFormed_requests :
    (Instr.unknownRequestKind 1 []).wf = false ∧ (Instr.unknownRequestKind 30 (List.replicate 256 0)).wf = false ∧
      (Instr.unknownRequestKind 30 []).wf = true ∧ (Instr.transactionAbandoned [4, 1, 0]).wf = false ∧
      (Instr.transactionAbandoned [4, 1]).wf = true := by decide +kernel

theorem test_illFormed_cables :
    (Instr.dataSlot 0 1).wf = false ∧ (Instr.dataSlot 0 62).wf = false ∧ (Instr.symbolBurst 0 0).wf = false ∧
      (Instr.markerReceived 0 []).wf = false ∧ (Instr.cellReceived 0 (List.replicate 129 0)).wf = false := by decide +kernel

theorem test_illFormed_messages :
    (Instr.setup 0 ⟨0x2801, 0, 9, 31, 1, 1, 1, 8⟩).wf = false ∧ (Instr.confirm 0 0x2801 0 31).wf = false ∧
      (Instr.announce 0 ⟨3, 0, 31, false, false, false, 0, .free⟩).wf = false ∧
      (Instr.announce 0 ⟨3, 0, 0, false, false, false, 16, .free⟩).wf = false ∧
      (Instr.trigger 0 ⟨⟨3, 0⟩, ⟨0, 0⟩, 0⟩).wf = false ∧ (Instr.trigger 0 ⟨⟨0, 1⟩, ⟨0, 0⟩, 0⟩).wf = false ∧
      (Instr.trigger 0 ⟨⟨3, 1⟩, ⟨0, 8192⟩, 0⟩).wf = false ∧ (Instr.trigger 0 ⟨⟨3, 1⟩, ⟨0, 0⟩, 8⟩).wf = false ∧
      (Instr.cancel 0 ⟨3, 0⟩).wf = false := by decide

theorem test_illFormed_events :
    (Instr.entryAgedOut 0).wf = false ∧ (Instr.triggerFireTime ⟨0, 1⟩).wf = false ∧
      (Instr.triggerInputEdge 0 17).wf = false ∧ (Instr.setupTimerExpiry 128).wf = false ∧
      (Instr.suspendTimerExpiry 128).wf = false ∧ (Instr.rerouteRetryExpiry 128).wf = false ∧
      (Instr.originRetuneTimeout 128).wf = false ∧ (Instr.hopRetuneTimeout 128).wf = false ∧
      (Instr.retuneSwitch 128).wf = false ∧ (Instr.sinkSettle 64).wf = false ∧ (Instr.cellRelease 64).wf = false ∧
      (Instr.lanePush 0 0x2801 1 []).wf = false := by decide

/-! ### Figures of the spec -/

/-- Demand, worked (section 6.3). -/
theorem test_demand :
    demand 1 16 = 1 ∧ demand 3000000 12 = 4 ∧ demand 100000000 3 = 27 ∧ demand 250000000 2 = 45 ∧
      demand 675000000 1 = 60 ∧ demand 680000000 1 = 61 ∧ demand 1000000000 1 = 89 := by decide

/-- The usable counts of section 6.4. -/
theorem test_usable :
    usableFor 0 = 60 ∧ usableFor 128 = 60 ∧ usableFor 129 = 59 ∧ usableFor 151 = 59 ∧ usableFor 500 = 57 ∧
      usableFor 1000 = 53 ∧ usableFor 2047 = 45 := by decide

/-- A delay exchange, worked (section 4.3). -/
theorem test_delayExchange :
    roundTrip 1000 5150 13342 9492 = some 300 ∧ sampleOf 300 = 150 ∧
      takeSample (.sampling [150, 150, 150]) 150 = .valid [150, 150, 150, 150] 2400 0 ∧
      takeSample (.valid [150, 150, 150, 150] 2400 0) 152 = .valid [150, 150, 150, 152] 2404 0 ∧
      takeSample (.valid [151, 151, 151, 151] 2408 0) 151 = .valid [151, 151, 151, 151] 2409 0 ∧
      takeSample (.valid [151, 151, 151, 151] 2409 0) 151 = .valid [151, 151, 151, 151] 2409 0 ∧
      roundTrip 16777100 0 120 300 = some 296 ∧ sampleOf 296 = 148 := by decide

/-- The gap of a step, worked (section 4.10): u = 1400, a gap of 1656, the epoch after it. -/
theorem test_stepGap : planGap (some (.step 1400 88400000)) = ⟨1656, some 88400001⟩ := by decide

/-- A marker at tick 2000 of epoch 5,000,123 with number 88,400,000 and d = 600 (section 4.10). -/
theorem test_observation :
    let s := State.reset
    let s := { s with clock := { s.clock with epoch := 5000123, tick := 2023 } }
    observationOf s (s.clock.stamp - 23) 88400000 600 = ⟨1400, true, 1400, 88400000⟩ := by decide

/-- R68: a marker that began 9 ticks before the epoch is read so, also where a step gave the epoch the number of the one
before. -/
theorem test_observationAfterStep :
    let s := State.reset
    let s := { s with clock := { s.clock with epoch := 700, tick := 14, stamp := 100, past := some ⟨700, 9600⟩ } }
    observationOf s (100 - 23) 700 150 = ⟨-159, false, -159, 700⟩ := by decide

/-- R67: the marker whose own sample makes a DRAINING port's record VALID again gives no usable observation; the same marker on
a port usable before does. -/
theorem test_usableFromNextMarker :
    let s (r : DelayRecord) : State :=
      withPort 2 (fun x => { x with state := .draining, delay := r }) (frame5 2000)
    let s (r : DelayRecord) : State :=
      { s r with time := { (s r).time with state := .free, role := .follower, port := some 2, lastPhase := none } }
    let m : Marker :=
      { epoch := 70000, frame := 9, port := 0, tx := 5000, echoTx := 100, echoRx := 4000, timing := .locked, echoValid := true
        master := false, priority := 15 }
    let i : InfoBits := ⟨true, false, false, false⟩
    let t (r : DelayRecord) : State := acceptMarker 2 m i 1400 (s r)
    (t (.sampling [150, 150, 150])).time.lastPhase = none ∧ ((t (.sampling [150, 150, 150])).port 2).delay =
      .valid [150, 150, 150, 150] 2400 0 ∧ (t (.valid [] 2400 0)).time.lastPhase ≠ none := by decide +kernel

/-- Check values that the polynomials of R19 give for "123456789" with these initial values (their catalogued check values). -/
theorem test_checks :
    crc8 [0x31, 0x32, 0x33, 0x34, 0x35, 0x36, 0x37, 0x38, 0x39] = 0xF4 ∧
      crc16 [0x31, 0x32, 0x33, 0x34, 0x35, 0x36, 0x37, 0x38, 0x39] = 0x29B1 := by decide +kernel

/-- Info bytes by R4 and R20: USABLE alone stands at position 3 with checks 1 and 2; EPOCH_ODD at 7 with checks 1, 2, 4. -/
theorem test_infoByte :
    infoByte ⟨true, false, false, false⟩ = 0b00001111 ∧ infoByte ⟨false, false, false, true⟩ = 0b10010110 ∧
      infoByte ⟨false, true, false, false⟩ = 0b00110011 ∧ infoByte ⟨false, false, true, false⟩ = 0b01010101 := by decide

/-- Messages by R19: CONFIRM, BREAK and RETUNE_COMMIT of stream 0x1805. -/
theorem test_messageBytes :
    msgBytes (.confirm 0x1805 3 4) = [0x02, 0x06, 0x18, 0x05, 0x03, 0x04] ∧
      msgBytes (.break_ 0x1805 3 .pathLost .towardTerminus) = [0x05, 0x07, 0x18, 0x05, 0x03, 11, 1] ∧
      msgBytes (.retuneCommit 0x1805 3 0x010203040506) = [0x09, 0x0B, 0x18, 0x05, 0x03, 1, 2, 3, 4, 5, 6] := by decide

/-- Requests by R168 and section 11.3. -/
theorem test_requestBytes :
    transactionBytes (.getPort 2) = some [4, 1, 2] ∧
      transactionBytes (.depart (some 2048)) = some [6, 3, 1, 0x08, 0x00] ∧
      transactionBytes (.openStream 1 9 0x01020304 2 8 none 1) = some [11, 10, 1, 9, 1, 2, 3, 4, 2, 8, 0, 1] ∧
      transactionBytes (.scheduleTrigger 2 4000 (.lead 40)) = some [21, 6, 2, 0x0F, 0xA0, 1, 0, 40] ∧
      transactionBytes (.getTrigger .summary) = some [23, 1, 2] ∧ readTransaction [4, 1] = none ∧
      readTransaction [0, 0] = none ∧ readTransaction [30, 0] = none := by decide

/-- R168: turnaround, response and all-ones bytes up to the release, which may cut each of them off. -/
theorem test_spiReply :
    let reply (more : Nat) := spiReply ([30, 0] ++ List.replicate more 7) (.response ⟨.badRequest, none, .empty⟩)
    reply 3 = [255, 255, 255] ∧ reply 6 = [255, 255, 255, 255, 1, 0] ∧
      reply 10 = [255, 255, 255, 255, 1, 0, 0, 0, 255, 255] ∧ spiReply [4, 1] (.response ⟨.ok, none, .empty⟩) = [] ∧
      transactionCommand [4, 1] = .transactionAbandoned [4, 1] ∧ transactionCommand [4, 1, 2, 9, 9] = .getPort 2 ∧
      transactionCommand [30, 0, 9] = .unknownRequestKind 30 [] := by decide

/-! ### The spec's worked steps -/

/-- Queue pressure on one port, worked (section 1.7): the places of a protocol queue, and what slot 1 then takes. -/
theorem test_queuePressure :
    let filled (n : Nat) : State :=
      withPort 2 (fun x => { x with
        protocolQueue := List.replicate n (.retuneOk 0x1805 0)
        floodQueue := List.replicate 8 (.cancel ⟨4, 1⟩), nextSlot := 1 }) (frame5 128)
    let setup : Msg := .setup ⟨0x1805, 0, 9, 1, 1, 1, 1, 8⟩
    protocolAnswer (filled 15) 2 setup = .taken ∧ protocolAnswer (filled 16) 2 setup = .full ∧
      protocolAnswer (filled 16) 2 (.break_ 0x0C02 0 .pathLost .towardOrigin) = .taken ∧
      protocolAnswer (filled 17) 2 (.retuneAbort 0x1803 0) = .taken ∧
      protocolAnswer (filled 20) 2 (.retuneAbort 0x1803 0) = .full ∧
      ((after (.managementCellBuild 2) (filled 18)).port 2).protocolQueue.length = 14 ∧
      ((after (.managementCellBuild 2) (filled 18)).port 2).floodQueue.length = 8 := by decide +kernel

/-- Frame 11's P1 of section 6.6 with its four records. -/
def drifting : State :=
  let entries (i first n : Nat) : List SlotEntry := (List.range n).map fun k => ⟨first + k, i⟩
  let r (i : Nat) (id : StreamId) (c : Nat) : StreamRecord :=
    { transit with index := i, id := id, cells := c, egress := some 1, activation := some (BitVec.ofNat 48 i) }
  let s := holding [{ r 4 0x1009 10 with activation := some 5 }, r 7 0x1805 4, r 9 0x3001 30, r 12 0x4802 16] (frame5 0)
  s.setPort 1 { link 12 with
    delay := .valid [128, 128, 128, 128] (16 * 128) 0
    slotMap := entries 4 2 10 ++ entries 9 12 30 ++ entries 12 42 16 ++ entries 7 58 4 }

/-- A drifting cable, worked (section 6.6): at d = 129 the newest record gives its slots and slot 61 moves to 42. -/
theorem test_repack :
    let t := setDelay 1 (.valid [129, 129, 129, 129] (16 * 129) 0) drifting
    slotsNaming 7 (t.port 1).slotMap = [42, 58, 59, 60] ∧ slotsNaming 12 (t.port 1).slotMap = [] ∧
      slotsNaming 4 (t.port 1).slotMap = slotsNaming 4 (drifting.port 1).slotMap ∧
      (recordAt t 12).map (fun r => (r.state, r.reason)) = some (.suspended, some (.code .capacity)) ∧
      (t.port 1).protocolQueue = [.break_ 0x4802 0 .capacity .towardTerminus] ∧
      (t.port 2).protocolQueue = [.break_ 0x4802 0 .capacity .towardOrigin] := by decide +kernel

/-- Acceptance at one part, worked (section 3.4): from next hop, distance and serial, by an announce, to the same three. -/
theorem test_acceptance :
    let step (hop : PortId) (d : Nat) (serial : Byte) (p : PortId) (n : Byte) (restart : Bool) (k : Nat) :=
      let s := { frame5 0 with ports := PerPort.all (link 9) }
      let s := { s with dir := { s.dir with entries := [{ entry 3 hop with distance := d, serial := serial }] } }
      (entryOf (after (.announce p ⟨3, n, k, restart, false, false, 15, .locked⟩) s) 3).map fun e =>
        (e.nextHop, e.distance, e.serial)
    step 2 3 40 4 40 false 1 = some (4, 2, 40) ∧ step 4 2 40 1 40 false 1 = some (1, 2, 40) ∧
      step 1 2 40 2 40 false 2 = some (1, 2, 40) ∧ step 1 2 40 4 41 false 4 = some (4, 5, 41) ∧
      step 4 5 41 1 41 false 1 = some (1, 2, 41) ∧ step 1 2 41 2 39 false 1 = some (1, 2, 41) ∧
      step 1 2 41 2 0 true 2 = some (2, 3, 0) ∧ step 2 3 0 1 0 true 1 = some (1, 2, 0) := by decide +kernel

/-- Phase correction, worked (section 4.9): the correction that each phase error makes pending. -/
theorem test_phaseCorrection :
    correctionFor 3 = 3 ∧ correctionFor 12 = 4 ∧ correctionFor 8 = 4 ∧ correctionFor 4 = 4 ∧ correctionFor (-9) = -4 ∧
      planGap (some (.correction 4)) = ⟨260, none⟩ := by decide

/-- A cable lost under four records, worked (section 6.8): what the reset of P3 leaves of each. -/
theorem test_cableLost :
    let r (i : Nat) (x : StreamRecord) : StreamRecord := { x with index := i, egress := some 3, suspendLimit := 4096 }
    let s := holding
      [{ r 0 transit with ingress := .port 0, id := 0x1805 }, { r 1 origin with id := 0x3001 },
        { terminus with index := 2, ingress := .port 3, suspendLimit := 4096 },
        { r 3 transit with ingress := .port 1, state := .suspended, suspendTimer := some 1000, id := 0x1009 }]
      { frame5 0 with ports := PerPort.all (link 9) }
    let s := s.setSlotMap 3 [⟨2, 0⟩, ⟨47, 1⟩, ⟨51, 3⟩]
    let t := after (.resetPort 3) s
    t.streams.records.map (fun r => (r.state, r.suspendTimer, r.changed)) =
        [(.suspended, some 4096, true), (.suspended, some 4096, true), (.suspended, some 4096, true),
          (.suspended, some 1000, true)] ∧
      (t.port 3).slotMap = [] ∧ (t.port 0).protocolQueue = [.break_ 0x1805 0 .pathLost .towardOrigin] ∧
      (t.port 1).protocolQueue = [] := by decide +kernel

/-- A trigger across three frames, worked (section 5.8): serial 17, a lead of 40 from epoch 7,000,000. -/
theorem test_schedule :
    let s := frame5 100
    let s := { s with clock := { s.clock with epoch := 7000000 }, trig := { s.trig with serial := 17 } }
    let t := after (.scheduleTrigger 2 4000 (.lead 40)) s
    t.trig.table = [⟨⟨5, 18⟩, ⟨7000040, 4000⟩, 2, .armed⟩] ∧
      (t.port 4).floodQueue = [.trigger ⟨⟨5, 18⟩, ⟨7000040, 4000⟩, 2⟩] := by decide +kernel

/-- A repeating input, worked (section 5.9): an edge at tick 7000 and the hold-off it leaves; an edge before it is ignored. -/
theorem test_inputEdge :
    let s := frame5 7016
    let s := { s with
      clock := { s.clock with epoch := 900000 }
      trig := { s.trig with serial := 40, inputs := s.trig.inputs.set 1 ⟨.repeated 100 5 none, 0⟩ } }
    let t := after (.triggerInputEdge 1 16) s
    let u := { t with clock := { t.clock with epoch := 900001, tick := 2016 } }
    t.trig.table = [⟨⟨5, 41⟩, ⟨900100, 7000⟩, 5, .armed⟩] ∧
      t.trig.inputs.get 1 = ⟨.repeated 100 5 (some ⟨900001, 7000⟩), 0⟩ ∧
      after (.triggerInputEdge 1 16) u = u := by decide +kernel

/-- A paced sink, worked (section 9.10): the completion that halts it, and its acknowledgement. -/
theorem test_pacedSink :
    let x : Sink := { sink 0 8 with mode := .paced, blockSize := 4, blockStart := some 104, done := true }
    let y := releaseCell false (cell 107 0) { x with held := [cell 108 0], expected := some 116 }
    (y.state, y.blockStart, y.held, y.released.map (·.sequence)) = (.halted, some 108, [], [107]) ∧
      (acknowledge { y with expected := some 120 }).blockStart = some 120 := by decide +kernel

/-- Aligned presentation, worked (section 9.9): the completion of block 955..1044 and the reservations of three sinks. -/
theorem test_presentation :
    let x : Sink := { sink 0 8 with blockSize := 90, blockStart := some 955 }
    let y := releaseCell false (cell 1044 0) x
    (y.done, y.blockStart) = (true, some 1045) ∧ (releaseCell false (cell 1043 0) x).done = false ∧
      reservationFor 45 4 0 = 225 ∧ reservationFor 45 4 1 = 180 ∧ reservationFor 45 4 2 = 135 := by decide +kernel

/-- A retune, worked (section 7.10): the switch epochs of hops 0, 1 and 2 for E = 3,000,006, and the new demand. -/
theorem test_retune :
    demand 150000000 2 = 27 ∧ hopSwitch { transit with hop := 0 } 3000006 = 3000007 ∧
      hopSwitch { transit with hop := 1 } 3000006 = 3000008 ∧ hopSwitch { transit with hop := 2 } 3000006 = 3000009 := by
  decide

/-- One port's record through a fault, worked (section 10.6): what is held, LOST, and whether CAPTURE is raised. -/
theorem test_captures :
    let e (k : ErrorKind) : CapturedError := ⟨k, 0, none, none, .management⟩
    let soft : CaptureRecord := ⟨some (e .markerCorrected), false⟩
    let bad : CaptureRecord := ⟨some (e .headerBad), true⟩
    takeInto ⟨none, false⟩ (e .markerCorrected) = soft ∧ takeInto soft (e .negativeDelay) = { soft with lost := true } ∧
      captureNotice soft (e .negativeDelay) = true ∧ takeInto { soft with lost := true } (e .headerBad) = bad ∧
      takeInto bad (e .payloadBad) = bad ∧ captureNotice bad (e .payloadBad) = false ∧
      takeInto bad (e .symbolBurst) = ⟨some (e .symbolBurst), true⟩ ∧ captureNotice bad (e .symbolBurst) = true := by
  decide

/-! ### Single rules -/

/-- R3: the start of a cell ends a half-read marker as TRUNCATED and abandons a partial preamble; the cell is here cut short itself. -/
theorem test_cellStart :
    let s (n : Nat) : State := withPort 2 (fun x => { x with recognizer := ⟨n, some 0, []⟩ }) (frame5 200)
    let t (n : Nat) : State := after (.cellReceived 2 [1, 2, 3]) (s n)
    ((t 3).port 2).recognizer = ⟨0, none, []⟩ ∧
      ((t 3).captures.port.get 2).held = some ⟨.markerRejected, 70100, some 0, none, .marker .truncated⟩ ∧
      ((t 2).port 2).recognizer = ⟨0, none, []⟩ ∧ ((t 2).captures.port.get 2).held.map (·.kind) = some .headerBad := by
  decide +kernel

/-- R6: a count that reaches 4 in FAULT has no effect, then or in UP; one that reaches it in ADMITTED resets the port. -/
theorem test_markerLoss :
    let s (x : PortState) : State := withPort 2 (fun y => { y with state := x, missCount := 3 })
      { frame5 7936 with clock := { (frame5 7936).clock with gap := some ⟨256, none⟩ } }
    let turned (x : PortState) : State := after (.localEpochStart 0x3F false) (s x)
    ((turned .fault).port 2).missCount = 4 ∧
      after (.markerLoss 2) (withPort 2 (fun x => { x with state := .up }) (turned .fault)) =
        withPort 2 (fun x => { x with state := .up }) (turned .fault) ∧
      ((after (.markerLoss 2) (turned .admitted)).port 2).state = .training := by decide +kernel

/-- R7: every symbol that cannot be decoded is counted, in MARKER_RECEIVED too; the sixteenth resets the port. -/
theorem test_symbolErrors :
    let s := withPort 2 (fun x => { x with symbolErrors := 14 }) (frame5 100)
    ((after (.markerReceived 2 [.invalid]) s).port 2).symbolErrors = 15 ∧
      ((after (.markerReceived 2 [.invalid, .invalid]) s).port 2).state = .training ∧
      ((after (.symbolBurst 2 5) s).port 2).symbolErrors = 3 := by decide +kernel

/-- R41: the announce of another occasion does not stand for that of the timer that has reached 0: each advances the serial. -/
theorem test_announceTwice :
    let s := { frame5 0 with dir := { (frame5 0).dir with announceTimer := 0, announceDue := true } }
    let u := after (.setConfigTimingPriority 3) s
    u.dir.serial = s.dir.serial + 1 ∧ (after .announceTimerExpiry u).dir.serial = s.dir.serial + 2 ∧
      (after .announceTimerExpiry u).dir.announceDue = false := by decide +kernel

/-- R30: a jump found in ADMITTED resets the port; it leaves one that has been in DRAINING since as it is. -/
theorem test_delayJump :
    let s := withPort 2 (fun y => { y with delay := .valid [] 2408 8, jumpStands := true }) (frame5 0)
    let u := changePort 2 .admitted none (changePort 2 .draining none s)
    ((after (.delayJump 2) s).port 2).state = .training ∧ ((after (.delayJump 2) u).port 2).state = .admitted ∧
      ((after (.delayJump 2) u).port 2).delay = .valid [] 2408 0 := by decide +kernel

/-- R79 and R85: the clock passes no ARMED trigger: one of tick 100 has fired when slot 1 begins at tick 128, 28 ticks into its
pulse. -/
theorem test_firesOnTheWay :
    let s := withTable [armedAt 1 70100 100] (frame5 50)
    let s := { s with req := { s.req with config := { s.req.config with channelMap := s.req.config.channelMap.set 2 5 } } }
    let t := after (.managementCellBuild 2) s
    t.clock.tick = 128 ∧ t.trig.table.map (·.state) = [.fired false] ∧ t.trig.pulses = [⟨5, 36⟩] := by decide +kernel

/-- R174: a firing in the tick of a SET_CONFIG of CHANNEL_MAP still has the lines named before. -/
theorem test_channelMapFromNextTick :
    let s := withTable [armedAt 1 70100 100] (frame5 100)
    let t := after (.setConfigChannelMap 2 0x0F) s
    (after (.triggerFireTime ⟨3, 1⟩) t).trig.pulses = [] ∧
      (after (.triggerFireTime ⟨3, 1⟩) (withTable [armedAt 1 70100 101] t)).trig.pulses = [⟨0x0F, 64⟩] := by decide +kernel

/-- R147: the highest sequence goes, also where the released list is out of sequence and where the count wraps. -/
theorem test_trimHighest :
    let left (x : Sink) := let t := withReservation 2 x; (t.released.map (·.sequence), t.held.map (·.sequence), t.overrun)
    left { sink 0 8 with released := [cell 11 0, cell 10 0], held := [cell 9 0] } = ([10], [9], true) ∧
      left { sink 0 8 with released := [cell 65535 0], held := [cell 0 0, cell 1 0] } = ([65535], [0], true) := by decide

/-- R155: the nearest block boundary counted forward, over half the number range. -/
theorem test_boundaryFar : boundaryFor 100 40100 4 = 40100 ∧ boundaryFor 100 40101 4 = 40104 := by decide +kernel

/-- R92, R54, R82 and R159: fields that an origin alone has are absent at a transit hop; forwarding on is 0; a BUSY carries the
state alone; a sink's fields begin with its record. -/
theorem test_responseFields :
    (bStream (streamReport (frame5 0) origin)).length = (bStream (streamReport (frame5 0) transit)).length + 5 ∧
      (bDirectory (directoryReport (frame5 0)))[5]? = some 0 ∧ bBody (.triggerState (.missed .late)) = [2] ∧
      (bSink (sinkReport (sink 63 8))).head? = some 8 := by decide +kernel

/-- Answering a stream notice, worked (section 11.8): levels 6, 4 and 2 against a mask of 3. -/
theorem test_attn :
    let c := { State.reset.req.config with noticeLevel := ⟨6, 0, 0, 4, 0, 0, 2⟩, noticeMask := 3 }
    let s (f : PerNotice Bool) : State := { State.reset with req := { State.reset.req with config := c, pending := f } }
    attn (s ⟨true, false, false, true, false, false, true⟩) = true ∧
      attn (s ⟨false, false, false, false, false, false, true⟩) = false := by decide

/-! ### Witnesses: states and operands that meet the hypotheses of the statements -/

/-- A list of one record meets the invariant of records. -/
theorem recordsInv_one (r : StreamRecord) (h : r.index < 128) : RecordsInv [r] :=
  ⟨by simp [rising], by simpa using h⟩

/-- A port of the fixtures meets the invariant of ports. -/
theorem portInv_quiet (x : Port) (h : x.protocolQueue = [] ∧ x.floodQueue = [] ∧ x.slotMap = [] ∧ x.missCount = 0 ∧
    x.lossDue = false) : PortInv x := by
  obtain ⟨h1, h2, h3, h4, h5⟩ := h
  constructor <;> simp [h1, h2, h3, h4, h5, rising]

theorem witness_StepKeepsInvariant :
    let s := { holding [transit, terminus] (frame5 0) with sinks := [sink 0 8], pending := [.laneAcknowledgement 6 0x4802] }
    Inv s ∧ ∃ t, step s = .next t := by
  refine ⟨⟨⟨fun p => ?_, ?_, ?_, ?_, ?_⟩, by unfold onTime; decide⟩, _, rfl⟩
  · refine portInv_quiet _ ?_
    revert p; decide
  · exact ⟨by decide, by decide, by decide, by decide⟩
  · exact ⟨by decide, by decide, by decide, by decide, fun k => by cases k <;> decide, by decide⟩
  · exact ⟨by unfold rising; decide, by decide⟩
  · exact ⟨by unfold rising; decide, by decide, by decide⟩

theorem witness_RequestBytesReadBack :
    transactionBytes (.setConfigChannelMap 255 0xFFFF) = some [2, 4, 8, 255, 255, 255] ∧
      transactionBytes (.armSink 63 (some 0xFFFF)) = some [19, 4, 63, 1, 255, 255] ∧
      transactionBytes .resetDevice = some [29, 0] := by decide

theorem witness_MessageBytesReadBack :
    (Msg.setup ⟨0xFFFF, 15, 31, 30, 0xFFFFFFFF, 255, 255, 255⟩).wf = true ∧ (Msg.confirm 0xFFFF 15 30).wf = true ∧
      (Msg.announce ⟨31, 255, 30, true, true, true, 15, .holdover⟩).wf = true ∧
      (Msg.trigger ⟨⟨31, 255⟩, ⟨0xFFFFFFFFFFFF, 8191⟩, 7⟩).wf = true ∧ (Msg.cancel ⟨1, 1⟩).wf = true := by decide

theorem witness_CellsAndMarkersReadBack :
    (List.replicate 116 (255 : Byte)).length = 116 ∧
      ∃ (x y : Port) (m : Marker) (i : InfoBits), m.priority ≤ 15 ∧ i.epochOdd = m.epoch.getLsbD 0 ∧ x.neighbour = none ∧
        y.neighbour = some ⟨m.frame, m.port⟩ :=
  ⟨by decide, Port.reset, link 9,
    { epoch := 70101, frame := 9, port := 0, tx := 13342, echoTx := 1000, echoRx := 5150, timing := .locked
      echoValid := true, master := false, priority := 15 },
    ⟨true, false, false, true⟩, by decide, by decide, rfl, rfl⟩

/-- The statements whose only hypothesis is that the RESET pin is not held; it serves the reading requests too. -/
theorem witness_outOfReset : (frame5 0).pins.reset = false := rfl

theorem witness_ReportsAnswer :
    let s := { withTable (List.replicate 32 (armedAt 1 70200 0)) (frame5 0) with sinks := [sink 63 8] }
    let u := { frame5 0 with trig := { (frame5 0).trig with dropped := [⟨⟨3, 2⟩, ⟨70200, 0⟩, 1⟩] } }
    (itemValue s.req.config (.noticeLevel 6)).isSome = true ∧ itemValue s.req.config (.noticeLevel 7) = none ∧
      (sinkAt s 63).isSome = true ∧ sinkAt s 62 = none ∧ (triggerAt s (triggerIdOf 0x0301)).isSome = true ∧
      triggerAt u (triggerIdOf 0x0302) = none ∧
      (u.trig.dropped.find? fun n => n.id == triggerIdOf 0x0302).isSome = true ∧
      holdsTrigger s (triggerIdOf 0x0302) = false ∧ (s.trig.table[31]?).isSome = true ∧ u.trig.table.length < 32 := by
  decide

theorem witness_StreamReads :
    let r := { transit with index := 127 }
    RecordsInv (holding [r] (frame5 0)).streams.records ∧ recordOf (holding [r] (frame5 0)) 0x4801 = some r ∧
      (∀ x ∈ (holding [r] (frame5 0)).streams.records, (127 : Byte).toNat ≤ x.index → r.index ≤ x.index) ∧
      ∀ x ∈ (holding [transit] (frame5 0)).streams.records, x.index < (127 : Byte).toNat :=
  ⟨recordsInv_one _ (by decide), by decide, by decide, by decide⟩

theorem witness_PlainItemsStored :
    allNotices[(6 : Byte).toNat]? = some .capture ∧ 6 < (7 : Byte).toNat ∧ (7 : Byte).toNat ≤ 7 ∧ 7 < (8 : Byte).toNat := by
  decide

theorem witness_DeviceResets :
    let s := { frame5 0 with pins := { (frame5 0).pins with reset := true } }
    s.pins.reset = true ∧ (∀ straps, Instr.identify ≠ .deviceReset straps) ∧ Instr.identify ≠ .resetPinAsserted :=
  ⟨rfl, by simp, by simp⟩

theorem witness_WrongFormAnswered :
    readRequest 1 [0] = none ∧ readRequest 6 [2] = none ∧ 29 < (30 : Byte).toNat ∧ requestEnd [4, 1] = none ∧
      SpiOutput.nothing ≠ .allOnes ∧ [(2 : Byte)].length = (1 : Byte).toNat := by decide

theorem witness_OwnAnnounceOffered :
    State.reset.req.config.frameId = 0 ∧ (frame5 0).req.config.frameId ≠ 0 ∧
      announcedFrame (.announce ⟨5, 0, 0, false, false, false, 0, .free⟩) = some 5 ∧
      (∀ m ∈ List.replicate 8 (Msg.cancel ⟨3, 1⟩), announcedFrame m ≠ some 5) := by decide

theorem witness_WinnerRanksFirst : firstKind (frame5 0) ≠ [] := by decide

theorem witness_TimingStateChanges :
    let s := holding [transit] (frame5 0)
    s.time.state ≠ .holdover ∧ electionStands .holdover s ∧ s.req.config.holdoverLimit ≠ 0 ∧ s.time.state ≠ .acquiring ∧
      electionStands .acquiring s ∧ electionStands .free s ∧ timed s = true ∧ RecordsInv s.streams.records := by
  refine ⟨by decide, ?_, by decide, by decide, ?_, ?_, by decide, recordsInv_one _ (by decide)⟩ <;>
    · unfold electionStands; decide

/-- A record in service, and room on both its sides for what a loss of time, a port reset or the end of the drain says. -/
theorem witness_recordsLeave :
    let s := holding [transit] (frame5 0)
    inService transit = true ∧ upstream transit = some 2 ∧ downstream transit = some 4 ∧ roomFor s 2 ∧ roomFor s 4 ∧
      s.req.config.holdoverLimit ≠ 0 := by unfold roomFor; decide

theorem witness_PriorityAndReferenceTaken :
    let s := frame5 0
    let u (q : Qualifier) (b : Bool) : State :=
      { s with time := { s.time with refin := q }, req := { s.req with config := { s.req.config with useReference := b } } }
    min (16 : BitVec 16).toNat 15 = s.req.config.timingPriority ∧
      min (14 : BitVec 16).toNat 15 ≠ s.req.config.timingPriority ∧
      (u ⟨true, 0, 4⟩ true).time.refin.qualified = true ∧ 4 ≤ (u ⟨true, 0, 4⟩ true).time.refin.absent ∧
      (u ⟨false, 32, 0⟩ false).time.refin.qualified = false ∧ 32 ≤ (u ⟨false, 32, 0⟩ false).time.refin.present ∧
      referencePresent (u ⟨true, 0, 0⟩ true) ≠ referencePresent (u ⟨true, 0, 0⟩ false) := by decide

theorem witness_PortResetCauses :
    let s := withPort 2 (fun x => { x with
      presence := ⟨true, 0, 4⟩, missCount := 4, lossDue := true, symbolErrors := 15, delay := .valid [] 2408 8
      jumpStands := true }) (frame5 0)
    let u := withPort 2 (fun x => { x with state := .draining, jumpStands := false }) s
    let v := withPort 2 (fun x => { x with state := .up, jumpStands := false }) s
    (s.port 2).state ≠ .down ∧ (s.port 3).state = .down ∧ (s.port 2).presence.qualified = true ∧
      4 ≤ (s.port 2).presence.absent ∧ (s.port 2).state ∈ [PortState.probing, .up, .admitted, .draining] ∧
      (s.port 2).lossDue = true ∧ ((frame5 0).port 2).lossDue = false ∧ (s.port 2).jumpStands = true ∧
      (u.port 2).state = .draining ∧ (v.port 2).jumpStands = false ∧ (s.port 2).symbolErrors < 16 ∧ 16 ≤ (s.port 2).symbolErrors + 1 ∧
      (s.port 2).state ∈ [PortState.up, .admitted] ∧ (s.port 2).delay = .valid [] 2408 8 ∧ 5 < (6 : Byte).toNat := by
  decide

theorem witness_DepartureRuns :
    let s (d : Departure) (n : Nat) : State := { holding [transit] (frame5 0) with swap := ⟨d, n⟩ }
    (s .drained 0).swap.departure ≠ .inService ∧ (s .inService 0).swap.departure = .inService ∧
      (1 : BitVec 16).toNat ≠ 0 ∧ (0 : BitVec 16).toNat = 0 ∧ (s .inService 0).req.config.drainDefault ≠ 0 ∧ (s .departing 0).swap.drainTimer = 0 ∧
      RecordsInv (s .inService 0).streams.records :=
  ⟨by decide, rfl, by decide, by decide, by decide, rfl, recordsInv_one _ (by decide)⟩

theorem witness_FrameIdTaken :
    let at_ (x : PortState) (c : Option PortReason) (n : FrameId) : State :=
      { frame5 0 with ports := (PerPort.all Port.reset).set 2 { link n with state := x, reason := c } }
    min (0xFFFF : BitVec 16).toNat 31 = (31 : FrameId).val ∧ ((frame5 0).port 2).state = .admitted ∧
      ((at_ .draining none 9).port 2).state = .draining ∧ (∀ p, ((at_ .up none 31).port p).state ≠ .admitted) ∧
      (31 : FrameId) ≠ (at_ .up none 31).req.config.frameId ∧ neighbourFrame (at_ .up none 31) 2 = some 31 ∧
      (5 : FrameId) = (at_ .up none 31).req.config.frameId ∧
      ((at_ .fault (some .idConflict) 5).port 2).reason = some .idConflict ∧
      (∀ p, ((at_ .fault (some .idConflict) 5).port p).state ≠ .admitted) ∧
      neighbourFrame (at_ .fault (some .idConflict) 5) 2 ≠ some 31 := by decide

theorem witness_SlotsAssignedAndKept : 59 ≤ (freeSlots 59 []).length ∧ 1 ≤ (freeSlots 60 [⟨2, 3⟩]).length := by decide

theorem witness_StreamOpens :
    let s := frame5 0
    (2 : Byte).toNat = (2 : LaneId).val ∧ (9 : Byte).toNat = (9 : FrameId).val ∧ (675000000 : BitVec 32).toNat ≤ 1000000000 ∧
      (1 : Byte).toNat ∈ sampleSizes ∧ (laneOrigins s 2).length < 8 ∧ freeIndex s = some 0 ∧ timed s = true ∧
      s.swap.departure = .inService ∧ demand (675000000 : BitVec 32).toNat 1 ≤ 60 ∧ (5 : FrameId) = s.req.config.frameId ∧
      routeTo s 9 = .route 2 1 ∧ 1 + 1 ≤ (2 : Byte).toNat ∧
      demand (250000000 : BitVec 32).toNat 2 + (s.port 2).slotMap.length ≤ usableCount (s.port 2).delay ∧
      (s.port 2).protocolQueue.length < 16 := by decide

theorem witness_StreamsCloseAndClear :
    let s := holding [origin] (frame5 0)
    RecordsInv s.streams.records ∧ recordOf s 0x2805 = some origin ∧ isOrigin origin = true ∧ isOrigin transit = false ∧
      recordOf s 0x4801 = none ∧ recordOf (holding [transit] s) 0x4801 = some transit :=
  ⟨recordsInv_one _ (by decide), by decide, by decide, by decide, by decide, by decide⟩

theorem witness_RetuneBegins :
    let s (r : StreamRecord) : State := holding [r] (frame5 0)
    (∀ r ∈ [origin, loopback], RecordsInv (s r).streams.records ∧ recordOf (s r) r.id = some r ∧ isOrigin r = true ∧
      r.state = .active ∧ settlePending (s r) r = false ∧ poolAdmits (s r) r 60 = true) ∧
      origin.egress = some 2 ∧ loopback.egress = none ∧ demand (1 : BitVec 32).toNat 1 ≤ 60 ∧
      demand (675000000 : BitVec 32).toNat 1 ≤ 60 ∧
      demand (250000000 : BitVec 32).toNat 1 - origin.cells + ((s origin).port 2).slotMap.length ≤
        usableCount ((s origin).port 2).delay ∧
      takesOffers ((s origin).port 2).state = true ∧ ((s origin).port 2).protocolQueue.length < 16 := by
  refine ⟨fun r h => ?_, by decide⟩
  obtain rfl | rfl := by simpa using h
  all_goals exact ⟨recordsInv_one _ (by decide), by decide⟩

theorem witness_SinkAttaches :
    let s := holding [terminus] (withTable [armedAt 1 70200 0] (frame5 0))
    (6 : Byte).toNat = (6 : LaneId).val ∧ (4096 : BitVec 16).toNat ≤ 4096 ∧ recordOf s 0x4802 = some terminus ∧
      terminus.state = .active ∧ settlePending s terminus = false ∧ (∀ x ∈ s.sinks, x.record = 8 → x.lane ≠ 6) ∧
      terminus.sinks.length < 4 ∧ (sinksOnLane s 6).length < 8 ∧ freeSink s = some 0 ∧
      reservedCells s + terminus.cells * (terminus.budget + 1 - terminus.hop) ≤ 4096 ∧
      (triggerAt s (triggerIdOf 0x0301)).any canStart = true ∧ (triggerAt s (triggerIdOf 0x0302)).any canStart = false := by
  decide

theorem witness_SinkDetachesAndArms :
    let s := { frame5 0 with sinks := [{ sink 5 8 with mode := .single, state := .halted }, sink 63 8] }
    (63 : Byte).toNat ≤ 63 ∧ sinkAt s 63 = some (sink 63 8) ∧ (sink 63 8).mode ≠ .single ∧ sinkAt s 62 = none ∧
      (sinkAt s 5).map (·.mode) = some .single := by decide

theorem witness_TriggerScheduled :
    let s := frame5 0
    (7 : Byte).toNat ≤ 7 ∧ (8191 : BitVec 16).toNat ≤ 8191 ∧ s.req.config.frameId ≠ 0 ∧ timed s = true ∧
      32 ≤ ((70132 : Epoch) - s.clock.epoch).toNat ∧
      (s.clock.epoch + (65535 : BitVec 16).setWidth 48 - s.clock.epoch).toNat ≤ 65535 ∧ s.trig.table.length < 32 := by
  decide

theorem witness_TriggerCancelled :
    let e := armedAt 1 70200 0
    let s := withTable [e, { e with id := ⟨3, 2⟩, state := .cancelled }] (frame5 0)
    triggerIdOf 0x0301 = ⟨3, 1⟩ ∧ triggerAt s ⟨3, 1⟩ = some e ∧ e.state = .armed ∧ triggerAt s ⟨3, 3⟩ = none ∧
      (triggerAt s ⟨3, 2⟩).map (·.state) = some .cancelled := by decide

theorem witness_InputsArmed :
    (3 : Byte).toNat = (3 : InputId).val ∧ 32 ≤ (32 : BitVec 16).toNat ∧ (7 : Byte).toNat ≤ 7 ∧ 3 < (4 : Byte).toNat ∧
      (31 : BitVec 16).toNat < 32 ∧ 1 < (2 : Byte).toNat := by decide

theorem witness_GapBegins :
    let s (a : Option Adjustment) : State := { frame5 7936 with time := { (frame5 0).time with pending := a } }
    (s none).clock.gap = none ∧ (s none).clock.tick ≤ 7936 ∧ (s none).time.pending = none ∧
      (s (some (.correction (-4)))).time.pending = some (.correction (-4)) ∧
      (s (some (.step (-256) 88400000))).time.pending = some (.step (-256) 88400000) := by decide

theorem witness_EpochTurns :
    let s (g : Option Gap) : State := { frame5 7936 with clock := { (frame5 7936).clock with gap := g } }
    (s (some ⟨256, none⟩)).clock.gap = some ⟨256, none⟩ ∧ (s none).clock.gap = none ∧
      (s (some ⟨8191, some 88400001⟩)).clock.gap = some ⟨8191, some 88400001⟩ ∧ (s none).pins.reset = false := by decide

/-- For EpochTurns: no trigger is reached up to the start of the next epoch, and one entry is no longer retained. -/
theorem witness_EpochTurns_quiet :
    let s := withTable [{ armedAt 2 70037 0 with state := .cancelled }, armedAt 1 70101 0]
      { frame5 7936 with clock := { (frame5 7936).clock with gap := some ⟨256, none⟩ } }
    noneFires s (7936 + 256) ∧ onTime ⟨s.clock.epoch + 1, 0⟩ s.trig.table ∧
      ahead ((70037 : Epoch) + 64) (s.clock.epoch + 1) = false := by unfold noneFires onTime; decide

theorem witness_SlotsBegin :
    let s (n : Nat) (rs : List StreamRecord) : State :=
      holding rs (withPort 2 (fun x => { x with nextSlot := n, slotMap := [⟨61, 3⟩] }) (frame5 (128 * n)))
    let c : QueuedCell := ⟨0x2805, 0, 0, 0, 1, false, [], 70099⟩
    let r := { origin with queue := [c] }
    ((s 0 []).port 2).nextSlot = 0 ∧ sendsMarker ((s 0 []).port 2) = true ∧ sendsMarker ((s 0 []).port 3) = false ∧
      ((s 0 []).port 3).nextSlot = 0 ∧ takesOffers ((s 1 []).port 2).state = true ∧ (s 1 []).clock.tick ≤ 128 ∧
      slotRecord (s 2 []) 2 2 = none ∧ (s 61 []).clock.tick = 128 * 61 ∧ slotRecord (s 61 [origin]) 2 61 = some origin ∧
      eligibleCell (s 61 [origin]) origin = none ∧ slotRecord (s 61 [r]) 2 61 = some r ∧ r.queue = c :: [] ∧
      ahead (s 61 [r]).clock.epoch c.taken = true := by decide

theorem witness_MarkerAccepted :
    let s := withPort 2 (fun x => { x with state := .training, training := some (.locking 2), neighbour := none }) (frame5 23)
    ∃ (m : Marker) (i : InfoBits), recognizerRuns (s.port 2) = true ∧ (s.port 2).recognizer = ⟨0, none, []⟩ ∧
      m.priority ≤ 15 ∧ i.epochOdd = m.epoch.getLsbD 0 ∧ (s.port 2).neighbour = none ∧
      ((frame5 23).port 2).neighbour = some ⟨m.frame, m.port⟩ ∧ recognizerRuns ((frame5 23).port 2) = true :=
  ⟨{ epoch := 70101, frame := 9, port := 0, tx := 13342, echoTx := 1000, echoRx := 5150, timing := .locked
     echoValid := true, master := false, priority := 15 },
    ⟨true, false, false, true⟩, by decide⟩

theorem witness_DelaySampled :
    let w := [150, 151, 152, 150]
    w.length = 4 ∧ (∀ y ∈ w, ∀ z ∈ w, y ≤ z + 2) ∧ ¬(([150, 153] : List Nat).length = 4) ∧ 182 ≤ (2400 + 8) / 16 + 32 ∧
      (2400 + 8) / 16 ≤ 118 + 32 ∧ (2400 + 8) / 16 + 32 < 183 ∧ 117 + 32 < (2400 + 8) / 16 ∧ 2047 < 2048 := by decide

theorem witness_MessagesPassedOn :
    takesOffers ((frame5 0).port 2).state = true ∧ ((frame5 0).port 2).recognizer.found < 3 ∧
      ¬((withPort 2 (fun x => { x with recognizer := ⟨3, none, [1]⟩ }) (frame5 0)).port 2).recognizer.found < 3 ∧
      ∀ m ∈ List.replicate 4 (Msg.trigger ⟨⟨31, 255⟩, ⟨0xFFFFFFFFFFFF, 8191⟩, 7⟩), m.wf = true := by decide

theorem witness_CellTaken :
    let s := withPort 4 (fun x => { x with slotMap := [⟨2, 7⟩] }) (holding [transit, terminus] (frame5 0))
    let h : CellHeader := { kind := .data, poison := true, slot := 61, id := 0x4801, gen := 0, sequence := 65535
                            originEpoch := 0, samples := 1, late := false }
    let x := sink 0 8
    ((s.port 2).state = .admitted ∧ h.slot.toNat ≤ 61 ∧ recordOf s h.id = some transit ∧ transit.ingress = .port 2 ∧
      transit.gen = h.gen ∧ transit.queue.length < 2 * slotsHeld s transit ∧ recordOf s 0x4802 = some terminus ∧
      terminus.role = .terminus) ∧
      ahead (4 : Seq) 5 = false ∧ ahead (6 : Seq) 5 = true ∧
      (∀ b, x.blockStart = some b → ahead b (5 : Seq) = false) ∧ x.held.length + x.released.length < x.reservation ∧
      staysHeld (epochLow s) 32 (cell 5 (epochLow s)) = true ∧
      meetsStart s { x with start := some .first } (cell 5 0) = true ∧ meetsStart s x (cell 5 0) = false ∧
      ({ x with reservation := 0 } : Sink).reservation ≤ x.held.length + x.released.length := by
  refine ⟨by decide, by decide, by decide, ?_, by decide, by decide, by decide, by decide, by decide⟩
  intro b h
  cases h

theorem witness_SetupTaken :
    let s := frame5 0
    let m : SetupMsg := ⟨0x4805, 15, 11, 28, 1000, 1, 59, 32⟩
    setupMalformed m = false ∧ recordOf s m.id = none ∧ freeIndex s = some 0 ∧ timed s = true ∧
      streamOrigin m.id ≠ s.req.config.frameId.val ∧ (s.port 2).state = .admitted ∧ routeTo s m.terminal = .route 4 1 ∧
      m.hop + 3 ≤ m.budget.toNat ∧ m.hop + 1 ≤ 29 ∧
      m.cells.toNat + (s.port 4).slotMap.length ≤ usableCount (s.port 4).delay ∧ (s.port 4).protocolQueue.length < 16 ∧
      setupMalformed { m with terminal := 5, hop := 29 } = false ∧ 29 + 2 ≤ m.budget.toNat := by decide

/-- For SetupTaken: a newer generation of the stream of a transit hop with a sink, whose old egress is the new one. -/
theorem witness_SetupTaken_newer :
    let r := { transit with sinks := [0] }
    let s (n : Nat) : State := { withPort 4 (fun x => { x with slotMap := [⟨61, 7⟩] }) (holding [r] (frame5 0)) with
      sinks := [sink 0 7, { sink 1 8 with reservation := n }] }
    let m : SetupMsg := ⟨0x4801, 7, 11, 28, 1000, 1, 59, 32⟩
    (SinksInv (s 0).sinks ∧ SinksInv (s 4092).sinks ∧ RecordsInv (s 0).streams.records) ∧
      setupMalformed m = false ∧ recordOf (s 0) m.id = some r ∧ (m.gen - r.gen).toNat = 7 ∧
      ((1 : Gen) - (0 : Gen)).toNat = 1 ∧ ((1 : Gen) - (10 : Gen)).toNat = 7 ∧ timed (s 0) = true ∧
      routeTo (s 0) m.terminal = .route 4 1 ∧ m.hop + 3 ≤ m.budget.toNat ∧ m.hop + 1 ≤ 29 ∧
      m.cells.toNat + (((s 0).port 4).slotMap.filter fun e => e.record != r.index).length ≤
        usableCount ((s 0).port 4).delay ∧
      (∀ a : PortId, r.egress = some a ∨ a = 2 →
        takesOffers ((s 0).port a).state = true ∧ ((s 0).port a).protocolQueue.length < 15) ∧
      reservedCells (s 0) + r.sinks.length * (59 * (32 - 28)) ≤ 4096 ∧ sinkAt (s 4092) 0 = some (sink 0 7) ∧
      (sink 0 7).reservation < 59 * (32 - 28) ∧
      4096 < reservedCells (s 4092) - (sink 0 7).reservation + 59 * (32 - 28) :=
  ⟨⟨⟨by unfold rising; decide, by decide, by decide⟩, ⟨by unfold rising; decide, by decide, by decide⟩,
    recordsInv_one _ (by decide)⟩, by decide⟩

theorem witness_PortRepacked :
    let s := withPort 1 (fun x => { x with delay := .valid [129, 129, 129, 129] (16 * 129) 0 }) drifting
    Inv s ∧ ordersCompare s ∧ (s.port 1).state = .admitted ∧ usableCount (s.port 1).delay < (s.port 1).slotMap.length ∧
      usableCount (.valid [] (16 * 129) 0) ≠ usableCount (drifting.port 1).delay := by
  refine ⟨⟨⟨fun p => ?_, ?_, ?_, ?_, ?_⟩, by unfold onTime; decide⟩, ⟨0, by decide⟩, by decide, by decide, by decide⟩
  · rcases eq_or_ne p 1 with rfl | h
    · exact ⟨by decide, by decide, by decide, by unfold rising; decide +kernel, by decide +kernel, by decide, by decide⟩
    · refine portInv_quiet _ ?_
      revert h; revert p; decide
  · exact ⟨by decide, by decide, by decide, by decide⟩
  · exact ⟨by decide, by decide, by decide, by decide, fun k => by cases k <;> decide, by decide⟩
  · exact ⟨by unfold rising; decide, by decide⟩
  · exact ⟨by unfold rising; decide, by decide, by decide⟩

theorem witness_RepliesTaken :
    let hop := { transit with state := StreamState.pending }
    let start := { origin with state := StreamState.pending }
    let s (r : StreamRecord) : State := holding [r] (frame5 0)
    (∀ r ∈ [hop, start], RecordsInv (s r).streams.records ∧ recordOf (s r) r.id = some r ∧ r.state = .pending) ∧
      hop.egress = some 4 ∧ hop.ingress = .port 2 ∧ hop.role = .transit ∧ start.egress = some 2 ∧ isOrigin start = true ∧
      start.suspendTimer = none ∧ (∀ r, recordOf (frame5 0) 0x4801 = some r → r.state = .closed ∨ r.gen ≠ 0) ∧
      (∀ r, recordOf (s hop) hop.id = some r → r.state = .closed ∨ r.gen ≠ hop.gen + 1) ∧ takesOffers ((frame5 0).port 2).state = true ∧
      ((frame5 0).port 2).protocolQueue.length < 20 := by
  refine ⟨fun r h => ?_, by decide⟩
  obtain rfl | rfl := by simpa using h
  all_goals exact ⟨recordsInv_one _ (by decide), by decide⟩

theorem witness_TeardownTaken :
    let s := holding [transit] (frame5 0)
    RecordsInv s.streams.records ∧ recordOf s 0x4801 = some transit ∧ transit.ingress = .port 2 ∧
      downstream transit = some 4 ∧ upstream transit = some 2 ∧ inService transit = true ∧ transit.state ≠ .closed :=
  ⟨recordsInv_one _ (by decide), by decide⟩

theorem witness_RetuneTaken :
    let s (r : StreamRecord) : State := holding [r] (frame5 0)
    (∀ r ∈ [transit, terminus], RecordsInv (s r).streams.records ∧ recordOf (s r) r.id = some r ∧ r.ingress = .port 2 ∧
      r.state = .active ∧ settlePending (s r) r = false ∧ poolAdmits (s r) r 60 = true) ∧
      terminus.role = .terminus ∧ terminus.egress = none ∧ transit.role = .transit ∧ transit.egress = some 4 ∧
      60 - transit.cells + ((frame5 0).port 4).slotMap.length ≤ usableCount ((frame5 0).port 4).delay ∧
      (60 : Byte).toNat ≤ 60 ∧ (1 : Byte).toNat ≤ 60 ∧ (frame5 0).swap.departure = .inService := by
  refine ⟨fun r h => ?_, by decide⟩
  obtain rfl | rfl := by simpa using h
  all_goals exact ⟨recordsInv_one _ (by decide), by decide⟩

theorem witness_RetuneAgreed :
    let tuning (r : StreamRecord) : StreamRecord := { r with state := .retuning, staged := some ⟨2, 2000⟩ }
    let s (r : StreamRecord) : State := holding [tuning r] (frame5 0)
    (∀ r ∈ [origin, transit], RecordsInv (s r).streams.records ∧ recordOf (s r) r.id = some (tuning r) ∧
      (tuning r).state = .retuning ∧ (tuning r).switchEpoch = none) ∧
      origin.egress = some 2 ∧ isOrigin origin = true ∧ transit.egress = some 4 ∧ transit.ingress = .port 2 ∧
      ahead ((70099 : Epoch) + BitVec.ofNat 48 (transit.hop + 1)) (frame5 0).clock.epoch = true := by
  refine ⟨fun r h => ?_, by decide⟩
  obtain rfl | rfl := by simpa using h
  all_goals exact ⟨recordsInv_one _ (by decide), by decide⟩

theorem witness_RetuneReverted :
    let r := { origin with state := StreamState.retuning, staged := some ⟨2, 2000⟩, retuneTimer := some 0 }
    let x := { transit with state := StreamState.retuning, staged := some ⟨2, 2000⟩ }
    RecordsInv (holding [r] (frame5 0)).streams.records ∧ recordOf (holding [r] (frame5 0)) r.id = some r ∧
      r.switchEpoch = none ∧ isOrigin r = true ∧ r.retuneTimer = some 0 ∧ r.egress = some 2 ∧
      RecordsInv (holding [x] (frame5 0)).streams.records ∧ recordOf (holding [x] (frame5 0)) x.id = some x ∧
      isOrigin x = false ∧ x.ingress = .port 2 ∧ x.egress = some 4 :=
  ⟨recordsInv_one _ (by decide), by decide, rfl, rfl, rfl, rfl, recordsInv_one _ (by decide), by decide, rfl, rfl, rfl⟩

theorem witness_AnnounceTaken :
    let s := withPort 1 (fun _ => { link 3 with state := .up, announceSeen := false }) (frame5 0)
    let m (f : FrameId) (n : Byte) (k : Nat) : AnnounceMsg := ⟨f, n, k, false, false, false, 15, .locked⟩
    entryOf s 3 = none ∧ (m 9 41 29).hops + 1 ≤ 30 ∧ ahead (m 9 41 29).serial 40 = true ∧
      (entryOf s 9).map (·.serial) = some 40 ∧ ahead (m 9 40 0).serial 40 = false ∧ (s.port 1).state = .up ∧
      neighbourFrame s 1 = some 3 ∧ (m 3 0 0).hops = 0 ∧ s.req.config.frameId ≠ 0 ∧ s.swap.departure ≠ .drained ∧
      takesOffers (s.port 2).state = true := by decide

theorem witness_TriggerTaken :
    let s := withTable [armedAt 1 70200 0] (frame5 100)
    holdsTrigger s ⟨3, 1⟩ = true ∧ holdsTrigger s ⟨3, 2⟩ = false ∧ (3 : FrameId) ≠ s.req.config.frameId ∧
      s.trig.table.length < 32 ∧ later ⟨70100, 101⟩ (now s) = true ∧ later (now s) ⟨70100, 99⟩ = true := by decide

theorem witness_TriggersFireAndEdges :
    let e := armedAt 1 70100 100
    let s := withTable [e] (frame5 100)
    let u (a : Arm) : State :=
      { s with trig := { s.trig with inputs := s.trig.inputs.set 1 ⟨a, 0⟩, pulses := [⟨1, 64⟩] } }
    (s.trig.table.filter (fun x => decide (x.state = .armed)) = [e] ∧ e.fire = ⟨s.clock.epoch, 100⟩ ∧
      s.clock.tick ≤ 100 ∧ 100 < s.clock.tick + 1) ∧ onTime (now s) s.trig.table ∧
      triggerAt s e.id = some e ∧ e.state = .armed ∧ e.fire = now s ∧ nextPulseEnd (u .disarmed) = some 64 ∧
      s.clock.tick + 64 < 7936 ∧ (u (.oneShot 32 7)).trig.inputs.get 1 = ⟨.oneShot 32 7, 0⟩ ∧
      (u (.repeated 65535 0 none)).trig.inputs.get 1 = ⟨.repeated 65535 0 none, 0⟩ ∧ 16 ≤ s.clock.tick ∧
      timed s = true ∧ timed State.reset = false := by unfold onTime; decide

theorem witness_TrainingAndSymbolLock :
    let s (f : Port → Port) : State := withPort 3 f State.reset
    ((s fun x => { x with presence := ⟨false, 32, 0⟩ }).port 3).presence.present = 32 ∧
      ((s fun x => { x with presence := ⟨false, 31, 0⟩ }).port 3).presence.present < 32 ∧
      ((s fun x => { x with state := .training, training := some (.locking 256) }).port 3).training =
        some (.locking 256) ∧
      ((s fun x => { x with state := .training, training := some (.pause 0) }).port 3).training = some (.pause 0) ∧
      ((s fun x => { x with state := .fault, symbolLock := true }).port 3).state ∈
        [PortState.probing, .up, .admitted, .draining, .fault] ∧
      ((s fun x => { x with state := .training, symbolErrors := 15 }).port 3).symbolErrors + 1 = 16 := by decide

theorem witness_DirectoryTimers :
    let s := { frame5 0 with dir :=
      { (frame5 0).dir with entries := [{ entry 9 2 with age := 1024 }], announceTimer := 0, announceDue := true, hold := some ⟨0, 9⟩ } }
    s.dir.announceDue = true ∧ (frame5 0).dir.announceDue = false ∧ (entryOf s 9).map (·.age) = some 1024 ∧ (entryOf s 9).map (·.state) = some .reachable ∧
      s.dir.hold = some ⟨0, 9⟩ := by decide

theorem witness_TimingCountsFull :
    let s (x : TimingState) (c : TimingCounts) (o : Option Observation) : State :=
      { frame5 0 with time := { (frame5 0).time with state := x, counts := c, lastPhase := o, holdoverTimer := some 0 } }
    electionStands .locked (s .acquiring ⟨0, 0, 64, 0⟩ none) ∧ electionStands .holdover (s .locked ⟨4, 0, 0, 0⟩ none) ∧
      electionStands .free (s .acquiring ⟨4, 0, 0, 0⟩ none) ∧ electionStands .acquiring (s .locked ⟨0, 16, 0, 0⟩ none) ∧
      electionStands .free (s .holdover ⟨0, 0, 0, 0⟩ none) ∧
      electionStands .locked (s .holdover ⟨0, 0, 0, 4⟩ (some ⟨64, false, 0, 0⟩)) ∧
      electionStands .acquiring (s .holdover ⟨0, 0, 0, 4⟩ (some ⟨65, false, 0, 0⟩)) ∧
      (s .locked ⟨4, 0, 0, 0⟩ none).time.role = .follower ∧
      (s .locked ⟨4, 0, 0, 0⟩ none).req.config.holdoverLimit ≠ 0 := by
  unfold electionStands; decide

theorem witness_RecordTimers :
    let late (r : StreamRecord) (x : StreamState) : StreamRecord :=
      { r with state := x, setupTimer := some 0, suspendTimer := none, retuneTimer := some 0, rerouteTimer := some 0 }
    let s (r : StreamRecord) : State := holding [r] (frame5 0)
    (∀ r ∈ [late origin .pending, late transit .pending, { late origin .pending with suspendTimer := some 9 },
        { late origin .suspended with suspendTimer := some 0 }, { late origin .pending with suspendTimer := some 0 },
        { late transit .suspended with suspendTimer := some 0 },
        late transit .retuning, late loopback .suspended],
      RecordsInv (s r).streams.records ∧ recordAt (s r) r.index = some r) ∧
      timed (frame5 0) = true ∧ timed State.reset = false ∧ routeTo (s (late origin .suspended)) 9 = .route 2 1 ∧
      1 + 1 ≤ origin.budget ∧ origin.cells ≤ freeUsable (frame5 0) 2 ∧ origin.egress = some 2 ∧
      ((frame5 0).port 2).slotMap.length ≤ usableCount ((frame5 0).port 2).delay := by
  refine ⟨fun r h => ?_, by decide⟩
  obtain rfl | rfl | rfl | rfl | rfl | rfl | rfl | rfl := by simpa using h
  all_goals exact ⟨recordsInv_one _ (by decide), by decide⟩

theorem witness_EpochsOfRecords :
    let r := { origin with state := StreamState.retuning, staged := some ⟨2, 2000⟩, switchEpoch := some 70099 }
    let s := { holding [r, terminus] (frame5 0) with sinks :=
      [{ sink 0 8 with settle := some 70100, blockStart := some 10, blockSize := 2, held := [cell 10 0] },
        { sink 1 8 with blockStart := some 10, held := [cell 11 (BitVec.ofNat 16 (70100 - 8))] }] }
    RecordsInv s.streams.records ∧ recordAt s 3 = some r ∧
      ahead ((70099 : Epoch) + BitVec.ofNat 48 (r.hop + 1)) s.clock.epoch = false ∧ r.role = .origin ∧
      ahead ((70098 : Epoch) + BitVec.ofNat 48 (transit.hop + 1)) s.clock.epoch = false ∧
      (sinkAt s 0).isSome = true ∧ recordAt s 8 = some terminus ∧ ahead (70100 : Epoch) s.clock.epoch = false ∧
      1 ≤ terminus.cells * (terminus.budget + 1 - 1) ∧ ahead ((10 : Seq) + BitVec.ofNat 16 (2 - 1)) (10 : Seq) = true ∧
      (sinkAt s 1).map (·.held.map (·.sequence)) = some [(10 : Seq) + BitVec.ofNat 16 (2 - 1)] ∧
      releaseIn (s.clock.epoch.setWidth 16) (budgetOf s (sink 1 8)) (cell 11 (BitVec.ofNat 16 (70100 - 8))) = 0 := by
  refine ⟨⟨by unfold rising; decide, by decide⟩, by decide⟩

theorem witness_PushAnswered :
    let s := withPort 2 (fun x => { x with slotMap := [⟨2, 3⟩] }) (holding [origin, loopback] (frame5 0))
    let full := { origin with queue := List.replicate 2 ⟨0x2805, 0, 0, 0, 1, false, [], 70099⟩ }
    boundRecord s 1 0x2805 = some origin ∧ boundRecord s 2 0x2805 = none ∧ (116 : Byte).toNat ≤ 116 / origin.sampleBytes ∧
      116 / origin.sampleBytes < (117 : Byte).toNat ∧ origin.state ∈ [StreamState.active, .retuning] ∧
      origin.queue.length < 2 * acceptingCells s origin ∧ boundRecord s 1 0x2806 = some loopback ∧
      loopback.egress = none ∧ 2 * acceptingCells s full ≤ full.queue.length ∧
      boundRecord (holding [full] s) 1 0x2805 = some full ∧
      StreamState.suspended ∉ [StreamState.active, .retuning] := by decide

theorem witness_PullAndAcknowledge :
    let x := { sink 0 8 with mode := .paced, state := .halted, released := [cell 1 0], blockStart := some 104
                             expected := some 120, blockSize := 4096 }
    let s (x : Sink) : State := { holding [terminus] (frame5 0) with sinks := [x] }
    8 < (9 : Byte).toNat ∧ (8 : Byte).toNat ≤ 8 ∧ laneSink (s x) 5 0x4802 = none ∧ laneSink (s x) 6 0x4802 = some x ∧
      laneSink (s (sink 0 8)) 6 0x4802 = some (sink 0 8) ∧ (sink 0 8).released = [] ∧ x.released ≠ [] ∧
      x.blockSize ≤ 4096 ∧ ahead (120 : Seq) 104 = true := by decide

end Sys2Proof.Tests
end

section
/-! SUPPORT. The eight capture records at the Request Port: what a record number selects, what READ_CAPTURE and CLEAR_CAPTURE
answer for it, and the two statements about them (R165, R166). -/

namespace Sys2Proof.Machine

open Sys2Proof

/-! ### Record numbers (R161) -/

theorem portOf_eq_some {b : Byte} {p : PortId} (h : b.toNat = p.val) : portOf b = some p := by
  simp [portOf, h]

theorem portOf_eq_none {b : Byte} (h : 5 < b.toNat) : portOf b = none := by
  have beyond : ¬ b.toNat < 6 := by omega
  simp [portOf, beyond]

theorem captureAt_of_port (s : State) {b : Byte} {p : PortId} (h : b.toNat = p.val) :
    captureAt s b = some (s.captures.port.get p) := by
  simp [captureAt, portOf_eq_some h]

@[simp] theorem captureAt_lane (s : State) : captureAt s 6 = some s.captures.lane := rfl

@[simp] theorem captureAt_protocol (s : State) : captureAt s 7 = some s.captures.protocol := rfl

theorem captureAt_eq_none (s : State) {b : Byte} (h : 7 < b.toNat) : captureAt s b = none := by
  have hport : portOf b = none := portOf_eq_none (by omega)
  have hlane : b ≠ 6 := by rintro rfl; simp at h
  have hprotocol : b ≠ 7 := by rintro rfl; simp at h
  simp only [captureAt, hport, if_neg hlane, if_neg hprotocol]

theorem clearCaptureAt_of_port (s : State) {b : Byte} {p : PortId} (h : b.toNat = p.val) :
    clearCaptureAt b s =
      { s with captures := { s.captures with port := s.captures.port.set p emptyCapture } } := by
  simp [clearCaptureAt, portOf_eq_some h]

@[simp] theorem clearCaptureAt_lane (s : State) :
    clearCaptureAt 6 s = { s with captures := { s.captures with lane := emptyCapture } } := rfl

@[simp] theorem clearCaptureAt_protocol (s : State) :
    clearCaptureAt 7 s = { s with captures := { s.captures with protocol := emptyCapture } } := rfl

/-! ### The two requests, once per outcome of the record number -/

theorem exec_readCapture (record : Option Byte) (s : State) :
    exec (.readCapture record) s = execReadCapture record s := by
  rfl

theorem exec_clearCapture (record : Option Byte) (s : State) :
    exec (.clearCapture record) s = execClearCapture record s := by
  rfl

section Requests

variable {s : State} (run : s.pins.reset = false)

include run

theorem exec_readCapture_of_some {n : Byte} {r : CaptureRecord} (h : captureAt s n = some r) :
    exec (.readCapture (some n)) s = .next (withAnswer s .ok (.capture r)) := by
  rw [exec_readCapture, execReadCapture, request_of_run _ _ run]
  simp only [h, answer_eq]

theorem exec_readCapture_of_none {n : Byte} (h : captureAt s n = none) :
    exec (.readCapture (some n)) s = .next (withAnswer s .badArgument .empty) := by
  rw [exec_readCapture, execReadCapture, request_of_run _ _ run]
  simp only [h, answer_eq]

theorem exec_readCapture_summary :
    exec (.readCapture none) s = .next (withAnswer s .ok (.captures s.captures)) := by
  rw [exec_readCapture, execReadCapture, request_of_run _ _ run]
  simp only [answer_eq]

theorem exec_clearCapture_of_some {n : Byte} {r : CaptureRecord} (h : captureAt s n = some r) :
    exec (.clearCapture (some n)) s = .next (withAnswer (clearCaptureAt n s) .ok (.capture r)) := by
  rw [exec_clearCapture, execClearCapture, request_of_run _ _ run]
  simp only [h, answer_eq]

theorem exec_clearCapture_of_none {n : Byte} (h : captureAt s n = none) :
    exec (.clearCapture (some n)) s = .next (withAnswer s .badArgument .empty) := by
  rw [exec_clearCapture, execClearCapture, request_of_run _ _ run]
  simp only [h, answer_eq]

theorem exec_clearCapture_all :
    exec (.clearCapture none) s = .next (withAnswer
      { s with captures := ⟨PerPort.all emptyCapture, emptyCapture, emptyCapture⟩ } .ok (.captures s.captures)) := by
  rw [exec_clearCapture, execClearCapture, request_of_run _ _ run]
  simp only [answer_eq]

end Requests

/-! ### The bytes of a record (R165, R168) -/

@[simp] theorem bOption_none {α : Type} (f : α → List Byte) : bOption f none = [0] := rfl

@[simp] theorem bOption_some {α : Type} (f : α → List Byte) (x : α) : bOption f (some x) = [1] ++ f x := rfl

/-! ### The statements -/

/-- Settles O11: the record number decides what is read, and a held error decides the bytes. -/
theorem captureReads : Obligations.CaptureReads := by
  intro s run
  refine ⟨fun b p hb => ?port, ?lane, ?protocol, fun b hb => ?above, ?summary, fun r => ?bytes, fun r => ?line⟩
  case port => exact exec_readCapture_of_some run (captureAt_of_port s hb)
  case lane => exact exec_readCapture_of_some run (captureAt_lane s)
  case protocol => exact exec_readCapture_of_some run (captureAt_protocol s)
  case above => exact exec_readCapture_of_none run (captureAt_eq_none s hb)
  case summary => exact exec_readCapture_summary run
  case bytes => rcases r with ⟨_ | e, lost⟩ <;> simp only [bCapture, bOption_none, bOption_some]
  case line => rcases r with ⟨_ | e, lost⟩ <;> simp only [bCaptureLine, bOption_none, bOption_some]

/-- Settles O12: the record number decides which record is answered and emptied. -/
theorem captureClears : Obligations.CaptureClears := by
  intro s run
  refine ⟨fun b p hb => ?port, ?lane, ?protocol, fun b hb => ?above, ?all⟩
  case port =>
    have cleared := exec_clearCapture_of_some run (captureAt_of_port s hb)
    rwa [clearCaptureAt_of_port s hb] at cleared
  case lane => exact exec_clearCapture_of_some run (captureAt_lane s)
  case protocol => exact exec_clearCapture_of_some run (captureAt_protocol s)
  case above => exact exec_clearCapture_of_none run (captureAt_eq_none s hb)
  case all => exact exec_clearCapture_all run

end Sys2Proof.Machine
end

section
/-! SUPPORT. IDENTIFY at the Request Port: the answer it leaves, the bytes of that answer's fields, and the statement about
it (R171, R168). -/

namespace Sys2Proof.Machine

open Sys2Proof

theorem exec_identify {s : State} (run : s.pins.reset = false) :
    exec .identify s = .next (withAnswer s .ok (.identity s.req.strap s.req.config.frameId s.clock.epoch)) := by
  have arm : exec .identify s = execIdentify s := rfl
  rw [arm, execIdentify, request_of_run _ _ run, answer_eq, ownFrame]

/-! ### The bytes of the fields (R168) -/

theorem b1_eq (n : Nat) : b1 n = [BitVec.ofNat 8 n] := by
  simp [b1, bytesOf]

theorem b2_eq (n : Nat) : b2 n = [BitVec.ofNat 8 (n / 256), BitVec.ofNat 8 n] := by
  simp [b2, bytesOf]

theorem bBody_identity (strap own : FrameId) (epoch : Epoch) :
    bBody (.identity strap own epoch) =
      [0x06, 0x16, 1, BitVec.ofNat 8 strap.val, BitVec.ofNat 8 own.val, 6, 16, 128, 64, 0x10, 0x00, 32, 8] ++
        bytesOf 6 epoch.toNat := by
  have device : b2 0x0616 = [0x06, 0x16] := b2_eq _
  have cells : b2 Figures.poolCells = [0x10, 0x00] := b2_eq _
  simp only [bBody, device, cells, b1_eq, b6, Figures.streamRecords, Figures.sinkEntries, Figures.triggerEntries,
    BitVec.ofNat_eq_ofNat, List.cons_append, List.nil_append]

/-! ### The statement -/

/-- Settles O9: out of reset the request leaves its answer alone, and the answer's fields are spelled one by one. -/
theorem identifyAnswers : Obligations.IdentifyAnswers :=
  fun s run => ⟨exec_identify run, bBody_identity s.req.strap s.req.config.frameId s.clock.epoch⟩

end Sys2Proof.Machine
end

section
/-! SUPPORT. What the operations of ports, clock and triggers leave alone: frames for those that are no part of the Stream
Table's or the Timebase Unit's effects. -/

namespace Sys2Proof.Machine

open Sys2Proof

/-- What ports can change, directly and through the blocks that they report to. -/
abbrev portPieces : List Piece := [.ports, .time, .dir, .streams, .sinks, .captures, .req]

theorem StreamEffects.port {s t : State} (h : StreamEffects s t) : changesOnly portPieces s t := h.pieces.mono (by decide)

theorem setPort_pieces (p : PortId) (x : Port) (s : State) : changesOnly [.ports] s (s.setPort p x) := by
  intro y hy; cases y <;> first | rfl | simp at hy

theorem setPort_frame (p : PortId) (x : Port) (s : State) : changesOnly portPieces s (s.setPort p x) :=
  (setPort_pieces p x s).mono (by decide)

theorem changePort_pieces (p : PortId) (x : PortState) (r : Option PortReason) (s : State) :
    changesOnly portPieces s (changePort p x r s) := (setPort_frame _ _ s).trans (raise_effects _ _).port

/-! ### UP, ADMITTED, FAULT and the port reset (R26 to R31) -/

theorem admitPort_pieces (p : PortId) (s : State) : changesOnly portPieces s (admitPort p s) := by
  unfold admitPort; split
  · exact changePort_pieces _ _ _ s
  · exact changesOnly.refl _ s

theorem enterUp_pieces (p : PortId) (s : State) : changesOnly portPieces s (enterUp p s) :=
  (((changePort_pieces p .up (upReason s p) s).trans (setPort_frame _ _ _)).trans
    (announceRepeating_effects p _).port).trans (admitPort_pieces p _)

theorem dir_frame (d : Directory) (s : State) : changesOnly portPieces s { s with dir := d } := by
  intro y hy; cases y <;> first | rfl | simp at hy

theorem nextHopLost_pieces (p : PortId) (s : State) : changesOnly portPieces s (nextHopLost p s) :=
  ((dir_frame _ s).trans (raiseIf_effects _ _ _).port).trans (evaluate_effects _).pieces

theorem enterFault_pieces (p : PortId) (r : PortReason) (s : State) : changesOnly portPieces s (enterFault p r s) := by
  have told : ∀ (b : Prop) [Decidable b] (u : State), changesOnly portPieces u (if b then nextHopLost p u else u) := by
    intro b _ u; split
    · exact nextHopLost_pieces p u
    · exact changesOnly.refl _ u
  unfold enterFault
  dsimp only
  split
  · exact ((changePort_pieces p _ _ s).trans (told _ _)).trans (timingPortLost_effects p _).pieces
  · exact (changePort_pieces p _ _ s).trans (told _ _)

theorem closeDelay_pieces (p : PortId) (s : State) : changesOnly portPieces s (closeDelay p s) :=
  (setPort_frame _ _ s).trans (timingPortLost_effects p _).pieces

theorem portReset_pieces (p : PortId) (c : ErrorKind) (d : Detail) (s : State) :
    changesOnly portPieces s (portReset p c d s) :=
  ((((((setPort_frame p (resetOwnState (s.port p)) s).trans (raise_effects .port _).port).trans
    (nextHopLost_pieces p _)).trans (closeDelay_pieces p _)).trans (portResetStreams_effects p _).port).trans
    (setSlotMap_effects p [] _).port).trans (capturePort_effects _ _ _ _ _ _).port

theorem takeCause_pieces (p : PortId) (c : ErrorKind) (s : State) : changesOnly portPieces s (takeCause p c s) := by
  unfold takeCause; split
  · exact portReset_pieces _ _ _ s
  · exact changesOnly.refl _ s

theorem countError_pieces (p : PortId) (s : State) : changesOnly portPieces s (countError p s) := by
  unfold countError
  dsimp only
  split
  · exact changesOnly.refl _ s
  · split
    · split
      · exact (setPort_frame _ _ s).trans (setPort_frame _ _ _)
      · exact (setPort_frame _ _ s).trans (takeCause_pieces _ _ _)
    · exact setPort_frame _ _ s

theorem countErrors_pieces (n : Nat) (p : PortId) : ∀ s, changesOnly portPieces s (countErrors n p s) := by
  induction n with
  | zero => exact fun s => changesOnly.refl _ s
  | succ n ih => exact fun s => (countError_pieces p s).trans (ih _)

theorem reexaminePort_pieces (p : PortId) (s : State) : changesOnly portPieces s (reexaminePort p s) := by
  unfold reexaminePort
  dsimp only
  split
  · split
    · exact (setPort_frame _ _ s).trans (enterFault_pieces _ _ _)
    · exact ((setPort_frame _ _ s).trans (setPort_frame _ _ _)).trans (admitPort_pieces _ _)
  · split
    · exact enterUp_pieces p s
    · exact changesOnly.refl _ s
  · split
    · exact enterFault_pieces _ _ s
    · exact changesOnly.refl _ s
  all_goals exact changesOnly.refl _ s

theorem renumberDirectory_pieces (s : State) : changesOnly portPieces s (renumberDirectory s) :=
  (((dir_frame _ s).trans (raiseIf_effects _ _ _).port).trans (announceAdvancing_effects _).pieces).trans
    (evaluate_effects _).pieces

theorem setConfig_frame (c : Config) (s : State) : changesOnly portPieces s (s.setConfig c) := by
  intro y hy; cases y <;> first | rfl | simp at hy

theorem takeFrameId_pieces (f : FrameId) (s : State) : changesOnly portPieces s (takeFrameId f s) :=
  ((setConfig_frame _ s).trans (changesOnly.foldl _ (fun s p => reexaminePort_pieces p s) allPorts _)).trans
    (renumberDirectory_pieces _)

/-! ### Delay records and markers (R3 to R5, R58 to R62) -/

theorem delayVerdict_pieces (p : PortId) (d : Nat) (s : State) : changesOnly portPieces s (delayVerdict p d s) := by
  unfold delayVerdict
  split
  · split
    · exact enterFault_pieces _ _ s
    · split
      · exact enterFault_pieces _ _ s
      · exact enterUp_pieces _ s
  · split
    · exact enterFault_pieces _ _ s
    · exact changesOnly.refl _ s
  all_goals exact changesOnly.refl _ s

theorem setDelay_pieces (p : PortId) (r : DelayRecord) (s : State) : changesOnly portPieces s (setDelay p r s) := by
  unfold setDelay
  dsimp only
  split
  · exact (setPort_frame _ _ s).trans (repack_effects p _).port
  · exact setPort_frame _ _ s

theorem sampleDelay_pieces (p : PortId) (m : Marker) (a : Stamp) (s : State) :
    changesOnly portPieces s (sampleDelay p m a s) := by
  have caught : ∀ (b : Prop) [Decidable b] (d : Detail),
      changesOnly portPieces s (if b then capturePort p .negativeDelay (some 0) none d s else s) := by
    intro b _ d; split
    · exact (capturePort_effects _ _ _ _ _ s).port
    · exact changesOnly.refl _ s
  unfold sampleDelay
  dsimp only
  split
  · split
    · exact changesOnly.refl _ s
    · split
      · exact ((caught _ _).trans (setDelay_pieces _ _ _)).trans (delayVerdict_pieces _ _ _)
      · exact (caught _ _).trans (setDelay_pieces _ _ _)
  · exact changesOnly.refl _ s

theorem recordMarker_pieces (p : PortId) (m : Marker) (i : InfoBits) (a : Stamp) (s : State) :
    changesOnly portPieces s (recordMarker p m i a s) := (setPort_frame _ _ s).trans (raiseIf_effects _ _ _).port

theorem bringUp_pieces (p : PortId) (m : Marker) (a : Stamp) (s : State) : changesOnly portPieces s (bringUp p m a s) := by
  unfold bringUp
  split
  · exact (changePort_pieces _ _ _ s).trans (setPort_frame _ _ _)
  · exact sampleDelay_pieces _ _ _ s

theorem acceptMarker_pieces (p : PortId) (m : Marker) (i : InfoBits) (a : Stamp) (s : State) :
    changesOnly portPieces s (acceptMarker p m i a s) :=
  ((recordMarker_pieces p m i a s).trans (bringUp_pieces _ _ _ _)).trans (observeMarker_effects _ _ _ _ _).pieces

theorem rejectMarker_pieces (p : PortId) (c : MarkerCheck) (s : State) : changesOnly portPieces s (rejectMarker p c s) :=
  (capturePort_effects _ _ _ _ _ s).port

theorem takeMarker_pieces (p : PortId) (bs : List Byte) (a : Stamp) (s : State) :
    changesOnly portPieces s (takeMarker p bs a s) := by
  have judged : ∀ (i : InfoBits) (u : State), changesOnly portPieces u
      (match failedCheck (u.port p) bs i with
        | some c => rejectMarker p c u
        | none => acceptMarker p (readMarker bs) i a u) := by
    intro i u; split
    · exact rejectMarker_pieces _ _ u
    · exact acceptMarker_pieces _ _ _ _ u
  unfold takeMarker
  dsimp only
  split
  · exact rejectMarker_pieces _ _ s
  · exact judged _ s
  · exact (capturePort_effects _ _ _ _ _ s).port.trans (judged _ _)

theorem setRecognizer_pieces (p : PortId) (r : Recognizer) (s : State) :
    changesOnly portPieces s (setRecognizer p r s) := setPort_frame _ _ s

theorem readByte_pieces (p : PortId) (b : Byte) (s : State) : changesOnly portPieces s (readByte p b s) := by
  unfold readByte
  dsimp only
  split
  · exact setRecognizer_pieces _ _ s
  · split
    · exact (setRecognizer_pieces _ _ s).trans (takeMarker_pieces _ _ _ _)
    · exact setRecognizer_pieces _ _ s

theorem recognize_pieces (p : PortId) (c : Symbol) (a : Stamp) (s : State) :
    changesOnly portPieces s (recognize p c a s) := by
  have cut := (setRecognizer_pieces p (beginSearch c a) s).trans (rejectMarker_pieces p .truncated _)
  unfold recognize
  dsimp only
  split
  · cases c
    case idle => exact changesOnly.refl _ s
    all_goals exact setRecognizer_pieces _ _ s
  · cases c
    case data b => exact readByte_pieces _ _ s
    case invalid => exact readByte_pieces _ _ s
    case idle => exact changesOnly.refl _ s
    all_goals exact cut

theorem receiveSymbol_pieces (p : PortId) (c : Symbol) (a : Stamp) (s : State) :
    changesOnly portPieces s (receiveSymbol p c a s) := by
  have counted : changesOnly portPieces s (if c = .invalid then countError p s else s) := by
    split
    · exact countError_pieces p s
    · exact changesOnly.refl _ s
  have shown : ∀ u, changesOnly portPieces u (if recognizerRuns (u.port p) then recognize p c a u else u) := by
    intro u; split
    · exact recognize_pieces _ _ _ u
    · exact changesOnly.refl _ u
  exact counted.trans (shown _)

theorem recognizeAll_pieces (p : PortId) (cs : List Symbol) : ∀ s, changesOnly portPieces s (recognizeAll p cs s) := by
  induction cs with
  | nil => exact fun s => changesOnly.refl _ s
  | cons c rest ih => exact fun s => (receiveSymbol_pieces p c _ s).trans (ih _)

/-! ### Departure (R34 to R36) -/

theorem swap_frame (x : Swap) (s : State) : changesOnly (.swap :: portPieces) s { s with swap := x } := by
  intro y hy; cases y <;> first | rfl | simp at hy

theorem endDrain_pieces (s : State) : changesOnly (.swap :: portPieces) s (endDrain s) := by
  have ports : changesOnly portPieces (raise .port { s with swap := { s.swap with departure := .drained } }) (endDrain s) :=
    (drainEndStreams_effects _).port.trans (changesOnly.foldl _ (fun s p => changePort_pieces p .draining none s) _ _)
  exact ((swap_frame _ s).trans ((raise_effects _ _).port.mono (by decide))).trans (ports.mono (by decide))

/-! ### Records and sinks -/

theorem streams_effects (x : StreamTable) (s : State) : StreamEffects s { s with streams := x } := by
  refine ⟨fun y hy => ?_, fun _ => rfl, fun _ => .of_eq rfl rfl, noticesOnly.of_req rfl⟩
  cases y <;> first | rfl | simp at hy

theorem activate_effects (i : Nat) (n : Option Nat) (s : State) : StreamEffects s (activate i n s) :=
  (changeRecord_effects _ _ s).trans (streams_effects _ _)

theorem putRecord_effects (r : StreamRecord) (s : State) : StreamEffects s (putRecord r s) := setRecords_effects _ s

theorem carrySink_effects (hop cells budget : Nat) (s : State) (k : Nat) :
    StreamEffects s (carrySink hop cells budget s k) := by
  unfold carrySink
  split
  · exact StreamEffects.refl s
  · dsimp only
    split
    · exact changeSink_effects _ _ s
    · exact detachSink_effects _ s

theorem breakOld_effects (r : StreamRecord) (s : State) : StreamEffects s (breakOld r s) := by
  unfold breakOld
  split
  · exact StreamEffects.refl s
  · dsimp only
    split
    · exact (breakDown_effects _ _ s).trans (setSlotMap_effects _ _ _)
    · exact setSlotMap_effects _ _ s

theorem placeRecord_effects (q : PortId) (m : SetupMsg) (egress : Option PortId) (s : State) :
    StreamEffects s (placeRecord q m egress s) := by
  have broken : ∀ old : Option StreamRecord,
      StreamEffects s (match old with | some x => breakOld x s | none => s) := by
    intro old; split
    · exact breakOld_effects _ s
    · exact StreamEffects.refl s
  unfold placeRecord
  dsimp only
  split
  · exact StreamEffects.refl s
  · refine StreamEffects.trans ?_ (raise_effects _ _)
    have carried := fun (r : StreamRecord) (ks : List Nat) =>
      ((broken (recordOf s m.id)).trans (putRecord_effects r _)).trans
        (StreamEffects.foldl _ (carrySink_effects r.hop r.cells r.budget) ks _)
    split
    · exact (carried _ _).trans (assignSlots_effects _ _ _)
    · exact (carried _ _).trans (streams_effects _ _)

theorem takeTransit_effects (r : StreamRecord) (p : PortId) (c : QueuedCell) (s : State) :
    StreamEffects s (takeTransit r p c s) := by
  unfold takeTransit
  split
  · exact editRecord_effects _ _ s
  · exact capturePort_effects _ _ _ _ _ s

theorem arrive_effects (h : CellHeader) (b : Bool) (payload : List Byte) (r : StreamRecord) (s : State) :
    StreamEffects s (arrive h b payload r s) := by
  unfold arrive
  split
  · dsimp only
    have copied := fun (f : StreamRecord → StreamRecord) (c : SinkCell) =>
      (editRecord_effects r.index f s).trans (copyToSinks_effects r c _)
    split
    · exact (copied _ _).trans (takeTransit_effects _ _ _ _)
    · exact copied _ _
  · exact StreamEffects.refl s

theorem classify_effects (p : PortId) (bs : List Byte) (s : State) : StreamEffects s (classify p bs s) := by
  unfold classify
  dsimp only
  split
  · exact capturePort_effects _ _ _ _ _ s
  · split
    · exact capturePort_effects _ _ _ _ _ s
    · split
      · exact capturePort_effects _ _ _ _ _ s
      · split
        · exact (capturePort_effects _ _ _ _ _ s).trans (arrive_effects _ _ _ _ _)
        · exact arrive_effects _ _ _ _ s

theorem acceptPush_effects (r : StreamRecord) (n : Byte) (payload : List Byte) (s : State) :
    StreamEffects s (acceptPush r n payload s) := (editRecord_effects _ _ s).trans (copyToSinks_effects _ _ _)

theorem addSink_effects (x : Sink) (s : State) : StreamEffects s (addSink x s) :=
  ((sinks_effects _ s).trans (editRecord_effects _ _ _)).trans (raiseIf_effects _ _ _)

theorem cellStarts_pieces (p : PortId) (bs : List Byte) (s : State) : changesOnly portPieces s (cellStarts p bs s) := by
  unfold cellStarts; split
  · exact recognize_pieces _ _ _ s
  · exact changesOnly.refl _ s

end Sys2Proof.Machine
end

section
/-! SUPPORT. Every shared operation keeps the whole invariant: its bounds, and that no ARMED trigger is behind the counter
(R79). -/

namespace Sys2Proof.Machine

open Sys2Proof

/-! ### How the invariant is carried -/

/-- Where the rack time stands and no entry has become ARMED, the entries are as punctual as they were. -/
theorem onTime.subset {time : RackTime} {l m : List TriggerEntry} (h : onTime time l)
    (armed : ∀ e ∈ m, e.state = .armed → e ∈ l) : onTime time m :=
  fun e he ha => h e (armed e he ha) ha

theorem Inv.of_frame {xs : List Piece} {s t : State} (h : Inv s) (bounds : Bounds t) (frame : changesOnly xs s t)
    (clock : .clock ∉ xs) (trig : .trig ∉ xs) : Inv t := by
  have hc : t.clock = s.clock := frame .clock clock
  have ht : t.trig = s.trig := frame .trig trig
  exact ⟨bounds, by simpa [now, hc, ht] using h.punctual⟩

theorem Inv.port {s t : State} (h : Inv s) (bounds : Bounds t) (frame : changesOnly portPieces s t) : Inv t :=
  h.of_frame bounds frame (by decide) (by decide)

theorem Inv.stream {s t : State} (h : Inv s) (bounds : Bounds t) (effects : StreamEffects s t) : Inv t :=
  h.port bounds effects.port

theorem Inv.timing {s t : State} (h : Inv s) (bounds : Bounds t) (effects : TimingEffects s t) : Inv t :=
  h.port bounds effects.pieces

theorem Inv.fires {s t : State} (h : Inv s) (bounds : Bounds t) (fires : Fires s t) : Inv t := by
  have hn : now t = now s := by rw [now, now, fires.clock]
  exact ⟨bounds, hn ▸ h.punctual.subset fires.armed⟩

/-- Parts that no bound speaks of may change freely. -/
theorem Inv.congr {s t : State} (h : Inv s) (ports : t.ports = s.ports) (trig : t.trig = s.trig)
    (config : t.req.config = s.req.config) (records : t.streams.records = s.streams.records) (sinks : t.sinks = s.sinks)
    (clock : now t = now s) : Inv t :=
  ⟨h.toBounds.congr ports trig config records sinks, by rw [clock, trig]; exact h.punctual⟩

theorem Inv.foldl {α : Type} (f : State → α → State) (hf : ∀ s a, Inv s → Inv (f s a)) (l : List α) {s : State}
    (h : Inv s) : Inv (l.foldl f s) := foldl_invariant Inv f hf l s h

/-! ### Elementary operations -/

theorem raise_keeps (k : NoticeKind) {s : State} (h : Inv s) : Inv (raise k s) :=
  h.stream (raise_inv k h.toBounds) (raise_effects k s)

theorem raiseIf_keeps (b : Bool) (k : NoticeKind) {s : State} (h : Inv s) : Inv (raiseIf b k s) :=
  h.stream (raiseIf_inv b k h.toBounds) (raiseIf_effects b k s)

theorem answer_keeps (st : Status) (b : Body) {s : State} (h : Inv s) : Inv (answer st b s) :=
  h.congr rfl rfl rfl rfl rfl rfl

theorem refuseWith_keeps (r : RefusalReason) {s : State} (h : Inv s) : Inv (refuseWith r s) :=
  h.congr rfl rfl rfl rfl rfl rfl

theorem answerLane_keeps (a : LaneAnswer) {s : State} (h : Inv s) : Inv (s.answerLane a) :=
  h.congr rfl rfl rfl rfl rfl rfl

theorem takeMessage_keeps (p : PortId) (m : Msg) {s : State} (h : Inv s) : Inv (takeMessage p m s) :=
  h.congr rfl rfl rfl rfl rfl rfl

theorem setPort_keeps {p : PortId} {x : Port} {s : State} (h : Inv s) (hx : PortInv x) : Inv (s.setPort p x) :=
  h.port (setPort_inv h.toBounds hx) (setPort_frame p x s)

/-- A port whose queues, slot map and miss count stand keeps its bounds. -/
theorem setPort_keeps_link {p : PortId} {x : Port} {s : State} (h : Inv s)
    (protocol : x.protocolQueue = (s.port p).protocolQueue) (flood : x.floodQueue = (s.port p).floodQueue)
    (slots : x.slotMap = (s.port p).slotMap) (misses : x.missCount = (s.port p).missCount)
    (loss : x.lossDue = (s.port p).lossDue) : Inv (s.setPort p x) :=
  setPort_keeps h ((h.ports p).congr protocol flood slots misses loss)

theorem changePort_keeps (p : PortId) (x : PortState) (r : Option PortReason) {s : State} (h : Inv s) :
    Inv (changePort p x r s) := h.port (changePort_inv p x r h.toBounds) (changePort_pieces p x r s)

theorem setConfig_keeps {c : Config} {s : State} (h : Inv s) (hc : ConfigInv c) : Inv (s.setConfig c) :=
  h.port (setConfig_inv h.toBounds hc) (setConfig_frame c s)

theorem editRecord_keeps (i : Nat) {f : StreamRecord → StreamRecord} {s : State} (h : Inv s)
    (hf : ∀ r, (f r).index = r.index) : Inv (editRecord i f s) :=
  h.stream (editRecord_inv i h.toBounds hf) (editRecord_effects i f s)

theorem changeRecord_keeps (i : Nat) {f : StreamRecord → StreamRecord} {s : State} (h : Inv s)
    (hf : ∀ r, (f r).index = r.index) : Inv (changeRecord i f s) :=
  h.stream (changeRecord_inv i h.toBounds hf) (changeRecord_effects i f s)

theorem changeSink_keeps (k : Nat) {f : Sink → Sink} {s : State} (h : Inv s) (hi : ∀ x, (f x).index = x.index)
    (hf : ∀ x, sinkRoom x → sinkRoom (f x)) : Inv (changeSink k f s) :=
  h.stream (changeSink_inv k h.toBounds hi hf) (changeSink_effects k f s)

theorem detachSink_keeps (k : Nat) {s : State} (h : Inv s) : Inv (detachSink k s) :=
  h.stream (detachSink_inv k h.toBounds) (detachSink_effects k s)

theorem capturePort_keeps (p : PortId) (k : ErrorKind) (n : Option Nat) (id : Option StreamId) (d : Detail) {s : State}
    (h : Inv s) : Inv (capturePort p k n id d s) :=
  h.stream (capturePort_inv p k n id d h.toBounds) (capturePort_effects p k n id d s)

theorem captureLane_keeps (k : ErrorKind) (id : Option StreamId) (d : Detail) {s : State} (h : Inv s) :
    Inv (captureLane k id d s) := h.stream (captureLane_inv k id d h.toBounds) (captureLane_effects k id d s)

theorem captureProtocol_keeps (k : ErrorKind) (id : Option StreamId) (d : Detail) {s : State} (h : Inv s) :
    Inv (captureProtocol k id d s) :=
  h.stream (captureProtocol_inv k id d h.toBounds) (captureProtocol_effects k id d s)

theorem protocolError_keeps (c : ProtocolCause) (m : Msg) (p : PortId) {s : State} (h : Inv s) :
    Inv (protocolError c m p s) := captureProtocol_keeps _ _ _ h

theorem joinProtocol_keeps (p : PortId) (m : Msg) {s : State} (h : Inv s) : Inv (joinProtocol p m s) :=
  h.stream (joinProtocol_inv p m h.toBounds) (joinProtocol_effects p m s)

theorem send_keeps (p : PortId) (m : Msg) {s : State} (h : Inv s) : Inv (send p m s) :=
  h.stream (send_inv p m h.toBounds) (send_effects p m s)

theorem sendSide_keeps (side : Option PortId) (m : Msg) {s : State} (h : Inv s) : Inv (sendSide side m s) :=
  h.stream (sendSide_inv side m h.toBounds) (sendSide_effects side m s)

theorem offerAll_keeps {offer : PortId → State → State} (bounds : ∀ p s, Bounds s → Bounds (offer p s))
    (effects : ∀ p s, StreamEffects s (offer p s)) (ps : List PortId) {s : State} (h : Inv s) : Inv (offerAll offer ps s) :=
  h.stream (offerAll_inv offer bounds ps h.toBounds) (offerAll_effects offer effects ps s)

/-- A TRIGGER or CANCEL offered to some ports; neither is an ANNOUNCE (R15). -/
theorem offerFloods_keeps {m : Msg} (hm : announcedFrame m = none) (ps : List PortId) {s : State} (h : Inv s) :
    Inv (offerAll (offerFlood m) ps s) :=
  offerAll_keeps (fun p _ => offerFlood_inv m hm p) (fun p s => offerFlood_effects m p s) ps h

theorem offerAnnounces_keeps (a : AnnounceMsg) (ps : List PortId) {s : State} (h : Inv s) :
    Inv (offerAll (offerAnnounce a) ps s) :=
  offerAll_keeps (fun p _ => offerAnnounce_inv a p) (fun p s => offerAnnounce_effects a p s) ps h

/-! ### The Stream Table and the Path Controller -/

theorem releaseSlots_keeps (i k : Nat) {s : State} (h : Inv s) : Inv (releaseSlots i k s) :=
  h.stream (releaseSlots_inv i k h.toBounds) (releaseSlots_effects i k s)

theorem assignSlots_keeps (i n : Nat) {s : State} (h : Inv s) : Inv (assignSlots i n s) :=
  h.stream (assignSlots_inv i n h.toBounds) (assignSlots_effects i n s)

theorem suspend_keeps (i : Nat) (c : ReasonCode) (free : Bool) {s : State} (h : Inv s) : Inv (suspend i c free s) :=
  h.stream (suspend_inv i c free h.toBounds) (suspend_effects i c free s)

theorem removeRecord_keeps (i : Nat) {s : State} (h : Inv s) : Inv (removeRecord i s) :=
  h.stream (removeRecord_inv i h.toBounds) (removeRecord_effects i s)

theorem closeRecord_keeps (i : Nat) (reason : StreamReason) (f : Option FrameId) {s : State} (h : Inv s) :
    Inv (closeRecord i reason f s) := h.stream (closeRecord_inv i reason f h.toBounds) (closeRecord_effects i reason f s)

theorem activate_keeps (i : Nat) (n : Option Nat) {s : State} (h : Inv s) : Inv (activate i n s) :=
  h.stream (activate_inv i n h.toBounds) (activate_effects i n s)

theorem revertRetune_keeps (i : Nat) {s : State} (h : Inv s) : Inv (revertRetune i s) :=
  h.stream (revertRetune_inv i h.toBounds) (revertRetune_effects i s)

theorem refuseRetune_keeps (i : Nat) (c : ReasonCode) {s : State} (h : Inv s) : Inv (refuseRetune i c s) :=
  h.stream (refuseRetune_inv i c h.toBounds) (refuseRetune_effects i c s)

theorem switchRecord_keeps (i : Nat) {s : State} (h : Inv s) : Inv (switchRecord i s) :=
  h.stream (switchRecord_inv i h.toBounds) (switchRecord_effects i s)

theorem clearMessages_keeps (r : StreamRecord) {s : State} (h : Inv s) : Inv (clearMessages r s) :=
  h.stream (clearMessages_inv r h.toBounds) (clearMessages_effects r s)

theorem refuseOrigin_keeps (i : Nat) (c : ReasonCode) (f : FrameId) {s : State} (h : Inv s) :
    Inv (refuseOrigin i c f s) := h.stream (refuseOrigin_inv i c f h.toBounds) (refuseOrigin_effects i c f s)

theorem offerSetup_keeps (i : Nat) {s : State} (h : Inv s) : Inv (offerSetup i s) :=
  h.stream (offerSetup_inv i h.toBounds) (offerSetup_effects i s)

theorem stageRetune_keeps (i : Nat) (d : Staged) (t : Option Nat) {s : State} (h : Inv s) : Inv (stageRetune i d t s) :=
  h.stream (stageRetune_inv i d t h.toBounds) (stageRetune_effects i d t s)

theorem takeSwitchEpoch_keeps (i : Nat) (e : Epoch) {s : State} (h : Inv s) : Inv (takeSwitchEpoch i e s) :=
  h.stream (takeSwitchEpoch_inv i e h.toBounds) (takeSwitchEpoch_effects i e s)

theorem copyToSinks_keeps (r : StreamRecord) (c : SinkCell) {s : State} (h : Inv s) : Inv (copyToSinks r c s) :=
  h.stream (copyToSinks_inv r c h.toBounds) (copyToSinks_effects r c s)

/-! ### The Frame Directory and the Timebase Unit -/

theorem announceAdvancing_keeps {s : State} (h : Inv s) : Inv (announceAdvancing s) :=
  h.timing (announceAdvancing_inv h.toBounds) (announceAdvancing_effects s)

theorem evaluate_keeps {s : State} (h : Inv s) : Inv (evaluate s) := h.timing (evaluate_inv h.toBounds) (evaluate_effects s)

theorem changeTiming_keeps (x : TimingState) {s : State} (h : Inv s) : Inv (changeTiming x s) :=
  h.timing (changeTiming_inv x h.toBounds) (changeTiming_effects x s)

theorem handResult_keeps (r : ElectionResult) {s : State} (h : Inv s) : Inv (handResult evaluate r s) :=
  h.timing (handResult_inv evaluate (fun _ => evaluate_inv) r h.toBounds) (handResult_effects evaluate evaluate_effects r s)

theorem referenceChanged_keeps {s : State} (h : Inv s) : Inv (referenceChanged s) :=
  h.timing (referenceChanged_inv h.toBounds) (referenceChanged_effects s)

theorem timingPortLost_keeps (p : PortId) {s : State} (h : Inv s) : Inv (timingPortLost p s) :=
  h.timing (timingPortLost_inv p h.toBounds) (timingPortLost_effects p s)

theorem enterAcquiring_keeps (o : Observation) {s : State} (h : Inv s) : Inv (enterAcquiring o s) :=
  h.timing (enterAcquiring_inv o h.toBounds) (enterAcquiring_effects o s)

/-! ### Ports -/

theorem portReset_keeps (p : PortId) (c : ErrorKind) (d : Detail) {s : State} (h : Inv s) : Inv (portReset p c d s) :=
  h.port (portReset_inv p c d h.toBounds) (portReset_pieces p c d s)

theorem takeCause_keeps (p : PortId) (c : ErrorKind) {s : State} (h : Inv s) : Inv (takeCause p c s) :=
  h.port (takeCause_inv p c h.toBounds) (takeCause_pieces p c s)

theorem admitPort_keeps (p : PortId) {s : State} (h : Inv s) : Inv (admitPort p s) :=
  h.port (admitPort_inv p h.toBounds) (admitPort_pieces p s)

theorem endDrain_keeps {s : State} (h : Inv s) : Inv (endDrain s) :=
  h.of_frame (endDrain_inv h.toBounds) (endDrain_pieces s) (by decide) (by decide)

/-! ### The Trigger Scheduler -/

theorem mem_insertBy {α : Type} (before : α → α → Bool) (a x : α) (l : List α) :
    x ∈ insertBy before a l ↔ x = a ∨ x ∈ l := by
  induction l with
  | nil => simp [insertBy]
  | cons y l ih =>
    unfold insertBy
    split
    · simp
    · simp [ih, or_left_comm]

theorem dropEntry_table (id : TriggerId) (s : State) :
    (dropEntry id s).trig.table = s.trig.table.filter fun e => e.id != id := by
  unfold dropEntry reportTrigger raiseIf
  dsimp only
  split <;> rfl

theorem dropEntry_clock (id : TriggerId) (s : State) : (dropEntry id s).clock = s.clock :=
  (reportTrigger_fires id _).clock

theorem makeRoom_table_subset (s : State) : ∀ e ∈ (makeRoom s).trig.table, e ∈ s.trig.table := by
  unfold makeRoom
  split
  · exact fun e he => he
  · split
    · rw [dropEntry_table]; exact fun e he => (List.mem_filter.mp he).1
    · exact fun e he => he

theorem makeRoom_clock (s : State) : (makeRoom s).clock = s.clock := by
  unfold makeRoom
  split
  · rfl
  · split
    · exact dropEntry_clock _ s
    · rfl

theorem storeTrigger_table_subset (e : TriggerEntry) (s : State) :
    ∀ x ∈ (storeTrigger e s).trig.table, x = e ∨ x ∈ s.trig.table := by
  unfold storeTrigger
  split
  · intro x hx
    exact ((mem_insertBy entryBefore e x _).mp hx).imp_right (makeRoom_table_subset s x)
  · exact fun x hx => .inr hx

theorem storeTrigger_clock (e : TriggerEntry) (s : State) : (storeTrigger e s).clock = s.clock := by
  unfold storeTrigger
  split
  · exact makeRoom_clock s
  · rfl

/-- An entry that is not behind the counter may be stored (R79, R81). -/
theorem storeTrigger_keeps {e : TriggerEntry} {s : State} (h : Inv s) (he : e.state = .armed → later (now s) e.fire = false) :
    Inv (storeTrigger e s) := by
  refine ⟨storeTrigger_inv e h.toBounds, fun x hx ha => ?_⟩
  rw [show now (storeTrigger e s) = now s by rw [now, now, storeTrigger_clock]]
  rcases storeTrigger_table_subset e s x hx with rfl | hx
  · exact he ha
  · exact h.punctual x hx ha

/-- The Trigger Scheduler's fields but its table, where the bounds stand, have no part in the order of fire times. -/
theorem setTrig_keeps {t : TriggerUnit} {s : State} (h : Inv s) (bounds : TriggersInv t)
    (armed : ∀ e ∈ t.table, e.state = .armed → e ∈ s.trig.table) : Inv (s.setTrig t) :=
  ⟨setTrig_inv h.toBounds bounds, h.punctual.subset armed⟩

/-- Creating a trigger: what the offers of its TRIGGER leave of clock and table. -/
theorem createTrigger_keeps {fire : RackTime} (channel : Nat) {s : State} (h : Inv s) (hf : later (now s) fire = false) :
    Inv (createTrigger fire channel s) := by
  obtain ⟨table, dropped, notStored, pulses⟩ := h.triggers
  exact offerFloods_keeps rfl _ (storeTrigger_keeps (setTrig_keeps h ⟨table, dropped, notStored, pulses⟩ fun _ he _ => he)
    fun _ => hf)

theorem cancelEntry_keeps (id : TriggerId) {s : State} (h : Inv s) : Inv (cancelEntry id s) :=
  h.fires (cancelEntry_inv id h.toBounds)
    (((setTriggerState_fires id (by decide) s).trans (reportTrigger_fires id _)).trans (raise_fires _ _))

theorem fireIfReached_keeps (id : TriggerId) {s : State} (h : Inv s) : Inv (fireIfReached id s) := by
  refine h.fires (fireIfReached_inv id h.toBounds) ?_
  unfold fireIfReached
  split
  · exact Fires.refl s
  · split
    · exact fireEntry_fires _ _ s
    · exact Fires.refl s

theorem setInput_keeps (i : InputId) (x : InputLine) {s : State} (h : Inv s) : Inv (setInput i x s) := by
  obtain ⟨table, dropped, notStored, pulses⟩ := h.triggers
  exact setTrig_keeps h ⟨table, dropped, notStored, pulses⟩ fun _ he _ => he

theorem takeEdge_keeps (i : InputId) (edge : RackTime) {s : State} (h : Inv s) : Inv (takeEdge i edge s) := by
  unfold takeEdge
  dsimp only
  split
  · exact h
  · split
    · exact h
    · split
      · exact raise_keeps _ (setInput_keeps _ _ h)
      · exact raise_keeps _ (setInput_keeps _ _ ⟨fireOverdue_inv (createTrigger_inv _ _ h.toBounds), fireOverdue_onTime _⟩)

/-- The reports to waiting sinks leave the Trigger Scheduler as it is. -/
theorem reportTriggers_trig (ids : List TriggerId) (s : State) :
    (ids.foldl (fun s id => reportTrigger id s) s).trig = s.trig := by
  induction ids generalizing s with
  | nil => rfl
  | cons id ids ih =>
    rw [List.foldl_cons, ih]
    unfold reportTrigger raiseIf
    dsimp only
    split <;> rfl

/-- After the report of a step no entry is ARMED (R86). -/
theorem stepReport_unarmed (s : State) : ∀ e ∈ (stepReport s).trig.table, e.state ≠ .armed := by
  intro e he
  simp only [stepReport, raise_trig, reportTriggers_trig, State.setTrig_trig, List.mem_map] at he
  obtain ⟨x, -, rfl⟩ := he
  split
  · simp
  · next hx => simpa [isArmed] using hx

theorem reportStep_unarmed (s : State) : ∀ e ∈ (reportStep s).trig.table, e.state ≠ .armed := stepReport_unarmed _

theorem reportStep_keeps {s : State} (h : Inv s) : Inv (reportStep s) :=
  ⟨reportStep_inv h.toBounds, fun e he ha => absurd ha (reportStep_unarmed s e he)⟩

/-! ### The clock -/

theorem passTicks_keeps (n : Nat) {s : State} (h : Inv s) : Inv (passTicks n s) := by
  by_cases hn : n = 0
  · simpa [passTicks, hn] using h
  · have passes := passTicks_passes n s
    refine ⟨passTicks_inv n h.toBounds, fun e he ha => ?_⟩
    rw [show now (passTicks n s) = ⟨s.clock.epoch, s.clock.tick + n⟩ by simp [now, passes.clock]]
    exact passes.onTime hn e he ha

theorem beginGap_keeps {s : State} (h : Inv s) : Inv (beginGap s) := by
  refine ⟨beginGap_inv h.toBounds, ?_⟩
  unfold beginGap
  split
  · exact h.punctual
  · exact (passTicks_keeps _ h).punctual

theorem runTo_keeps (t : Nat) {s : State} (h : Inv s) : Inv (runTo t s) := by
  have opened : Inv (if Figures.slotsTicks ≤ t then beginGap s else s) := by
    split
    · exact beginGap_keeps h
    · exact h
  have gone : ∀ u, Inv u → Inv (if s.clock.tick < t ∧ t < epochLength u.clock then passTicks (t - u.clock.tick) u else s) := by
    intro u hu; split
    · exact passTicks_keeps _ hu
    · exact h
  exact gone _ opened

/-- The entries that the retention test leaves stood before (R87). -/
theorem dropEntries_subset (ids : List TriggerId) : ∀ s : State,
    (ids.foldl (fun s id => dropEntry id s) s).clock = s.clock ∧
      ∀ e ∈ (ids.foldl (fun s id => dropEntry id s) s).trig.table, e ∈ s.trig.table := by
  induction ids with
  | nil => exact fun s => ⟨rfl, fun _ he => he⟩
  | cons id ids ih =>
    intro s
    obtain ⟨clock, table⟩ := ih (dropEntry id s)
    refine ⟨clock.trans (dropEntry_clock id s), fun e he => ?_⟩
    have kept := table e he
    rw [dropEntry_table] at kept
    exact (List.mem_filter.mp kept).1

theorem retain_subset (s : State) : (retain s).clock = s.clock ∧ ∀ e ∈ (retain s).trig.table, e ∈ s.trig.table :=
  dropEntries_subset _ _

theorem samplePorts_frame (x : BitVec 6) (s : State) : changesOnly [.ports] s (allPorts.foldl (samplePort x) s) :=
  changesOnly.foldl _ (fun s p => setPort_pieces p _ s) _ s

theorem beginEpoch_keeps {s : State} (h : Inv s) : Inv (beginEpoch s) := by
  refine ⟨beginEpoch_inv h.toBounds, ?_⟩
  have clock : (allPorts.foldl (samplePort s.pins.presence) s).clock = s.clock := samplePorts_frame _ s .clock (by decide)
  have trig : (allPorts.foldl (samplePort s.pins.presence) s).trig = s.trig := samplePorts_frame _ s .trig (by decide)
  unfold beginEpoch
  dsimp only
  generalize allPorts.foldl (samplePort s.pins.presence) s = u at clock trig ⊢
  generalize hw : { u with
    swap := ageSwap u.swap, dir := ageDirectory u.dir, time := { u.time with holdoverTimer := countDown u.time.holdoverTimer }
    streams := { u.streams with records := u.streams.records.map ageRecord } } = w
  obtain ⟨retained, subset⟩ := retain_subset w
  rw [show now (retain w) = now s by rw [now, now, retained, ← hw]; simp only [clock]]
  refine h.punctual.subset fun e he _ => ?_
  have kept := subset e he
  rw [← hw] at kept
  rwa [← trig]

theorem crossBoundary_keeps {s : State} (h : Bounds s) : Inv (crossBoundary s) := by
  have turned := turnCounter_inv (endEpoch_inv h)
  unfold crossBoundary
  dsimp only
  refine beginEpoch_keeps ?_
  split
  · exact ⟨reportStep_inv turned, fun e he ha => absurd ha (reportStep_unarmed _ e he)⟩
  · exact ⟨fireOverdue_inv turned, fireOverdue_onTime _⟩

end Sys2Proof.Machine
end

section
/-! SUPPORT. Every request of the frame controller keeps the invariant. -/

namespace Sys2Proof.Machine

open Sys2Proof

/-- A meaning that leads from a state within the invariant to one within it. -/
def Keeping (m : State → Host.Outcome State Fault Refusal) : Prop := ∀ s t, Inv s → m s = .next t → Inv t

theorem Keeping.event {f : State → State} (hf : ∀ s, Inv s → Inv (f s)) : Keeping fun s => event s f := by
  intro s t h e
  obtain rfl : (if s.pins.reset then s else f s) = t := Host.Outcome.next.inj e
  split
  · exact h
  · exact hf s h

theorem Keeping.request {f : State → State} (hf : ∀ s, Inv s → Inv (f s)) : Keeping fun s => request s f := by
  intro s t h e
  obtain rfl : (if s.pins.reset then { s with req := { s.req with spi := .allOnes } } else f s) = t :=
    Host.Outcome.next.inj e
  split
  · exact h.congr rfl rfl rfl rfl rfl rfl
  · exact hf s h

/-! ### Configuration, notices, captures, device reset -/

theorem answerItem_keeps (i : ConfigItem) {s : State} (h : Inv s) : Inv (answerItem i s) := by
  unfold answerItem; split <;> exact answer_keeps _ _ h

theorem clamp_le {lo hi : Nat} (h : lo ≤ hi) (n : Nat) : clamp lo hi n ≤ hi := by
  unfold clamp; omega

theorem takeFrameId_keeps (f : FrameId) {s : State} (h : Inv s) : Inv (takeFrameId f s) :=
  h.port (takeFrameId_inv f h.toBounds) (takeFrameId_pieces f s)

theorem execSetConfigFrameId_keeps (v : BitVec 16) : Keeping (execSetConfigFrameId v) := Keeping.request fun s h => by
  dsimp only
  split
  · exact answer_keeps _ _ h
  · refine answerItem_keeps _ ?_
    split
    · exact h
    · exact takeFrameId_keeps _ h

theorem execSetConfigTimingPriority_keeps (v : BitVec 16) : Keeping (execSetConfigTimingPriority v) :=
  Keeping.request fun s h => answerItem_keeps _ (by
    dsimp only
    split
    · exact h
    · have c := h.config
      exact evaluate_keeps (announceAdvancing_keeps (setConfig_keeps h
        ⟨clamp_le (by decide) _, c.holdover, c.drain, c.suspend, c.levels, c.mask⟩)))

theorem execSetConfigUseReference_keeps (v : BitVec 16) : Keeping (execSetConfigUseReference v) :=
  Keeping.request fun s h => answerItem_keeps _ (by
    have c := h.config
    have stored : Inv (s.setConfig { s.req.config with useReference := v != 0 }) :=
      setConfig_keeps h ⟨c.priority, c.holdover, c.drain, c.suspend, c.levels, c.mask⟩
    split
    · exact stored
    · exact referenceChanged_keeps stored)

theorem word_le (v : BitVec 16) : v.toNat ≤ 65535 := Nat.lt_succ_iff.mp v.isLt

theorem execSetConfigHoldoverLimit_keeps (v : BitVec 16) : Keeping (execSetConfigHoldoverLimit v) :=
  Keeping.request fun _ h => answerItem_keeps _ (setConfig_keeps h
    ⟨h.config.priority, word_le v, h.config.drain, h.config.suspend, h.config.levels, h.config.mask⟩)

theorem execSetConfigDrainDefault_keeps (v : BitVec 16) : Keeping (execSetConfigDrainDefault v) :=
  Keeping.request fun _ h => answerItem_keeps _ (setConfig_keeps h
    ⟨h.config.priority, h.config.holdover, word_le v, h.config.suspend, h.config.levels, h.config.mask⟩)

theorem execSetConfigSuspendDefault_keeps (v : BitVec 16) : Keeping (execSetConfigSuspendDefault v) :=
  Keeping.request fun _ h => answerItem_keeps _ (setConfig_keeps h
    ⟨h.config.priority, h.config.holdover, h.config.drain, ⟨le_max_left _ _, max_le (by decide) (word_le v)⟩,
      h.config.levels, h.config.mask⟩)

theorem execSetConfigNoticeLevel_keeps (index : Byte) (v : BitVec 16) : Keeping (execSetConfigNoticeLevel index v) :=
  Keeping.request fun s h => by
    dsimp only
    split
    · exact answer_keeps _ _ h
    · next k _ =>
      have c := h.config
      refine answerItem_keeps _ (setConfig_keeps h ⟨c.priority, c.holdover, c.drain, c.suspend, fun j => ?_, c.mask⟩)
      rw [PerNotice.get_set]
      split
      · exact clamp_le (by decide) _
      · exact c.levels j

theorem execSetConfigNoticeMask_keeps (v : BitVec 16) : Keeping (execSetConfigNoticeMask v) :=
  Keeping.request fun _ h => answerItem_keeps _ (setConfig_keeps h
    ⟨h.config.priority, h.config.holdover, h.config.drain, h.config.suspend, h.config.levels, clamp_le (by decide) _⟩)

theorem execSetConfigChannelMap_keeps (index : Byte) (v : BitVec 16) : Keeping (execSetConfigChannelMap index v) :=
  Keeping.request fun s h => by
    split
    · have c := h.config
      exact answerItem_keeps _ (setConfig_keeps h ⟨c.priority, c.holdover, c.drain, c.suspend, c.levels, c.mask⟩)
    · exact answer_keeps _ _ h

theorem execGetConfig_keeps (item : Option ConfigItem) : Keeping (execGetConfig item) := Keeping.request fun s h => by
  cases item with
  | none => exact answer_keeps _ _ h
  | some i => exact answerItem_keeps i h

theorem execReadNotices_keeps : Keeping execReadNotices :=
  Keeping.request fun _ h => answer_keeps _ _ (h.congr rfl rfl rfl rfl rfl rfl)

theorem execReadCapture_keeps (n : Option Byte) : Keeping (execReadCapture n) := Keeping.request fun s h => by
  split
  · exact answer_keeps _ _ h
  · split <;> exact answer_keeps _ _ h

theorem execClearCapture_keeps (n : Option Byte) : Keeping (execClearCapture n) := Keeping.request fun s h => by
  split
  · exact answer_keeps _ _ (h.congr rfl rfl rfl rfl rfl rfl)
  · split
    · exact answer_keeps _ _ (h.congr rfl rfl rfl rfl rfl rfl)
    · exact answer_keeps _ _ h

theorem reset_portInv : PortInv Port.reset :=
  ⟨by decide, by decide, by decide, List.Pairwise.nil, by simp [Port.reset], by decide, by simp [Port.reset]⟩

/-- Whatever waits and whatever the pins show, the values after device reset are within the invariant (R177). -/
theorem afterReset_inv (pending : List Instr) (pins : Pins) : Inv (State.afterReset pending pins) := by
  refine ⟨⟨fun p => ?_, ⟨by simp [State.afterReset], by simp [State.afterReset], by simp [State.afterReset],
    by simp [State.afterReset]⟩, ?_, ⟨List.Pairwise.nil, by simp [State.afterReset]⟩,
    ⟨List.Pairwise.nil, by simp [State.afterReset], by simp [State.afterReset]⟩⟩, by simp [State.afterReset, onTime]⟩
  · rw [State.port, State.afterReset, PerPort.get_all]
    exact reset_portInv
  · exact ⟨le_refl 15, show (9766 : Nat) ≤ 65535 by decide, show (2048 : Nat) ≤ 65535 by decide,
      show (1 : Nat) ≤ 4096 ∧ (4096 : Nat) ≤ 65535 by decide, fun k => by simp [State.afterReset, Config.reset],
      Nat.zero_le 7⟩

theorem execResetDevice_keeps : Keeping execResetDevice :=
  Keeping.request fun _ _ => answer_keeps _ _ (afterReset_inv _ _)

theorem execDeviceReset_keeps (straps : BitVec 5) : Keeping (execDeviceReset straps) := by
  intro s t _ e
  obtain rfl : endReset straps s = t := Host.Outcome.next.inj e
  exact afterReset_inv _ _

theorem execUnknownRequestKind_keeps (kind : Byte) (fields : List Byte) : Keeping (execUnknownRequestKind kind fields) :=
  Keeping.request fun s h => by
    split
    · exact answer_keeps _ _ h
    · exact h

/-! ### Ports, departure, directory, rack time -/

theorem execGetPort_keeps (b : Byte) : Keeping (execGetPort b) := Keeping.request fun s h => by
  split <;> exact answer_keeps _ _ h

theorem execResetPort_keeps (b : Byte) : Keeping (execResetPort b) := Keeping.request fun s h => by
  dsimp only
  split
  · exact answer_keeps _ _ h
  · split
    · exact answer_keeps _ _ h
    · exact answer_keeps _ _ (takeCause_keeps _ _ h)

theorem execDepart_keeps (count : Option (BitVec 16)) : Keeping (execDepart count) := Keeping.request fun s h => by
  dsimp only
  split
  · exact answer_keeps _ _ h
  · refine answer_keeps _ _ ?_
    have left : ∀ x, Inv (evaluate (announceAdvancing (raise .port { s with swap := x }))) := fun x =>
      evaluate_keeps (announceAdvancing_keeps (raise_keeps _ (h.congr rfl rfl rfl rfl rfl rfl)))
    have ended : ∀ (b : Prop) [Decidable b] (u : State), Inv u → Inv (if b then endDrain u else u) := by
      intro b _ u hu; split
      · exact endDrain_keeps hu
      · exact hu
    exact ended _ _ (left _)

theorem execCancelDepart_keeps : Keeping execCancelDepart := Keeping.request fun s h => by
  dsimp only
  split
  · exact answer_keeps _ _ h
  · exact answer_keeps _ _ (evaluate_keeps (announceAdvancing_keeps (Inv.foldl _ (fun _ p hu => changePort_keeps p _ _ hu) _
      (raise_keeps _ (h.congr rfl rfl rfl rfl rfl rfl)))))

theorem execGetFrame_keeps (b : Byte) : Keeping (execGetFrame b) := Keeping.request fun s h => by
  split
  · exact answer_keeps _ _ h
  · split <;> exact answer_keeps _ _ h

theorem clearCounts_keeps {s : State} (h : Inv s) : Inv (clearCounts s) := h.congr rfl rfl rfl rfl rfl rfl

theorem restartTimebase_keeps {s : State} (h : Inv s) : Inv (restartTimebase s) :=
  handResult_keeps _ (reportStep_keeps (changeTiming_keeps _ (clearCounts_keeps (h.congr rfl rfl rfl rfl rfl rfl))))

theorem execRestartTiming_keeps : Keeping execRestartTiming :=
  Keeping.request fun _ h => answer_keeps _ _ (restartTimebase_keeps h)

/-! ### Streams -/

theorem openRecord_keeps {i : Nat} (lane : LaneId) (terminal : FrameId) (rate size budget limit : Nat) (again : Bool)
    {s : State} (h : Inv s) (free : freeIndex s = some i) :
    Inv (openRecord i lane terminal rate size budget limit again s) := by
  obtain ⟨range, fresh⟩ := freeIndex_spec free
  have put : ∀ (r : StreamRecord) (n : Nat) (a : Epoch), r.index = i →
      Inv { s with streams := { records := insertRecord r s.streams.records, serial := n, activations := a } } := by
    rintro r n a rfl
    exact ⟨⟨h.ports, h.triggers, h.config, insertRecord_inv h.records range fresh, h.sinks⟩, h.punctual⟩
  have sent : ∀ (b : Prop) [Decidable b] (n : Nat) (u : State), Inv u →
      Inv (if b then offerSetup i (assignSlots i n u) else u) := by
    intro b _ n u hu; split
    · exact offerSetup_keeps i (assignSlots_keeps i n hu)
    · exact hu
  exact sent _ _ _ (put _ _ _ rfl)

theorem execOpenStream_keeps (lane terminal : Byte) (rate : BitVec 32) (size budget : Byte) (limit : Option (BitVec 16))
    (reroute : Byte) : Keeping (execOpenStream lane terminal rate size budget limit reroute) := Keeping.request fun s h => by
  dsimp only
  split
  · exact answer_keeps _ _ h
  · split
    · exact refuseWith_keeps _ h
    · exact refuseWith_keeps _ h
    · next free =>
      split
      · exact answer_keeps _ _ (openRecord_keeps _ _ _ _ _ _ _ h free)
      · exact openRecord_keeps _ _ _ _ _ _ _ h free

theorem execLookupStream_keeps (id : StreamId) : Keeping (execLookupStream id) := Keeping.request fun s h => by
  split
  · exact answer_keeps _ _ h
  · exact answer_keeps _ _ (editRecord_keeps _ h fun _ => rfl)

theorem execNextStream_keeps (start : Byte) : Keeping (execNextStream start) := Keeping.request fun s h => by
  split
  · exact answer_keeps _ _ h
  · split <;> exact answer_keeps _ _ h

theorem execCloseStream_keeps (id : StreamId) : Keeping (execCloseStream id) := Keeping.request fun s h => by
  dsimp only
  split
  · exact answer_keeps _ _ h
  · split
    · exact refuseWith_keeps _ h
    · refine answer_keeps _ _ (removeRecord_keeps _ ?_)
      split
      · exact h
      · exact sendSide_keeps _ _ h

theorem clearTable_keeps {s : State} (h : Inv s) : Inv (clearTable s) := by
  refine raiseIf_keeps _ _ (raise_keeps _ ?_)
  have unslotted := mapPorts_inv (fun x => { x with slotMap := [] }) (fun x hx => hx.withMap MapInv.nil) h.toBounds
  exact ⟨⟨unslotted.ports, h.triggers, h.config, ⟨List.Pairwise.nil, by simp⟩, ⟨List.Pairwise.nil, by simp, by simp⟩⟩,
    h.punctual⟩

theorem execClearStreams_keeps : Keeping execClearStreams := Keeping.request fun _ h =>
  answer_keeps _ _ (clearTable_keeps (Inv.foldl _ (fun _ r hu => clearMessages_keeps r hu) _ h))

theorem beginRetune_keeps (r : StreamRecord) (d : Staged) {s : State} (h : Inv s) : Inv (beginRetune r d s) := by
  unfold beginRetune
  split
  · exact takeSwitchEpoch_keeps _ _ (stageRetune_keeps _ _ _ h)
  · have staged := stageRetune_keeps r.index d (some Figures.originRetuneEpochs) h
    dsimp only
    split
    · exact joinProtocol_keeps _ _ staged
    · exact refuseRetune_keeps _ _ staged
    · exact staged

theorem execRetuneStream_keeps (id : StreamId) (rate : BitVec 32) : Keeping (execRetuneStream id rate) :=
  Keeping.request fun s h => by
    dsimp only
    split
    · exact answer_keeps _ _ h
    · split
      · exact answer_keeps _ _ h
      · split
        · exact refuseWith_keeps _ h
        · split
          · exact answer_keeps _ _ h
          · split
            · exact refuseWith_keeps _ h
            · have begun := fun r d => beginRetune_keeps r d h
              split
              · exact answer_keeps _ _ (begun _ _)
              · exact begun _ _

/-! ### Sinks -/

theorem addSink_keeps {x : Sink} {s : State} (h : Inv s) (range : x.index < 64) (fresh : ∀ y ∈ s.sinks, y.index ≠ x.index)
    (room : sinkRoom x) : Inv (addSink x s) :=
  raiseIf_keeps _ _ (editRecord_keeps _
    (h.stream (sinks_inv h.toBounds (insertSink_inv h.sinks range fresh room)) (sinks_effects _ s)) fun _ => rfl)

theorem execAttachSink_keeps (id : StreamId) (lane mode : Byte) (block : BitVec 16) (threshold : Byte)
    (start : Option (BitVec 16)) : Keeping (execAttachSink id lane mode block threshold start) := Keeping.request fun s h => by
  dsimp only
  split
  · exact answer_keeps _ _ h
  · split
    · exact answer_keeps _ _ h
    · split
      · exact answer_keeps _ _ h
      · split
        · exact answer_keeps _ _ h
        · split
          · exact answer_keeps _ _ h
          · split
            · exact answer_keeps _ _ h
            · split
              · exact answer_keeps _ _ h
              · next free =>
                obtain ⟨range, fresh⟩ := freeSink_spec free
                split
                · exact refuseWith_keeps _ h
                · exact answer_keeps _ _ (addSink_keeps h range fresh (Nat.zero_le _))

theorem execDetachSink_keeps (b : Byte) : Keeping (execDetachSink b) := Keeping.request fun s h => by
  split
  · exact answer_keeps _ _ h
  · split
    · exact answer_keeps _ _ h
    · exact answer_keeps _ _ (h.stream (dropSink_inv _ h.toBounds) (dropSink_effects _ s))

theorem armed_room (start : SinkStart) (x : Sink) (h : sinkRoom x) : sinkRoom (armed start x) :=
  le_trans (by simp [armed]) h

theorem execArmSink_keeps (b : Byte) (start : Option (BitVec 16)) : Keeping (execArmSink b start) :=
  Keeping.request fun s h => by
    dsimp only
    split
    · exact answer_keeps _ _ h
    · split
      · exact answer_keeps _ _ h
      · split
        · exact answer_keeps _ _ h
        · exact answer_keeps _ _ (raiseIf_keeps _ _ (changeSink_keeps _ h (fun _ => rfl) (armed_room _)))

theorem execGetSink_keeps (k : Option Byte) : Keeping (execGetSink k) := Keeping.request fun s h => by
  split
  · exact answer_keeps _ _ h
  · split
    · exact answer_keeps _ _ h
    · split <;> exact answer_keeps _ _ h

/-! ### Triggers -/

theorem ahead_iff {w : Nat} (a b : BitVec w) :
    ahead a b = true ↔ 1 ≤ (a - b).toNat ∧ (a - b).toNat < 2 ^ (w - 1) := by
  have apart : a - b ≠ 0 ↔ 1 ≤ (a - b).toNat := by
    rw [Nat.one_le_iff_ne_zero, ne_eq, ne_eq, ← BitVec.toNat_inj]; rfl
  simp only [ahead, Bool.and_eq_true, bne_iff_ne, decide_eq_true_eq, apart]

/-- Of two values only one is ahead of the other. -/
theorem ahead_asymm {w : Nat} {a b : BitVec w} (h : ahead a b = true) : ahead b a = false := by
  obtain ⟨apart, near⟩ := (ahead_iff a b).mp h
  have flip : (b - a).toNat = 2 ^ w - (a - b).toNat := by
    rw [show b - a = -(a - b) from (neg_sub a b).symm, BitVec.toNat_neg]
    exact Nat.mod_eq_of_lt (by have := (a - b).isLt; omega)
  have span : 2 ^ (w - 1) ≤ 2 ^ w - (a - b).toNat := by
    cases w with
    | zero => simp at near; omega
    | succ n => rw [Nat.succ_sub_one] at near ⊢; rw [pow_succ]; omega
  rw [← Bool.not_eq_true, ahead_iff, flip]
  omega

/-- A rack time in an epoch ahead is not behind. -/
theorem later_of_ahead {a b : RackTime} (h : ahead b.epoch a.epoch = true) : later a b = false := by
  have differ : a.epoch ≠ b.epoch := by
    intro e; simp [ahead, e] at h
  simp [later, ahead_asymm h, differ]

theorem fireEpoch_ahead {s : State} {w : FireWhen} (h : leadAdmits s w = true) :
    ahead (fireEpoch s w) s.clock.epoch = true := by
  rw [ahead_iff]
  cases w with
  | epoch e =>
    simp only [leadAdmits, decide_eq_true_eq] at h
    rw [fireEpoch, show 2 ^ (48 - 1) = 140737488355328 from rfl]
    omega
  | lead n =>
    simp only [leadAdmits, decide_eq_true_eq] at h
    have lead : (s.clock.epoch + n.setWidth 48 - s.clock.epoch).toNat = n.toNat := by
      rw [add_comm, BitVec.add_sub_cancel, BitVec.toNat_setWidth]
      exact Nat.mod_eq_of_lt (by have := n.isLt; omega)
    rw [fireEpoch, lead, show 2 ^ (48 - 1) = 140737488355328 from rfl]
    have := n.isLt
    omega

theorem execScheduleTrigger_keeps (channel : Byte) (tick : BitVec 16) (w : FireWhen) :
    Keeping (execScheduleTrigger channel tick w) := Keeping.request fun s h => by
  split
  · exact answer_keeps _ _ h
  · split
    · exact refuseWith_keeps _ h
    · split
      · exact refuseWith_keeps _ h
      · split
        · exact refuseWith_keeps _ h
        · next admits =>
          split
          · exact answer_keeps _ _ h
          · exact answer_keeps _ _ (createTrigger_keeps _ h (later_of_ahead (fireEpoch_ahead (by simpa using admits))))

theorem execCancelTrigger_keeps (id : BitVec 16) : Keeping (execCancelTrigger id) := Keeping.request fun s h => by
  dsimp only
  split
  · exact answer_keeps _ _ h
  · split
    · exact answer_keeps _ _ h
    · exact answer_keeps _ _ (offerFloods_keeps rfl _ (cancelEntry_keeps _ h))

theorem execGetTrigger_keeps (x : TriggerSelector) : Keeping (execGetTrigger x) := Keeping.request fun s h => by
  cases x with
  | summary => exact answer_keeps _ _ h
  | position n =>
    dsimp only
    split
    · exact answer_keeps _ _ h
    · split <;> exact answer_keeps _ _ h
  | id bits =>
    dsimp only
    split <;> exact answer_keeps _ _ h

theorem execArmInput_keeps (input : Byte) (lead : BitVec 16) (channel mode : Byte) :
    Keeping (execArmInput input lead channel mode) := Keeping.request fun s h => by
  dsimp only
  split
  · split
    · exact answer_keeps _ _ h
    · exact answer_keeps _ _ (setInput_keeps _ _ h)
  · exact answer_keeps _ _ h

theorem execDisarmInput_keeps (input : Byte) : Keeping (execDisarmInput input) := Keeping.request fun s h => by
  dsimp only
  split
  · exact answer_keeps _ _ h
  · exact answer_keeps _ _ (setInput_keeps _ _ h)

end Sys2Proof.Machine
end

section
/-! SUPPORT. Every command of the clock, the cables, the path protocol and the lanes, and every event of the part's own, keeps the
invariant; and so does a step. -/

namespace Sys2Proof.Machine

open Sys2Proof

/-! ### The clock and the pins -/

theorem execLocalEpochStart_keeps (presence : BitVec 6) (refin : Bool) : Keeping (execLocalEpochStart presence refin) :=
  Keeping.event fun s h => by
    have shown : Inv { s with pins := { s.pins with presence := presence, refin := refin } } :=
      h.congr rfl rfl rfl rfl rfl rfl
    exact crossBoundary_keeps (beginGap_keeps shown).toBounds

theorem execGapStart_keeps : Keeping execGapStart := Keeping.event fun _ h => beginGap_keeps h

theorem execTimeStep_keeps : Keeping execTimeStep := Keeping.event fun s h => by
  split
  · exact crossBoundary_keeps h.toBounds
  · exact h

theorem execResetPinAsserted_keeps : Keeping execResetPinAsserted := by
  intro s t h e
  have quiet := mapPorts_inv (fun x => { x with wire := .nothing }) (fun x hx => hx.congr rfl rfl rfl rfl rfl) h.toBounds
  obtain rfl := Host.Outcome.next.inj e
  exact ⟨⟨quiet.ports, h.triggers, h.config, h.records, h.sinks⟩, h.punctual⟩

/-! ### Sending -/

theorem beginSlot_keeps (p : PortId) (n : Nat) (w : Wire) {s : State} (h : Inv s) : Inv (beginSlot p n w s) :=
  setPort_keeps_link h rfl rfl rfl rfl rfl

theorem execMarkerSend_keeps (p : PortId) : Keeping (execMarkerSend p) := Keeping.event fun s h => by
  split
  · exact beginSlot_keeps _ _ _ h
  · exact h

/-- Messages that leave a queue leave it within its bounds. -/
theorem PortInv.dropQueues {x : Port} (h : PortInv x) (a b : Nat) :
    PortInv { x with protocolQueue := x.protocolQueue.drop a, floodQueue := x.floodQueue.drop b } := by
  refine ⟨?_, ?_, ?_, h.slots, h.slotRange, h.misses, h.loss⟩
  · exact ((List.drop_sublist a _).length_le).trans h.protocol
  · exact ((List.drop_sublist b _).length_le).trans h.flood
  · exact h.announces.sublist ((List.drop_sublist b _).filterMap _)

theorem execManagementCellBuild_keeps (p : PortId) : Keeping (execManagementCellBuild p) := Keeping.event fun s h => by
  split
  · have run := runTo_keeps Figures.slotTicks h
    dsimp only
    split
    · exact beginSlot_keeps _ _ _ (setPort_keeps run ((run.ports p).dropQueues _ _))
    · exact beginSlot_keeps _ _ _ run
  · exact h

theorem sendRecord_keeps (p : PortId) (n : Nat) (r : StreamRecord) {s : State} (h : Inv s) : Inv (sendRecord p n r s) := by
  unfold sendRecord
  split
  · exact beginSlot_keeps _ _ _ (editRecord_keeps _ h fun _ => rfl)
  · exact beginSlot_keeps _ _ _ h

theorem execDataSlot_keeps (p : PortId) (n : Nat) : Keeping (execDataSlot p n) := Keeping.event fun s h => by
  split
  · have run := runTo_keeps (Figures.slotTicks * n) h
    dsimp only
    split
    · split
      · exact sendRecord_keeps _ _ _ run
      · exact beginSlot_keeps _ _ _ run
    · exact beginSlot_keeps _ _ _ run
  · exact h

/-! ### Receiving -/

theorem execSymbolLockGained_keeps (p : PortId) : Keeping (execSymbolLockGained p) := Keeping.event fun s h => by
  dsimp only
  split
  · exact h
  · exact h
  all_goals exact setPort_keeps_link h rfl rfl rfl rfl rfl

theorem execSymbolLockLost_keeps (p : PortId) : Keeping (execSymbolLockLost p) := Keeping.event fun s h => by
  split
  · exact setPort_keeps h (giveUpLock_inv (h.ports p))
  · exact h

theorem execSymbolBurst_keeps (p : PortId) (n : Nat) : Keeping (execSymbolBurst p n) :=
  Keeping.event fun s h => h.port (countErrors_inv n p h.toBounds) (countErrors_pieces n p s)

theorem execMarkerReceived_keeps (p : PortId) (cs : List Symbol) : Keeping (execMarkerReceived p cs) :=
  Keeping.event fun s h => h.port (recognizeAll_inv p cs h.toBounds) (recognizeAll_pieces p cs s)

theorem unpack_keeps (p : PortId) (bs : List Byte) {s : State} (h : Inv s) : Inv (unpack p bs s) := by
  unfold unpack
  split
  · exact capturePort_keeps _ _ _ _ _ h
  · dsimp only
    split
    · exact captureProtocol_keeps _ _ _ h
    · refine Inv.foldl _ (fun u e hu => ?_) _ h
      cases e with
      | message m => exact hu.congr rfl rfl rfl rfl rfl rfl
      | malformed k i t => exact captureProtocol_keeps _ _ _ hu

theorem takeTransit_keeps (r : StreamRecord) (p : PortId) (c : QueuedCell) {s : State} (h : Inv s) :
    Inv (takeTransit r p c s) := by
  unfold takeTransit
  split
  · exact editRecord_keeps _ h fun _ => rfl
  · exact capturePort_keeps _ _ _ _ _ h

theorem arrive_keeps (c : CellHeader) (b : Bool) (payload : List Byte) (r : StreamRecord) {s : State} (h : Inv s) :
    Inv (arrive c b payload r s) := by
  unfold arrive
  split
  · dsimp only
    split
    · exact takeTransit_keeps _ _ _ (copyToSinks_keeps _ _ (editRecord_keeps _ h fun _ => rfl))
    · exact copyToSinks_keeps _ _ (editRecord_keeps _ h fun _ => rfl)
  · exact h

theorem classify_keeps (p : PortId) (bs : List Byte) {s : State} (h : Inv s) : Inv (classify p bs s) := by
  unfold classify
  dsimp only
  split
  · exact capturePort_keeps _ _ _ _ _ h
  · split
    · exact capturePort_keeps _ _ _ _ _ h
    · split
      · exact capturePort_keeps _ _ _ _ _ h
      · split
        · exact arrive_keeps _ _ _ _ (capturePort_keeps _ _ _ _ _ h)
        · exact arrive_keeps _ _ _ _ h

theorem cellStarts_keeps (p : PortId) (bs : List Byte) {s : State} (h : Inv s) : Inv (cellStarts p bs s) := by
  unfold cellStarts
  split
  · exact h.port (recognize_inv _ _ _ h.toBounds) (recognize_pieces _ _ _ s)
  · exact h

theorem execCellReceived_keeps (p : PortId) (bs : List Byte) : Keeping (execCellReceived p bs) := Keeping.event fun s h => by
  have begun := cellStarts_keeps p bs h
  dsimp only
  split
  · exact h
  · split
    · exact capturePort_keeps _ _ _ _ _ begun
    · split
      · split
        · exact unpack_keeps _ _ begun
        · exact begun
      · split
        · exact classify_keeps _ _ begun
        · exact begun
      all_goals exact begun

/-! ### The path protocol -/

theorem breakOld_keeps (r : StreamRecord) {s : State} (h : Inv s) : Inv (breakOld r s) := by
  have freed : ∀ (p : PortId) (u : State), Inv u → Inv (u.setSlotMap p (keepSlots 0 r.index (u.port p).slotMap)) :=
    fun p u hu => hu.stream (keepSlots_inv p 0 r.index hu.toBounds) (setSlotMap_effects _ _ u)
  unfold breakOld
  split
  · exact h
  · dsimp only
    split
    · exact freed _ _ (sendSide_keeps _ _ h)
    · exact freed _ _ h

theorem putRecord_keeps {r : StreamRecord} {s : State} (h : Inv s) (range : r.index < 128) : Inv (putRecord r s) :=
  h.stream (setRecords_inv h.toBounds (insertRecord_inv (h.records.sublist List.filter_sublist) range fun x hx => by
    simpa using (List.mem_filter.mp hx).2)) (putRecord_effects r s)

theorem carrySink_keeps (hop cells budget : Nat) (k : Nat) {s : State} (h : Inv s) : Inv (carrySink hop cells budget s k) := by
  unfold carrySink
  split
  · exact h
  · dsimp only
    split
    · exact changeSink_keeps _ h (fun x => withReservation_index _ _) fun x _ => withReservation_room _ _
    · exact detachSink_keeps _ h

/-- The index of the record that holds a stream id, and every free one, is in the range of R96. -/
theorem recordOf_range {s : State} (h : Inv s) {id : StreamId} {r : StreamRecord} (hr : recordOf s id = some r) :
    r.index < 128 := h.records.range r (List.mem_of_find?_eq_some hr)

theorem placeRecord_keeps (q : PortId) (m : SetupMsg) (egress : Option PortId) {s : State} (h : Inv s) :
    Inv (placeRecord q m egress s) := by
  unfold placeRecord
  dsimp only
  split
  · exact h
  · next i place =>
    have range : i < 128 := by
      cases old : recordOf s m.id with
      | none => rw [old] at place; exact (freeIndex_spec place).1
      | some r => rw [old] at place; obtain rfl : r.index = i := by simpa using place
                  exact recordOf_range h old
    have broken : Inv (match recordOf s m.id with | some x => breakOld x s | none => s) := by
      split
      · exact breakOld_keeps _ h
      · exact h
    have carried := fun (r : StreamRecord) (hr : r.index < 128) =>
      Inv.foldl (carrySink r.hop r.cells r.budget) (fun _ k hu => carrySink_keeps _ _ _ k hu) r.sinks
        (putRecord_keeps broken hr)
    refine raise_keeps _ ?_
    split
    · exact assignSlots_keeps _ _ (carried _ range)
    · exact (carried _ range).congr rfl rfl rfl rfl rfl rfl

theorem execSetup_keeps (q : PortId) (m : SetupMsg) : Keeping (execSetup q m) := Keeping.event fun s h => by
  have taken := takeMessage_keeps q (.setup m) h
  unfold takeSetup
  split
  · exact protocolError_keeps _ _ _ taken
  · split
    · exact send_keeps _ _ taken
    · exact send_keeps _ _ (placeRecord_keeps _ _ _ taken)
    · exact placeRecord_keeps _ _ _ (joinProtocol_keeps _ _ taken)

theorem execConfirm_keeps (q : PortId) (id : StreamId) (gen : Gen) (n : Nat) : Keeping (execConfirm q id gen n) :=
  Keeping.event fun s h => by
    have taken := takeMessage_keeps q (.confirm id gen n) h
    dsimp only
    split
    · exact send_keeps _ _ taken
    · exact send_keeps _ _ taken
    · exact protocolError_keeps _ _ _ taken
    · unfold confirmRecord
      split
      · have active := fun i n => activate_keeps i n taken
        dsimp only
        split
        · exact sendSide_keeps _ _ (active _ _)
        · exact active _ _
      · exact taken
      all_goals exact protocolError_keeps _ _ _ taken

/-- A stream message other than SETUP and CONFIRM keeps the invariant where its handling does (R114). -/
theorem whenMatched_keeps (p : PortId) (m : Msg) (id : StreamId) (gen : Gen) (d : Direction)
    {handle : StreamRecord → State → State} (hh : ∀ r s, Inv s → Inv (handle r s)) {s : State} (h : Inv s) :
    Inv (whenMatched p m id gen d handle s) := by
  unfold whenMatched
  split
  · exact h
  · exact h
  · exact protocolError_keeps _ _ _ h
  · exact hh _ _ h

theorem execRefuse_keeps (q : PortId) (id : StreamId) (gen : Gen) (c : ReasonCode) (f : FrameId) :
    Keeping (execRefuse q id gen c f) :=
  Keeping.event fun _ h => whenMatched_keeps _ _ _ _ _ (fun r s h => by
    unfold refuseRecord
    split
    · split
      · exact refuseOrigin_keeps _ _ _ h
      · exact removeRecord_keeps _ (sendSide_keeps _ _ h)
    all_goals exact protocolError_keeps _ _ _ h) (takeMessage_keeps _ _ h)

theorem execRelease_keeps (q : PortId) (id : StreamId) (gen : Gen) : Keeping (execRelease q id gen) :=
  Keeping.event fun _ h => whenMatched_keeps _ _ _ _ _
    (fun _ _ h => removeRecord_keeps _ (sendSide_keeps _ _ h)) (takeMessage_keeps _ _ h)

theorem execBreak_keeps (q : PortId) (id : StreamId) (gen : Gen) (c : ReasonCode) (d : Direction) :
    Keeping (execBreak q id gen c d) :=
  Keeping.event fun _ h => whenMatched_keeps _ _ _ _ _ (fun r s h => by
    cases d <;> exact sendSide_keeps _ _ (suspend_keeps _ _ _ h)) (takeMessage_keeps _ _ h)

theorem execRetune_keeps (q : PortId) (id : StreamId) (gen : Gen) (rate : BitVec 32) (cells : Byte) :
    Keeping (execRetune q id gen rate cells) :=
  Keeping.event fun _ h => whenMatched_keeps _ _ _ _ _ (fun r s h => by
    unfold retuneRecord
    split
    · exact sendSide_keeps _ _ h
    · split
      · exact protocolError_keeps _ _ _ h
      · split
        · exact sendSide_keeps _ _ h
        · have joined : ∀ m, Inv (match r.egress with | some e => joinProtocol e m s | none => s) := by
            intro m; split
            · exact joinProtocol_keeps _ _ h
            · exact h
          have staged := fun m d t => stageRetune_keeps r.index d t (joined m)
          dsimp only
          split
          · exact sendSide_keeps _ _ (staged _ _ _)
          · exact staged _ _ _) (takeMessage_keeps _ _ h)

theorem execRetuneOk_keeps (q : PortId) (id : StreamId) (gen : Gen) : Keeping (execRetuneOk q id gen) :=
  Keeping.event fun _ h => whenMatched_keeps _ _ _ _ _ (fun r s h => by
    unfold retuneOkRecord
    split
    · exact protocolError_keeps _ _ _ h
    · split
      · exact sendSide_keeps _ _ (takeSwitchEpoch_keeps _ _ h)
      · exact sendSide_keeps _ _ h) (takeMessage_keeps _ _ h)

theorem execRetuneRefuse_keeps (q : PortId) (id : StreamId) (gen : Gen) (c : ReasonCode) :
    Keeping (execRetuneRefuse q id gen c) :=
  Keeping.event fun _ h => whenMatched_keeps _ _ _ _ _ (fun r s h => by
    unfold retuneRefuseRecord
    split
    · exact h
    · split
      · exact protocolError_keeps _ _ _ h
      · split
        · exact refuseRetune_keeps _ _ h
        · exact sendSide_keeps _ _ (changeRecord_keeps _ (revertRetune_keeps _ h) fun _ => rfl)) (takeMessage_keeps _ _ h)

theorem execRetuneCommit_keeps (q : PortId) (id : StreamId) (gen : Gen) (e : Epoch) :
    Keeping (execRetuneCommit q id gen e) :=
  Keeping.event fun _ h => whenMatched_keeps _ _ _ _ _ (fun r s h => by
    unfold commitRecord
    split
    · exact protocolError_keeps _ _ _ h
    · have sent := fun m => sendSide_keeps (downstream r) m (takeSwitchEpoch_keeps r.index e h)
      dsimp only
      split
      · exact sent _
      · exact captureProtocol_keeps _ _ _ (switchRecord_keeps _ (sent _))) (takeMessage_keeps _ _ h)

theorem execRetuneAbort_keeps (q : PortId) (id : StreamId) (gen : Gen) : Keeping (execRetuneAbort q id gen) :=
  Keeping.event fun _ h => whenMatched_keeps _ _ _ _ _ (fun r s h => by
    unfold abortRecord
    split
    · exact h
    · split
      · exact sendSide_keeps _ _ (revertRetune_keeps _ h)
      · exact protocolError_keeps _ _ _ h) (takeMessage_keeps _ _ h)

/-! ### Floods -/

theorem markAnnounce_keeps (p : PortId) (a : AnnounceMsg) {s : State} (h : Inv s) : Inv (markAnnounce p a s) := by
  unfold markAnnounce
  split
  · exact admitPort_keeps _ (setPort_keeps_link h rfl rfl rfl rfl rfl)
  · exact h

theorem forwardAnnounce_keeps (p : PortId) (a : AnnounceMsg) {s : State} (h : Inv s) : Inv (forwardAnnounce p a s) := by
  unfold forwardAnnounce
  split
  · exact h
  · exact offerAnnounces_keeps _ _ h

theorem acceptAnnounce_keeps (p : PortId) (a : AnnounceMsg) {s : State} (h : Inv s) : Inv (acceptAnnounce p a s) := by
  have entered : ∀ (d : Directory) (b : Bool), Inv (raiseIf b .directory { s with dir := d }) := fun _ _ =>
    raiseIf_keeps _ _ (h.congr rfl rfl rfl rfl rfl rfl)
  unfold acceptAnnounce
  dsimp only
  refine forwardAnnounce_keeps _ _ ?_
  split
  · exact evaluate_keeps (entered _ _)
  · exact entered _ _

theorem execAnnounce_keeps (p : PortId) (a : AnnounceMsg) : Keeping (execAnnounce p a) := Keeping.event fun s h => by
  have marked := markAnnounce_keeps p a (takeMessage_keeps p (.announce a) h)
  dsimp only
  split
  · exact acceptAnnounce_keeps _ _ marked
  · exact marked

theorem takeTrigger_keeps (p : PortId) (m : TriggerMsg) {s : State} (h : Inv s) : Inv (takeTrigger p m s) := by
  have punctual : ∀ e : TriggerEntry, e.fire = m.fire →
      e.state = (if later (now s) m.fire then .missed .late else .armed) → e.state = .armed → later (now s) e.fire = false := by
    intro e hf hs ha
    rw [hf]
    by_contra late
    rw [Bool.not_eq_false] at late
    rw [hs, if_pos late] at ha
    cases ha
  have sent := offerFloods_keeps (m := .trigger m) rfl
    (otherAdmitted p (raiseIf (canStore s) .trigger (storeTrigger
      ⟨m.id, m.fire, m.channel, if later (now s) m.fire then .missed .late else .armed⟩ s)))
    (raiseIf_keeps (canStore s) .trigger (storeTrigger_keeps h (punctual
      ⟨m.id, m.fire, m.channel, if later (now s) m.fire then .missed .late else .armed⟩ rfl rfl)))
  unfold takeTrigger
  dsimp only
  split
  · next late => rw [late] at sent; exact sent
  · next late =>
    rw [Bool.not_eq_true] at late
    rw [late] at sent
    exact fireIfReached_keeps _ sent

theorem execTrigger_keeps (p : PortId) (m : TriggerMsg) : Keeping (execTrigger p m) := Keeping.event fun s h => by
  have taken := takeMessage_keeps p (.trigger m) h
  dsimp only
  split
  · exact taken
  · exact takeTrigger_keeps _ _ taken

theorem execCancel_keeps (p : PortId) (id : TriggerId) : Keeping (execCancel p id) := Keeping.event fun s h => by
  have taken := takeMessage_keeps p (.cancel id) h
  dsimp only
  split
  · exact taken
  · split
    · exact offerFloods_keeps rfl _ (cancelEntry_keeps _ taken)
    · exact taken

/-! ### The part's own events on ports and in the directory -/

theorem execPresenceQualified_keeps (p : PortId) : Keeping (execPresenceQualified p) := Keeping.event fun s h => by
  split
  · have flagged : Inv (s.setPort p { s.port p with presence := ⟨true, 0, 0⟩ }) :=
      setPort_keeps_link h rfl rfl rfl rfl rfl
    dsimp only
    split
    · exact setPort_keeps_link (changePort_keeps _ _ _ flagged) rfl rfl rfl rfl rfl
    · exact flagged
  · exact h

theorem execPresenceLost_keeps (p : PortId) : Keeping (execPresenceLost p) := Keeping.event fun s h => by
  split
  · exact takeCause_keeps _ _ (setPort_keeps_link h rfl rfl rfl rfl rfl)
  · exact h

theorem execTrainingPause_keeps (p : PortId) : Keeping (execTrainingPause p) := Keeping.event fun s h => by
  split
  · exact setPort_keeps h ((giveUpLock_inv (h.ports p)).congr rfl rfl rfl rfl rfl)
  · exact h

theorem execTrainingPauseEnd_keeps (p : PortId) : Keeping (execTrainingPauseEnd p) := Keeping.event fun s h => by
  split
  · exact setPort_keeps_link h rfl rfl rfl rfl rfl
  · exact h

theorem execMarkerLoss_keeps (p : PortId) : Keeping (execMarkerLoss p) := Keeping.event fun s h => by
  split
  · have x := h.ports p
    exact takeCause_keeps _ _ (setPort_keeps h
      ⟨x.protocol, x.flood, x.announces, x.slots, x.slotRange, x.misses, by simp⟩)
  · exact h

theorem execDelayJump_keeps (p : PortId) : Keeping (execDelayJump p) := Keeping.event fun s h => by
  dsimp only
  split
  · exact h
  · split
    · exact portReset_keeps _ _ _ h
    · split
      · exact timingPortLost_keeps _ (setPort_keeps_link h rfl rfl rfl rfl rfl)
      · exact setPort_keeps_link h rfl rfl rfl rfl rfl

theorem execDrainEnd_keeps : Keeping execDrainEnd := Keeping.event fun s h => by
  split
  · exact endDrain_keeps h
  · exact h

theorem execAnnounceTimerExpiry_keeps : Keeping execAnnounceTimerExpiry := Keeping.event fun s h => by
  split
  · exact announceAdvancing_keeps (h.congr rfl rfl rfl rfl rfl rfl)
  · exact h

theorem execEntryAgedOut_keeps (f : FrameId) : Keeping (execEntryAgedOut f) := Keeping.event fun s h => by
  split
  · exact evaluate_keeps (raise_keeps _ (h.congr rfl rfl rfl rfl rfl rfl))
  · exact h

theorem execElectionHoldEnd_keeps : Keeping execElectionHoldEnd := Keeping.event fun s h => by
  split
  · exact evaluate_keeps (h.congr rfl rfl rfl rfl rfl rfl)
  · exact h

/-! ### Timing and trigger events -/

theorem execNearCountFull_keeps : Keeping execNearCountFull := Keeping.event fun s h => by
  split
  · exact changeTiming_keeps _ h
  · exact h

theorem execUnusableCountFull_keeps : Keeping execUnusableCountFull := Keeping.event fun s h => by
  split
  · split
    · exact changeTiming_keeps _ h
    · exact changeTiming_keeps _ h
    all_goals exact h
  · exact h

theorem execFarCountFull_keeps : Keeping execFarCountFull := Keeping.event fun s h => by
  split
  · exact changeTiming_keeps _ h
  · exact h

theorem relock_keeps (o : Observation) {s : State} (h : Inv s) : Inv (relock o s) := by
  have locked := changeTiming_keeps .locked h
  unfold relock
  dsimp only
  split
  · exact locked.congr rfl rfl rfl rfl rfl rfl
  · exact locked

theorem execReturnCountFull_keeps : Keeping execReturnCountFull := Keeping.event fun s h => by
  split
  · split
    · exact h
    · split
      · exact relock_keeps _ h
      · exact enterAcquiring_keeps _ h
  · exact h

theorem execHoldoverExpiry_keeps : Keeping execHoldoverExpiry := Keeping.event fun s h => by
  split
  · exact changeTiming_keeps _ h
  · exact h

theorem setRefin_keeps (flag : Bool) {s : State} (h : Inv s) : Inv (setRefin flag s) := by
  have flagged : Inv { s with time := { s.time with refin := ⟨flag, 0, 0⟩ } } := h.congr rfl rfl rfl rfl rfl rfl
  unfold setRefin
  dsimp only
  split
  · exact flagged
  · exact referenceChanged_keeps flagged

theorem execRefinQualified_keeps : Keeping execRefinQualified := Keeping.event fun s h => by
  split
  · exact setRefin_keeps _ h
  · exact h

theorem execRefinUnqualified_keeps : Keeping execRefinUnqualified := Keeping.event fun s h => by
  split
  · exact setRefin_keeps _ h
  · exact h

theorem runToFire_keeps (fire : RackTime) {s : State} (h : Inv s) : Inv (runToFire fire s) := by
  unfold runToFire
  split
  · exact runTo_keeps _ h
  · exact h

theorem execTriggerFireTime_keeps (id : TriggerId) : Keeping (execTriggerFireTime id) := Keeping.event fun s h => by
  split
  · exact h
  · split
    · exact fireIfReached_keeps _ (runToFire_keeps _ h)
    · exact h

theorem execTriggerPulseEnd_keeps : Keeping execTriggerPulseEnd := Keeping.event fun s h => by
  dsimp only
  split
  · exact h
  · next n _ =>
    have run := runTo_keeps (s.clock.tick + n) h
    obtain ⟨table, dropped, notStored, pulses⟩ := run.triggers
    exact setTrig_keeps run ⟨table, dropped, notStored, fun p hp => pulses p (List.mem_filter.mp hp).1⟩ fun _ he _ => he

theorem execTriggerInputEdge_keeps (i : InputId) (n : Nat) : Keeping (execTriggerInputEdge i n) :=
  Keeping.event fun s h => by
    split
    · exact h
    · exact takeEdge_keeps _ _ h

/-! ### Records, sinks and lanes -/

theorem whenDue_keeps (i : Nat) (due : StreamRecord → Bool) {act : StreamRecord → State → State}
    (ha : ∀ r s, Inv s → Inv (act r s)) {s : State} (h : Inv s) : Inv (whenDue i due act s) := by
  unfold whenDue
  split
  · split
    · exact ha _ _ h
    · exact h
  · exact h

theorem execSetupTimerExpiry_keeps (i : Nat) : Keeping (execSetupTimerExpiry i) :=
  Keeping.event fun _ h => whenDue_keeps _ _ (fun r s h => by
    unfold expireSetup
    split
    · have released := sendSide_keeps (downstream r) (.release r.id r.gen) h
      dsimp only
      split
      · exact closeRecord_keeps _ _ _ released
      · exact suspend_keeps _ _ _ released
    · exact removeRecord_keeps _ (sendSide_keeps _ _ (sendSide_keeps _ _ h))) h

theorem execSuspendTimerExpiry_keeps (i : Nat) : Keeping (execSuspendTimerExpiry i) :=
  Keeping.event fun _ h => whenDue_keeps _ _ (fun r s h => by
    unfold expireSuspend
    split
    · exact Inv.foldl _ (fun _ k hu => detachSink_keeps k hu) _ (closeRecord_keeps _ _ _ (sendSide_keeps _ _ h))
    · exact removeRecord_keeps _ h) h

theorem execRerouteRetryExpiry_keeps (i : Nat) : Keeping (execRerouteRetryExpiry i) :=
  Keeping.event fun _ h => whenDue_keeps _ _ (fun r s h => by
    unfold retryRoute
    split
    · exact editRecord_keeps _ h fun _ => rfl
    · exact activate_keeps _ _ (editRecord_keeps _ h fun _ => rfl)
    · exact offerSetup_keeps _ (assignSlots_keeps _ _ (changeRecord_keeps _ (releaseSlots_keeps _ _ h) fun _ => rfl))) h

theorem execOriginRetuneTimeout_keeps (i : Nat) : Keeping (execOriginRetuneTimeout i) :=
  Keeping.event fun _ h => whenDue_keeps _ _ (fun _ _ h => sendSide_keeps _ _ (revertRetune_keeps _ h)) h

theorem execHopRetuneTimeout_keeps (i : Nat) : Keeping (execHopRetuneTimeout i) :=
  Keeping.event fun _ h => whenDue_keeps _ _
    (fun _ _ h => sendSide_keeps _ _ (sendSide_keeps _ _ (suspend_keeps _ _ _ h))) h

theorem execRetuneSwitch_keeps (i : Nat) : Keeping (execRetuneSwitch i) :=
  Keeping.event fun _ h => whenDue_keeps _ _ (fun _ _ h => switchRecord_keeps _ h) h

theorem execSinkSettle_keeps (k : Nat) : Keeping (execSinkSettle k) := Keeping.event fun s h => by
  split
  · exact h
  · split
    · split
      · exact changeSink_keeps _ h (fun x => withReservation_index _ _) fun x _ => withReservation_room _ _
      · exact h
    · exact h

theorem execCellRelease_keeps (k : Nat) : Keeping (execCellRelease k) := Keeping.event fun s h => by
  split
  · exact h
  · exact changeSink_keeps _ h (fun x => (releaseDue_room _ _ x).1) fun x => (releaseDue_room _ _ x).2

theorem execLanePush_keeps (l : LaneId) (id : StreamId) (n : Byte) (payload : List Byte) :
    Keeping (execLanePush l id n payload) := Keeping.event fun s h => by
  split
  · exact answerLane_keeps _ (captureLane_keeps _ _ _ h)
  · split
    · exact answerLane_keeps _ (captureLane_keeps _ _ _ h)
    · split
      · exact answerLane_keeps _ h
      · split
        · exact answerLane_keeps _ (editRecord_keeps _ h fun _ => rfl)
        · exact answerLane_keeps _ (copyToSinks_keeps _ _ (editRecord_keeps _ h fun _ => rfl))

theorem execLanePull_keeps (l : LaneId) (id : StreamId) (n : Byte) : Keeping (execLanePull l id n) :=
  Keeping.event fun s h => by
    split
    · exact answerLane_keeps _ h
    · split
      · exact answerLane_keeps _ h
      · split
        · exact answerLane_keeps _ h
        · refine answerLane_keeps _ (changeSink_keeps _ h (fun _ => rfl) fun x room => ?_)
          exact le_trans (Nat.add_le_add_left (List.drop_sublist _ _).length_le _) room

theorem execLaneAcknowledgement_keeps (l : LaneId) (id : StreamId) : Keeping (execLaneAcknowledgement l id) :=
  Keeping.event fun s h => by
    split
    · exact answerLane_keeps _ h
    · exact answerLane_keeps _ (changeSink_keeps _ h (fun x => (acknowledge_room x).1) fun x => (acknowledge_room x).2)

/-! ### Every command, and every step -/

theorem exec_keeps (i : Instr) : Keeping (exec i) := by
  cases i with
  | identify => exact Keeping.request fun _ h => answer_keeps _ _ h
  | setConfigFrameId v => exact execSetConfigFrameId_keeps v
  | setConfigTimingPriority v => exact execSetConfigTimingPriority_keeps v
  | setConfigUseReference v => exact execSetConfigUseReference_keeps v
  | setConfigHoldoverLimit v => exact execSetConfigHoldoverLimit_keeps v
  | setConfigDrainDefault v => exact execSetConfigDrainDefault_keeps v
  | setConfigSuspendDefault v => exact execSetConfigSuspendDefault_keeps v
  | setConfigNoticeLevel n v => exact execSetConfigNoticeLevel_keeps n v
  | setConfigNoticeMask v => exact execSetConfigNoticeMask_keeps v
  | setConfigChannelMap n v => exact execSetConfigChannelMap_keeps n v
  | getConfig item => exact execGetConfig_keeps item
  | getPort b => exact execGetPort_keeps b
  | resetPort b => exact execResetPort_keeps b
  | depart count => exact execDepart_keeps count
  | cancelDepart => exact execCancelDepart_keeps
  | getFrame b => exact execGetFrame_keeps b
  | getTiming => exact Keeping.request fun _ h => answer_keeps _ _ h
  | restartTiming => exact execRestartTiming_keeps
  | openStream a b c d e f g => exact execOpenStream_keeps a b c d e f g
  | lookupStream id => exact execLookupStream_keeps id
  | nextStream start => exact execNextStream_keeps start
  | closeStream id => exact execCloseStream_keeps id
  | retuneStream id rate => exact execRetuneStream_keeps id rate
  | clearStreams => exact execClearStreams_keeps
  | attachSink a b c d e f => exact execAttachSink_keeps a b c d e f
  | detachSink k => exact execDetachSink_keeps k
  | armSink k start => exact execArmSink_keeps k start
  | getSink k => exact execGetSink_keeps k
  | scheduleTrigger a b c => exact execScheduleTrigger_keeps a b c
  | cancelTrigger id => exact execCancelTrigger_keeps id
  | getTrigger x => exact execGetTrigger_keeps x
  | armInput a b c d => exact execArmInput_keeps a b c d
  | disarmInput a => exact execDisarmInput_keeps a
  | readNotices => exact execReadNotices_keeps
  | readCapture n => exact execReadCapture_keeps n
  | clearCapture n => exact execClearCapture_keeps n
  | resetDevice => exact execResetDevice_keeps
  | unknownRequestKind kind fields => exact execUnknownRequestKind_keeps kind fields
  | transactionAbandoned bs => exact Keeping.request fun _ h => h
  | deviceReset straps => exact execDeviceReset_keeps straps
  | localEpochStart presence refin => exact execLocalEpochStart_keeps presence refin
  | gapStart => exact execGapStart_keeps
  | timeStep => exact execTimeStep_keeps
  | markerSend p => exact execMarkerSend_keeps p
  | managementCellBuild p => exact execManagementCellBuild_keeps p
  | dataSlot p n => exact execDataSlot_keeps p n
  | symbolLockGained p => exact execSymbolLockGained_keeps p
  | symbolLockLost p => exact execSymbolLockLost_keeps p
  | symbolBurst p n => exact execSymbolBurst_keeps p n
  | markerReceived p cs => exact execMarkerReceived_keeps p cs
  | cellReceived p bs => exact execCellReceived_keeps p bs
  | setup p m => exact execSetup_keeps p m
  | confirm p id gen n => exact execConfirm_keeps p id gen n
  | refuse p id gen c f => exact execRefuse_keeps p id gen c f
  | release p id gen => exact execRelease_keeps p id gen
  | break_ p id gen c d => exact execBreak_keeps p id gen c d
  | retune p id gen rate c => exact execRetune_keeps p id gen rate c
  | retuneOk p id gen => exact execRetuneOk_keeps p id gen
  | retuneRefuse p id gen c => exact execRetuneRefuse_keeps p id gen c
  | retuneCommit p id gen e => exact execRetuneCommit_keeps p id gen e
  | retuneAbort p id gen => exact execRetuneAbort_keeps p id gen
  | announce p m => exact execAnnounce_keeps p m
  | trigger p m => exact execTrigger_keeps p m
  | cancel p id => exact execCancel_keeps p id
  | presenceQualified p => exact execPresenceQualified_keeps p
  | presenceLost p => exact execPresenceLost_keeps p
  | trainingPause p => exact execTrainingPause_keeps p
  | trainingPauseEnd p => exact execTrainingPauseEnd_keeps p
  | markerLoss p => exact execMarkerLoss_keeps p
  | delayJump p => exact execDelayJump_keeps p
  | drainEnd => exact execDrainEnd_keeps
  | announceTimerExpiry => exact execAnnounceTimerExpiry_keeps
  | entryAgedOut f => exact execEntryAgedOut_keeps f
  | electionHoldEnd => exact execElectionHoldEnd_keeps
  | nearCountFull => exact execNearCountFull_keeps
  | unusableCountFull => exact execUnusableCountFull_keeps
  | farCountFull => exact execFarCountFull_keeps
  | returnCountFull => exact execReturnCountFull_keeps
  | holdoverExpiry => exact execHoldoverExpiry_keeps
  | refinQualified => exact execRefinQualified_keeps
  | refinUnqualified => exact execRefinUnqualified_keeps
  | triggerFireTime id => exact execTriggerFireTime_keeps id
  | triggerPulseEnd => exact execTriggerPulseEnd_keeps
  | triggerInputEdge i n => exact execTriggerInputEdge_keeps i n
  | setupTimerExpiry i => exact execSetupTimerExpiry_keeps i
  | suspendTimerExpiry i => exact execSuspendTimerExpiry_keeps i
  | rerouteRetryExpiry i => exact execRerouteRetryExpiry_keeps i
  | originRetuneTimeout i => exact execOriginRetuneTimeout_keeps i
  | hopRetuneTimeout i => exact execHopRetuneTimeout_keeps i
  | retuneSwitch i => exact execRetuneSwitch_keeps i
  | sinkSettle k => exact execSinkSettle_keeps k
  | cellRelease k => exact execCellRelease_keeps k
  | lanePush l id n payload => exact execLanePush_keeps l id n payload
  | lanePull l id n => exact execLanePull_keeps l id n
  | laneAcknowledgement l id => exact execLaneAcknowledgement_keeps l id
  | resetPinAsserted => exact execResetPinAsserted_keeps

/-- The part left to itself (R177): held in reset, an event that is due, or one tick. -/
theorem idle_keeps : Keeping idle := by
  intro s t h e
  unfold idle at e
  split at e
  · obtain rfl := Host.Outcome.next.inj e
    exact h
  · split at e
    · exact exec_keeps _ s t h e
    · obtain rfl := Host.Outcome.next.inj e
      exact passTicks_keeps 1 h

/-- Settles O4: a step runs a command or idles, and either keeps the invariant. -/
theorem stepKeepsInvariant : Obligations.StepKeepsInvariant := by
  intro s t h e
  unfold step at e
  split at e
  · next rest _ =>
    have waiting : Inv { s with pending := rest } := h.congr rfl rfl rfl rfl rfl rfl
    exact exec_keeps _ _ t waiting e
  · exact idle_keeps s t h e

/-- Settles O3: the state after device reset holds the values that every reset leaves. -/
theorem resetMeetsInvariant : Obligations.ResetMeetsInvariant := afterReset_inv _ _

end Sys2Proof.Machine
end

section
/-! SUPPORT. The step on a waiting command, the state after device reset, the info byte, READ_NOTICES, requests of wrong
form and the trigger inputs. -/

namespace Sys2Proof.Machine

open Sys2Proof

/-! ### Rules of the state -/

@[simp] theorem State.setPort_setPort (s : State) (p : PortId) (x y : Port) :
    (s.setPort p x).setPort p y = s.setPort p y := by
  fin_cases p <;> rfl

theorem raise_setPort (s : State) (k : NoticeKind) (p : PortId) (x : Port) :
    (raise k s).setPort p x = raise k (s.setPort p x) := rfl

/-! ### The queue of waiting commands (log entry 1) -/

/-- Settles O1: a step looks at the front of the queue alone. -/
theorem stepRunsFrontCommand : Obligations.StepRunsFrontCommand := fun _ _ _ => rfl

/-! ### Device reset (R18, R38, R55, R78, R91, R113, R160, R167, R178) -/

theorem port_of_reset (p : PortId) : State.reset.port p = Port.reset := PerPort.get_all Port.reset p

theorem captureAt_of_reset (n : Byte) : captureAt State.reset n = none ∨ captureAt State.reset n = some ⟨none, false⟩ := by
  have ports (p : PortId) : State.reset.captures.port.get p = ⟨none, false⟩ := PerPort.get_all _ p
  unfold captureAt
  split
  · exact .inr (congrArg some (ports _))
  · by_cases six : n = 6
    · exact .inr (by rw [if_pos six]; rfl)
    · by_cases seven : n = 7
      · exact .inr (by rw [if_neg six, if_pos seven]; rfl)
      · exact .inl (by rw [if_neg six, if_neg seven])

theorem channelMap_of_reset (n : Nat) : State.reset.req.config.channelMap.get n = 0 := by
  change (PerChannel.all (0 : Byte)).get n = 0
  unfold PerChannel.get PerChannel.all
  split <;> rfl

/-- Settles O2: the tables with one value per port, notice kind and channel by their laws, the rest as it is written. -/
theorem resetStateValues : Obligations.ResetStateValues :=
  ⟨port_of_reset, rfl, rfl, rfl, rfl, rfl, rfl, rfl, rfl, rfl, rfl, rfl, rfl, rfl, rfl, rfl, rfl, rfl, rfl, rfl, rfl, rfl,
    rfl, rfl, captureAt_of_reset, fun k => ⟨PerNotice.get_all false k, PerNotice.get_all 0 k⟩, rfl, rfl, rfl, rfl, rfl, rfl,
    channelMap_of_reset, rfl⟩

/-! ### The info byte (R4) -/

theorem decodeInfo_infoByte (a b c d : Bool) : decodeInfo (infoByte ⟨a, b, c, d⟩) = .clean ⟨a, b, c, d⟩ := by
  decide +revert

theorem decodeInfo_of_oneError (a b c d : Bool) (n : Fin 8) :
    decodeInfo (infoByte ⟨a, b, c, d⟩ ^^^ (1 <<< n.val)) = .corrected n.val ⟨a, b, c, d⟩ := by
  decide +revert

theorem decodeInfo_of_twoErrors (a b c d : Bool) (m n : Fin 8) (ne : m ≠ n) :
    decodeInfo (infoByte ⟨a, b, c, d⟩ ^^^ (1 <<< m.val) ^^^ (1 <<< n.val)) = .doubleError := by
  decide +revert

/-- Settles O8: sixteen bytes sent, with no, each one and each two of eight bits inverted. -/
theorem infoByteErrors : Obligations.InfoByteErrors := fun ⟨a, b, c, d⟩ =>
  ⟨decodeInfo_infoByte a b c d, decodeInfo_of_oneError a b c d, decodeInfo_of_twoErrors a b c d⟩

/-! ### Notices (R176) -/

theorem attn_of_noFlag {s : State} (h : ∀ k, s.req.pending.get k = false) : attn s = false := by
  simp [attn, h]

theorem exec_readNotices {s : State} (run : s.pins.reset = false) :
    exec .readNotices s = .next (answer .ok (.notices s.req.pending (attn s))
      { s with req := { s.req with pending := PerNotice.all false } }) := by
  have arm : exec .readNotices s = execReadNotices s := rfl
  rw [arm, execReadNotices, request_of_run _ _ run]

/-- Settles O16: the flags go with the answer, and with them ATTN. -/
theorem readNoticesClears : Obligations.ReadNoticesClears := by
  intro s run
  have flags (k : NoticeKind) : (PerNotice.all false).get k = false := PerNotice.get_all false k
  exact ⟨_, exec_readNotices run, rfl, flags, attn_of_noFlag flags, by rintro ⟨⟩ h <;> first | rfl | simp at h, rfl⟩

/-! ### Transactions that give no request (R168, R169) -/

theorem readRequest_eq_none {kind : Byte} (f : List Byte) (h : kind = 0 ∨ 29 < kind.toNat) : readRequest kind f = none := by
  unfold readRequest
  rcases h with rfl | h
  · rfl
  · obtain ⟨n, code⟩ : ∃ n, kind.toNat = n + 30 := ⟨kind.toNat - 30, by omega⟩
    rw [code]; rfl

theorem requestEnd_of_fields (kind len : Byte) (f more : List Byte) (h : f.length = len.toNat) :
    requestEnd (kind :: len :: f ++ more) = some (2 + len.toNat) := by
  have enough : ¬ (f ++ more).length < len.toNat := by rw [List.length_append]; omega
  simp [requestEnd, ← h]

theorem transactionCommand_of_fields (kind len : Byte) (f more : List Byte) (h : f.length = len.toNat) :
    transactionCommand (kind :: len :: f ++ more) = (readRequest kind f).getD (.unknownRequestKind kind f) := by
  simp [transactionCommand, ← h]

theorem transactionCommand_of_abandoned {sent : List Byte} (h : requestEnd sent = none) :
    transactionCommand sent = .transactionAbandoned sent := by
  match sent with
  | [] | [_] => rfl
  | kind :: len :: rest =>
    have short : rest.length < len.toNat := by
      by_contra enough
      simp [requestEnd, enough] at h
    exact if_pos short

/-- The first `n` of turnaround, response and a trailing run of all-ones bytes: what has come of the first two, then all-ones
bytes (R168). -/
theorem take_append_replicate (a : List Byte) (n : Nat) (b : Byte) :
    (a ++ List.replicate n b).take n = a.take n ++ List.replicate (n - a.length) b := by
  rw [List.take_append, List.take_replicate, Nat.min_eq_left (Nat.sub_le _ _)]

theorem spiReply_of_fields (kind len : Byte) (f more : List Byte) (r : Response) (h : f.length = len.toNat) :
    spiReply (kind :: len :: f ++ more) (.response r) =
      (List.replicate 4 255 ++ responseBytes r).take more.length ++
        List.replicate (more.length - (4 + (responseBytes r).length)) 255 := by
  have left : (kind :: len :: f ++ more).length - (2 + len.toNat) = more.length := by
    simp only [List.cons_append, List.length_cons, List.length_append]; omega
  have total : (List.replicate 4 (255 : Byte) ++ responseBytes r).length = 4 + (responseBytes r).length := by
    rw [List.length_append, List.length_replicate]
  simp only [spiReply, requestEnd_of_fields kind len f more h]
  rw [left, spiBytes, take_append_replicate, total]

theorem spiReply_of_abandoned {sent : List Byte} {o : SpiOutput} (h : requestEnd sent = none) (o_ne : o ≠ .allOnes) :
    spiReply sent o = [] := by
  cases o with
  | nothing => simp [spiReply, h]
  | allOnes => exact absurd rfl o_ne
  | response r => simp [spiReply, h]

theorem exec_transactionAbandoned {s : State} (received : List Byte) (run : s.pins.reset = false) :
    exec (.transactionAbandoned received) s = .next s := by
  have arm : exec (.transactionAbandoned received) s = execTransactionAbandoned received s := rfl
  rw [arm, execTransactionAbandoned, request_of_run _ _ run]

theorem exec_unknownRequestKind {s : State} {kind : Byte} {f : List Byte} (run : s.pins.reset = false)
    (h : readRequest kind f = none) : exec (.unknownRequestKind kind f) s = .next (withAnswer s .badRequest .empty) := by
  have arm : exec (.unknownRequestKind kind f) s = execUnknownRequestKind kind f s := rfl
  rw [arm, execUnknownRequestKind, request_of_run _ _ run]
  simp only [h, answer_eq]

/-- Settles O18: a request's end decides whether it is taken, and its form what it is answered. -/
theorem wrongFormAnswered : Obligations.WrongFormAnswered := by
  intro s run
  refine ⟨fun _ _ h => ?wrong, fun _ f h => ?beyond, fun received => ?abandoned, fun sent o h ho => ?unended,
    fun kind len f more r h => ?ended, fun sent => ?held⟩
  case wrong => exact exec_unknownRequestKind run h
  case beyond => exact readRequest_eq_none f h
  case abandoned => exact exec_transactionAbandoned received run
  case unended =>
    exact ⟨by rw [transactionCommand_of_abandoned h, exec_transactionAbandoned sent run], spiReply_of_abandoned h ho⟩
  case ended => exact ⟨transactionCommand_of_fields kind len f more h, spiReply_of_fields kind len f more r h⟩
  case held => rfl

/-! ### Trigger inputs (R88, R89) -/

theorem inputOf_eq_some {b : Byte} {i : InputId} (h : b.toNat = i.val) : inputOf b = some i := by
  simp [inputOf, h]

theorem inputOf_eq_none {b : Byte} (h : 3 < b.toNat) : inputOf b = none := by
  have beyond : ¬ b.toNat < 4 := by omega
  simp [inputOf, beyond]

theorem armFor_eq_none {mode : Byte} (lead channel : Nat) (h : 1 < mode.toNat) : armFor mode lead channel = none := by
  unfold armFor
  split
  · omega
  · omega
  · rfl

section Inputs

variable {s : State} (run : s.pins.reset = false)

include run

theorem exec_armInput (b : Byte) (lead : BitVec 16) (channel mode : Byte) :
    exec (.armInput b lead channel mode) s = .next (match inputOf b, armFor mode lead.toNat channel.toNat with
      | some i, some a =>
        if lead.toNat < 32 ∨ 7 < channel.toNat then answer .badArgument .empty s
        else answer .ok .empty (setInput i { s.trig.inputs.get i with arm := a } s)
      | _, _ => answer .badArgument .empty s) := by
  have arm : exec (.armInput b lead channel mode) s = execArmInput b lead channel mode s := rfl
  rw [arm, execArmInput, request_of_run _ _ run] <;> rfl

theorem exec_armInput_of_ranges {b : Byte} {lead : BitVec 16} {channel mode : Byte} {i : InputId} {a : Arm}
    (input : b.toNat = i.val) (lead_ge : 32 ≤ lead.toNat) (channel_le : channel.toNat ≤ 7)
    (arm : armFor mode lead.toNat channel.toNat = some a) :
    exec (.armInput b lead channel mode) s = .next (withAnswer
      { s with trig := { s.trig with inputs := s.trig.inputs.set i ⟨a, (s.trig.inputs.get i).ignored⟩ } } .ok .empty) := by
  rw [exec_armInput run, inputOf_eq_some input, arm]
  exact congrArg Host.Outcome.next (if_neg (by omega))

theorem exec_armInput_of_badArgument {b : Byte} {lead : BitVec 16} {channel mode : Byte}
    (h : 3 < b.toNat ∨ lead.toNat < 32 ∨ 7 < channel.toNat ∨ 1 < mode.toNat) :
    exec (.armInput b lead channel mode) s = .next (withAnswer s .badArgument .empty) := by
  rw [exec_armInput run]
  rcases h with input | h
  · rw [inputOf_eq_none input]; rfl
  by_cases mode_gt : 1 < mode.toNat
  · rw [armFor_eq_none _ _ mode_gt]
    split
    · next arm => cases arm
    · rfl
  · have ranges : lead.toNat < 32 ∨ 7 < channel.toNat := by omega
    simp only [if_pos ranges]
    split <;> rfl

theorem exec_disarmInput_of_input {b : Byte} {i : InputId} (input : b.toNat = i.val) :
    exec (.disarmInput b) s = .next (withAnswer
      { s with trig := { s.trig with inputs := s.trig.inputs.set i ⟨.disarmed, (s.trig.inputs.get i).ignored⟩ } } .ok
      .empty) := by
  have arm : exec (.disarmInput b) s = execDisarmInput b s := rfl
  rw [arm, execDisarmInput, request_of_run _ _ run, inputOf_eq_some input]; rfl

theorem exec_disarmInput_of_badArgument {b : Byte} (input : 3 < b.toNat) :
    exec (.disarmInput b) s = .next (withAnswer s .badArgument .empty) := by
  have arm : exec (.disarmInput b) s = execDisarmInput b s := rfl
  rw [arm, execDisarmInput, request_of_run _ _ run, inputOf_eq_none input]; rfl

end Inputs

/-- Settles O36: input and mode bytes decide the arm, the ranges of lead and channel the answer. -/
theorem inputsArmed : Obligations.InputsArmed := by
  intro s b lead channel mode run
  refine ⟨fun i a input lead_ge channel_le h => ?armed, exec_armInput_of_badArgument run,
    fun _ => exec_disarmInput_of_input run, exec_disarmInput_of_badArgument run⟩
  rcases h with ⟨rfl, rfl⟩ | ⟨rfl, rfl⟩
  · exact exec_armInput_of_ranges run input lead_ge channel_le rfl
  · exact exec_armInput_of_ranges run input lead_ge channel_le rfl

end Sys2Proof.Machine
end

section
/-! SUPPORT. Presence, the training counts, symbol lock and symbol errors of a port (R7, R21 to R23). -/

namespace Sys2Proof.Machine

open Sys2Proof

/-! ### Presence and the training counts -/

theorem giveUpLock_of_training {x : Port} (h : x.state = .training) :
    giveUpLock x = { x with symbolLock := false, recognizer := ⟨0, none, []⟩, missCount := 0, lossDue := false } :=
  if_pos h

theorem giveUpLock_of_ne {x : Port} (h : x.state ≠ .training) : giveUpLock x = { x with symbolLock := false } := if_neg h

/-- The states in which symbol lock is a flag alone (R23). -/
theorem ne_training_of_mem {x : PortState} (h : x ∈ [.probing, .up, .admitted, .draining, .fault]) : x ≠ .training := by
  rintro rfl
  simp at h

section Events

variable {s : State} {p : PortId} (run : s.pins.reset = false)

include run

theorem exec_presenceQualified :
    exec (.presenceQualified p) s = .next (if presenceGained (s.port p) then
      if (s.port p).state = .down then
        raise .port (s.setPort p { s.port p with
          presence := ⟨true, 0, 0⟩, state := .training, reason := none, jumpStands := false, training := some (.locking 0) })
      else s.setPort p { s.port p with presence := ⟨true, 0, 0⟩ }
      else s) := by
  have arm : exec (.presenceQualified p) s = execPresenceQualified p s := rfl
  rw [arm, execPresenceQualified, event_of_run _ _ run]
  split
  · simp only [port_setPort_self]
    split
    · simp only [changePort, raise_setPort, port_of_ports (raise_ports _ _), port_setPort_self, State.setPort_setPort]
    · rfl
  · rfl

theorem exec_trainingPause :
    exec (.trainingPause p) s = .next (if pauseDue (s.port p) then
      s.setPort p { giveUpLock (s.port p) with training := some (.pause 32) } else s) :=
  event_of_run s _ run

theorem exec_trainingPauseEnd :
    exec (.trainingPauseEnd p) s = .next (if pauseOver (s.port p) then
      s.setPort p { s.port p with training := some (.locking 0) } else s) :=
  event_of_run s _ run

/-! ### Symbol lock -/

theorem exec_symbolLockGained_of_locking {n : Nat} (state : (s.port p).state = .training)
    (phase : (s.port p).training = some (.locking n)) :
    exec (.symbolLockGained p) s =
      .next (s.setPort p { s.port p with symbolLock := true, recognizer := ⟨0, none, []⟩ }) := by
  have arm : exec (.symbolLockGained p) s = execSymbolLockGained p s := rfl
  rw [arm, execSymbolLockGained, event_of_run _ _ run]
  simp only [state, phase]
  rfl

theorem exec_symbolLockGained_of_deaf
    (h : (s.port p).state = .down ∨ ((s.port p).state = .training ∧ ∃ n, (s.port p).training = some (.pause n))) :
    exec (.symbolLockGained p) s = .next s := by
  have arm : exec (.symbolLockGained p) s = execSymbolLockGained p s := rfl
  rw [arm, execSymbolLockGained, event_of_run _ _ run]
  rcases h with state | ⟨state, n, phase⟩
  · simp only [state]
  · simp only [state, phase]

theorem exec_symbolLockGained_of_mem (h : (s.port p).state ∈ [.probing, .up, .admitted, .draining, .fault]) :
    exec (.symbolLockGained p) s = .next (s.setPort p { s.port p with symbolLock := true }) := by
  have arm : exec (.symbolLockGained p) s = execSymbolLockGained p s := rfl
  rw [arm, execSymbolLockGained, event_of_run _ _ run]
  cases state : (s.port p).state <;> simp only [state, List.mem_cons, reduceCtorEq, List.not_mem_nil, or_false] at h ⊢

theorem exec_symbolLockLost :
    exec (.symbolLockLost p) s = .next (if (s.port p).symbolLock then s.setPort p (giveUpLock (s.port p)) else s) :=
  event_of_run s _ run

end Events

/-! ### Symbol errors (R7) -/

theorem countError_of_down {s : State} {p : PortId} (h : (s.port p).state = .down) : countError p s = s := if_pos h

/-- A symbol error that is not the sixteenth is counted alone. -/
theorem countError_of_ne {s : State} {p : PortId} (h : (s.port p).state ≠ .down) (ne : (s.port p).symbolErrors + 1 ≠ 16) :
    countError p s = s.setPort p { s.port p with symbolErrors := (s.port p).symbolErrors + 1 } := by
  simp [countError, h, ne]

theorem countError_of_sixteenth {s : State} {p : PortId} (h : (s.port p).state = .training)
    (sixteenth : (s.port p).symbolErrors + 1 = 16) :
    countError p s = s.setPort p { s.port p with
      symbolErrors := 16, symbolLock := false, recognizer := ⟨0, none, []⟩, missCount := 0, lossDue := false } := by
  simp [countError, h, sixteenth, giveUpLock, Recognizer.searching]

theorem countErrors_of_down {p : PortId} (n : Nat) {s : State} (h : (s.port p).state = .down) : countErrors n p s = s := by
  induction n with
  | zero => rfl
  | succ n ih => rw [countErrors, countError_of_down h, ih]

/-- Symbol errors that stay short of the sixteenth, or come after it, are counted alone. -/
theorem countErrors_of_counted {p : PortId} (n : Nat) {s : State} (h : (s.port p).state ≠ .down)
    (range : (s.port p).symbolErrors + n < 16 ∨ 16 ≤ (s.port p).symbolErrors) :
    countErrors n p s = s.setPort p { s.port p with symbolErrors := (s.port p).symbolErrors + n } := by
  induction n generalizing s with
  | zero => exact (State.setPort_port s p).symm
  | succ n ih =>
    rw [countErrors, countError_of_ne h (by omega), ih (by simpa using h) (by simp only [port_setPort_self]; omega)]
    simp only [port_setPort_self, State.setPort_setPort, Nat.add_assoc, Nat.add_comm 1 n]

/-- Symbol errors in TRAINING that reach the sixteenth take the lock (R7, R23). -/
theorem countErrors_of_lockTaken {p : PortId} (n : Nat) {s : State} (h : (s.port p).state = .training)
    (below : (s.port p).symbolErrors < 16) (reach : 16 ≤ (s.port p).symbolErrors + n) :
    countErrors n p s = s.setPort p { s.port p with
      symbolErrors := (s.port p).symbolErrors + n, symbolLock := false, recognizer := ⟨0, none, []⟩, missCount := 0
      lossDue := false } := by
  induction n generalizing s with
  | zero => omega
  | succ n ih =>
    by_cases sixteenth : (s.port p).symbolErrors + 1 = 16
    · have past : (s.port p).symbolErrors + (n + 1) = 16 + n := by omega
      rw [countErrors, countError_of_sixteenth h sixteenth, countErrors_of_counted n (by simp [h]) (by simp), past]
      simp only [port_setPort_self, State.setPort_setPort]
    · have step := countError_of_ne (by simp [h]) sixteenth
      rw [countErrors, step, ih (by simpa using h) (by simp only [port_setPort_self]; omega)
        (by simp only [port_setPort_self]; omega)]
      simp only [port_setPort_self, State.setPort_setPort, Nat.add_assoc, Nat.add_comm 1 n]

/-- Settles O53: each event's count decides whether it acts, and the port's state what it does. -/
theorem trainingAndSymbolLock : Obligations.TrainingAndSymbolLock := by
  refine ⟨fun s p run => ⟨?gainedDown, ?gained, ?notGained, ?pause, ?pauseEnd, ?noPause, ?noPauseEnd⟩,
    fun s p run => ⟨fun n => exec_symbolLockGained_of_locking run, exec_symbolLockGained_of_deaf run,
      exec_symbolLockGained_of_mem run, ?unlocked, ?lostTraining, ?lost, ?down, ?counted, ?sixteenth⟩⟩
  case gainedDown =>
    intro unqualified present state
    simp [exec_presenceQualified run, presenceGained, unqualified, present, state]
  case gained =>
    intro unqualified present state
    simp [exec_presenceQualified run, presenceGained, unqualified, present, state]
  case notGained =>
    rintro (qualified | absent)
    · simp [exec_presenceQualified run, presenceGained, qualified]
    · simp [exec_presenceQualified run, presenceGained, Nat.not_le.mpr absent]
  case pause =>
    intro n state phase full
    simp [exec_trainingPause run, pauseDue, state, phase, full, giveUpLock_of_training state]
  case pauseEnd =>
    intro state phase
    simp [exec_trainingPauseEnd run, pauseOver, state, phase]
  case noPause =>
    intro n phase short
    simp [exec_trainingPause run, pauseDue, phase, Nat.not_le.mpr short]
  case noPauseEnd =>
    intro n phase
    simp [exec_trainingPauseEnd run, pauseOver, phase]
  case unlocked =>
    intro lock
    simp [exec_symbolLockLost run, lock]
  case lostTraining =>
    intro state lock
    simp [exec_symbolLockLost run, lock, giveUpLock_of_training state]
  case lost =>
    intro state lock
    simp [exec_symbolLockLost run, lock, giveUpLock_of_ne (ne_training_of_mem state)]
  case down => exact fun n state => (event_of_run s _ run).trans (congrArg _ (countErrors_of_down n state))
  case counted => exact fun n state range => (event_of_run s _ run).trans (congrArg _ (countErrors_of_counted n state range))
  case sixteenth =>
    exact fun n state below reach => (event_of_run s _ run).trans (congrArg _ (countErrors_of_lockTaken n state below reach))

end Sys2Proof.Machine
end

section
/-! SUPPORT. Requests that only report, capture records that take an error, configuration items that are only stored, and
device reset (R32, R54, R77, R90, R98, R99, R159, R163, R164, R172, R174, R177). -/

namespace Sys2Proof.Machine

open Sys2Proof

/-! ### Reports -/

theorem frameOf_eq_some {n : Nat} {x : FrameId} (h : n = x.val) : frameOf n = some x := by
  simp [frameOf, h]

theorem frameOf_eq_none {n : Nat} (h : 31 < n) : frameOf n = none := by
  have beyond : ¬ n < 32 := by omega
  simp [frameOf, beyond]

theorem triggerAt_eq_none {s : State} {id : TriggerId} (h : holdsTrigger s id = false) : triggerAt s id = none := by
  simp only [holdsTrigger, Bool.or_eq_false_iff, List.any_eq_false] at h
  exact List.find?_eq_none.2 h.1

theorem droppedAt_eq_none {s : State} {id : TriggerId} (h : holdsTrigger s id = false) :
    s.trig.dropped.find? (fun n => n.id == id) = none := by
  simp only [holdsTrigger, Bool.or_eq_false_iff, List.any_eq_false] at h
  exact List.find?_eq_none.2 h.2

section Reports

variable {s : State} (run : s.pins.reset = false)

include run

theorem exec_getConfig_item {i : ConfigItem} {v : BitVec 16} (h : itemValue s.req.config i = some v) :
    exec (.getConfig (some i)) s = .next (withAnswer s .ok (.value v)) := by
  have arm : exec (.getConfig (some i)) s = execGetConfig (some i) s := rfl
  rw [arm, execGetConfig, request_of_run _ _ run]
  simp only [answerItem, h, answer_eq]

theorem exec_getConfig_beyond {i : ConfigItem} (h : itemValue s.req.config i = none) :
    exec (.getConfig (some i)) s = .next (withAnswer s .badArgument .empty) := by
  have arm : exec (.getConfig (some i)) s = execGetConfig (some i) s := rfl
  rw [arm, execGetConfig, request_of_run _ _ run]
  simp only [answerItem, h, answer_eq]

theorem exec_getPort (b : Byte) :
    exec (.getPort b) s = .next (match portOf b with
      | none => withAnswer s .badArgument .empty
      | some p => withAnswer s .ok (.port (portReport (s.port p)))) := by
  have arm : exec (.getPort b) s = execGetPort b s := rfl
  rw [arm, execGetPort, request_of_run _ _ run]
  cases portOf b <;> rfl

theorem exec_getFrame (b : Byte) :
    exec (.getFrame b) s = .next (match frameOf b.toNat with
      | none => withAnswer s .badArgument .empty
      | some x => withAnswer s .ok
        (if x = 0 ∨ x = s.req.config.frameId then .directory (directoryReport s) else .entry (entryOf s x))) := by
  have arm : exec (.getFrame b) s = execGetFrame b s := rfl
  rw [arm, execGetFrame, request_of_run _ _ run]
  cases frameOf b.toNat with
  | none => rfl
  | some x =>
    by_cases own : x = 0 ∨ x = s.req.config.frameId
    · simp [ownFrame, own, answer_eq]
    · simp [ownFrame, own, answer_eq]

theorem exec_getSink (k : Byte) :
    exec (.getSink (some k)) s = .next (if 64 ≤ k.toNat then withAnswer s .badArgument .empty
      else match sinkAt s k.toNat with
        | none => withAnswer s .notFound .empty
        | some x => withAnswer s .ok (.sink (sinkReport x))) := by
  have arm : exec (.getSink (some k)) s = execGetSink (some k) s := rfl
  rw [arm, execGetSink, request_of_run _ _ run]
  dsimp only
  cases sinkAt s k.toNat <;> rfl

theorem exec_getTrigger_id (bits : BitVec 16) :
    exec (.getTrigger (.id bits)) s = .next (match triggerAt s (triggerIdOf bits),
        s.trig.dropped.find? (fun n => n.id == triggerIdOf bits) with
      | some e, _ => withAnswer s .ok (.trigger e)
      | none, some n => withAnswer s .ok (.note n)
      | none, none => withAnswer s .notFound .empty) := by
  have arm : exec (.getTrigger (.id bits)) s = execGetTrigger (.id bits) s := rfl
  rw [arm, execGetTrigger, request_of_run _ _ run]
  dsimp only
  cases triggerAt s (triggerIdOf bits) <;> cases s.trig.dropped.find? (fun n => n.id == triggerIdOf bits) <;> rfl

theorem exec_getTrigger_position (n : Byte) :
    exec (.getTrigger (.position n)) s = .next (if n = 0 ∨ 32 < n.toNat then withAnswer s .badArgument .empty
      else match s.trig.table[n.toNat - 1]? with
        | some e => withAnswer s .ok (.trigger e)
        | none => withAnswer s .notFound .empty) := by
  have arm : exec (.getTrigger (.position n)) s = execGetTrigger (.position n) s := rfl
  rw [arm, execGetTrigger, request_of_run _ _ run]
  dsimp only
  cases s.trig.table[n.toNat - 1]? <;> rfl

end Reports

theorem toNat_ne_zero {n : Byte} (h : n ≠ 0) : 1 ≤ n.toNat := by
  have : n.toNat ≠ 0 := fun e => h (BitVec.eq_of_toNat_eq e)
  omega

/-- Settles O10: what a number names decides the answer. -/
theorem reportsAnswer : Obligations.ReportsAnswer := by
  refine ⟨fun s run => ⟨request_of_run s _ run, fun i v => exec_getConfig_item run, fun i => exec_getConfig_beyond run,
    request_of_run s _ run, fun b p h => ?port, fun b h => ?noPort, fun b x h => ?frame, fun b h => ?noFrame⟩,
    fun s run => ⟨fun k x le h => ?sink, fun k le h => ?noSink, fun k h => ?beyondSink, request_of_run s _ run,
      fun id e h => ?trigger, fun id n h note => ?note, fun id h => ?noTrigger, fun n h => ?beyondPosition,
      fun n le short => ?noPosition, fun n e ge le h => ?position, request_of_run s _ run⟩⟩
  case port => rw [exec_getPort run, portOf_eq_some h]
  case noPort => rw [exec_getPort run, portOf_eq_none h]
  case frame => rw [exec_getFrame run, frameOf_eq_some h]
  case noFrame => rw [exec_getFrame run, frameOf_eq_none h]
  case sink => rw [exec_getSink run, if_neg (by omega), h]
  case noSink => rw [exec_getSink run, if_neg (by omega), h]
  case beyondSink => rw [exec_getSink run, if_pos (by omega)]
  case trigger => rw [exec_getTrigger_id run, h]
  case note => rw [exec_getTrigger_id run, h, note]
  case noTrigger => rw [exec_getTrigger_id run, triggerAt_eq_none h, droppedAt_eq_none h]
  case beyondPosition => rw [exec_getTrigger_position run, if_pos h]
  case noPosition =>
    rw [exec_getTrigger_position run, if_neg (by rintro (rfl | h) <;> [simp at short; omega]),
      List.getElem?_eq_none (by omega)]
  case position =>
    rw [exec_getTrigger_position run, if_neg (by rintro (rfl | h) <;> [simp at ge; omega]), h]

/-! ### Streams (R98, R99) -/

/-- In a list of rising indices, the first that satisfies a test is the one of least index. -/
theorem find?_of_least {rs : List StreamRecord} (order : rising (rs.map (·.index))) {q : StreamRecord → Bool}
    {r : StreamRecord} (mem : r ∈ rs) (holds : q r = true) (least : ∀ x ∈ rs, q x = true → r.index ≤ x.index) :
    rs.find? q = some r := by
  induction rs with
  | nil => cases mem
  | cons y rs ih =>
    obtain ⟨above, order⟩ := List.pairwise_cons.1 order
    by_cases hy : q y = true
    · have : r = y := by
        rcases List.mem_cons.1 mem with e | later
        · exact e
        · have : y.index < r.index := above r.index (List.mem_map_of_mem later)
          have := least y List.mem_cons_self hy
          omega
      rw [List.find?_cons_of_pos hy, this]
    · rw [List.find?_cons_of_neg hy]
      have mem : r ∈ rs := (List.mem_cons.1 mem).resolve_left (by rintro rfl; exact hy holds)
      exact ih order mem fun x hx => least x (List.mem_cons_of_mem _ hx)

section Streams

variable {s : State} (run : s.pins.reset = false)

include run

theorem exec_lookupStream (id : StreamId) :
    exec (.lookupStream id) s = .next (match recordOf s id with
      | none => withAnswer s .notFound .empty
      | some r =>
        withAnswer (editRecord r.index (fun r => { r with changed := false }) s) .ok (.stream (streamReport s r))) := by
  have arm : exec (.lookupStream id) s = execLookupStream id s := rfl
  rw [arm, execLookupStream, request_of_run _ _ run]
  cases recordOf s id <;> rfl

theorem exec_nextStream (start : Byte) :
    exec (.nextStream start) s = .next (if 127 < start.toNat then withAnswer s .badArgument .empty
      else match s.streams.records.find? (fun r => decide (start.toNat ≤ r.index)) with
        | none => withAnswer s .notFound .empty
        | some r => withAnswer s .ok (.stream (streamReport s r))) := by
  have arm : exec (.nextStream start) s = execNextStream start s := rfl
  rw [arm, execNextStream, request_of_run _ _ run]
  cases s.streams.records.find? (fun r => decide (start.toNat ≤ r.index)) <;> rfl

end Streams

/-- Settles O14: the record that a lookup or the first index finds decides the answer. -/
theorem streamReads : Obligations.StreamReads := by
  intro s run
  refine ⟨fun id r h => ?found, fun id h => ?notFound, fun start r inv mem le holds least => ?next,
    fun start le above => ?last, fun start h => ?beyond⟩
  case found =>
    have reply := exec_lookupStream run id
    rw [h] at reply
    exact ⟨_, reply, rfl, rfl, by rintro ⟨⟩ h <;> first | rfl | simp at h, rfl⟩
  case notFound => rw [exec_lookupStream run, h]
  case next =>
    rw [exec_nextStream run, if_neg (by omega), find?_of_least inv.order mem (decide_eq_true holds)
      fun x hx h => least x hx (of_decide_eq_true h)]
  case last =>
    have none : s.streams.records.find? (fun r => decide (start.toNat ≤ r.index)) = none :=
      List.find?_eq_none.2 fun x hx h => absurd (of_decide_eq_true h) (Nat.not_le.2 (above x hx))
    rw [exec_nextStream run, if_neg (by omega), none]
  case beyond => rw [exec_nextStream run, if_pos h]

/-! ### Capture records that take an error (R163, R164) -/

/-- An empty record takes the error and keeps LOST; a locked one gives way to a higher severity alone, and LOST is set. -/
theorem takeInto_cases (r : CaptureRecord) (e : CapturedError) :
    (r.held = none → takeInto r e = ⟨some e, r.lost⟩) ∧
      (∀ h, r.held = some h → weight (severityOf h.kind) < weight (severityOf e.kind) → takeInto r e = ⟨some e, true⟩) ∧
      ∀ h, r.held = some h → weight (severityOf e.kind) ≤ weight (severityOf h.kind) → takeInto r e = ⟨some h, true⟩ := by
  refine ⟨fun empty => ?_, fun h held lt => ?_, fun h held le => ?_⟩
  · simp only [takeInto, empty]
  · simp only [takeInto, held, if_pos lt]
  · simp only [takeInto, held, if_neg (Nat.not_lt.2 le)]

theorem captureNotice_eq (r : CaptureRecord) (e : CapturedError) :
    captureNotice r e =
      (r.held.all (fun h => decide (weight (severityOf h.kind) < weight (severityOf e.kind))) || !r.lost) := by
  obtain ⟨_ | h, lost⟩ := r <;> rfl

theorem noticesSet_raiseIf (b : Bool) (k : NoticeKind) {s u : State} (h : u.req = s.req) :
    noticesSet (if b then [k] else []) s (raiseIf b k u) := by
  cases b with
  | false => exact ⟨by simp [raiseIf, h], fun j => by simp [raiseIf, h]⟩
  | true => exact ⟨by simp [raiseIf, raise, h], fun j => by simp [raiseIf, raise_flag, h]⟩

/-- An error in a capture record changes captures and notices alone. -/
theorem raiseIf_capture_frame (b : Bool) (s : State) (c : Captures) :
    changesOnly [.captures, .req] s (raiseIf b .capture { s with captures := c }) := by
  cases b <;> (rintro ⟨⟩ h <;> first | rfl | simp at h)

theorem raiseIf_capture_captures (b : Bool) (s : State) (c : Captures) :
    (raiseIf b .capture { s with captures := c }).captures = c := by
  cases b <;> rfl

/-- Settles O13: the three kinds of record take an error by one rule. -/
theorem captureTakesErrors : Obligations.CaptureTakesErrors := by
  intro s k id d
  refine ⟨fun p n => ⟨?_, fun q hq => ?_, ?_, ?_, raiseIf_capture_frame _ s _, ?_⟩,
    ⟨?_, ?_, ?_, raiseIf_capture_frame _ s _, ?_⟩, ⟨?_, ?_, ?_, raiseIf_capture_frame _ s _, ?_⟩⟩
  · simp only [capturePort, raiseIf_capture_captures, PerPort.get_set_self]
    exact takeInto_cases _ ⟨k, s.clock.epoch, n, id, d⟩
  · simp only [capturePort, raiseIf_capture_captures, PerPort.get_set_of_ne _ hq]
  · simp only [capturePort, raiseIf_capture_captures]
  · simp only [capturePort, raiseIf_capture_captures]
  · simp only [capturePort, captureNotice_eq]
    exact noticesSet_raiseIf _ _ rfl
  · simp only [captureLane, raiseIf_capture_captures]
    exact takeInto_cases _ ⟨k, s.clock.epoch, none, id, d⟩
  · simp only [captureLane, raiseIf_capture_captures]
  · simp only [captureLane, raiseIf_capture_captures]
  · simp only [captureLane, captureNotice_eq]
    exact noticesSet_raiseIf _ _ rfl
  · simp only [captureProtocol, raiseIf_capture_captures]
    exact takeInto_cases _ ⟨k, s.clock.epoch, none, id, d⟩
  · simp only [captureProtocol, raiseIf_capture_captures]
  · simp only [captureProtocol, raiseIf_capture_captures]
  · simp only [captureProtocol, captureNotice_eq]
    exact noticesSet_raiseIf _ _ rfl

/-! ### Items that are only stored (R172, R174) -/

theorem clamp_zero (hi n : Nat) : clamp 0 hi n = min n hi := Nat.zero_max _

theorem PerChannel.get_set_self {α : Type} (t : PerChannel α) {c : Nat} (h : c ≤ 7) (a : α) : (t.set c a).get c = a := by
  interval_cases c <;> rfl

theorem suspendValue (v : BitVec 16) : max 1 v.toNat = if v = 0 then 1 else v.toNat := by
  by_cases zero : v = 0
  · simp [zero]
  · have : v.toNat ≠ 0 := fun e => zero (BitVec.eq_of_toNat_eq e)
    rw [if_neg zero]
    omega

/-- SET_CONFIG of an item answers with the item's value once it is stored. -/
theorem answerItem_of_value {s : State} {i : ConfigItem} {v : BitVec 16} (h : itemValue s.req.config i = some v) :
    answerItem i s = withAnswer s .ok (.value v) := by
  simp only [answerItem, h, answer_eq]

/-- Settles O15: each item is stored, then read for the answer. -/
theorem plainItemsStored : Obligations.PlainItemsStored := by
  intro s v run
  refine ⟨?holdover, ?drain, ?suspend, fun b k notice => ?level, fun b beyond => ?noLevel, ?mask, fun b le => ?channel,
    fun b beyond => ?noChannel⟩
  case holdover =>
    have arm : exec (.setConfigHoldoverLimit v) s = execSetConfigHoldoverLimit v s := rfl
    rw [arm, execSetConfigHoldoverLimit, request_of_run _ _ run, answerItem_of_value (v := v)]
    simp [itemValue]
  case drain =>
    have arm : exec (.setConfigDrainDefault v) s = execSetConfigDrainDefault v s := rfl
    rw [arm, execSetConfigDrainDefault, request_of_run _ _ run, answerItem_of_value (v := v)]
    simp [itemValue]
  case suspend =>
    have arm : exec (.setConfigSuspendDefault v) s = execSetConfigSuspendDefault v s := rfl
    rw [arm, execSetConfigSuspendDefault, request_of_run _ _ run, suspendValue,
      answerItem_of_value (v := if v = 0 then 1 else v)]
    by_cases zero : v = 0
    · simp [itemValue, zero]
    · simp only [itemValue, if_neg zero, State.setConfig_config, BitVec.ofNat_toNat, BitVec.setWidth_eq]
  case level =>
    have arm : exec (.setConfigNoticeLevel b v) s = execSetConfigNoticeLevel b v s := rfl
    have named : noticeOf b = some k := notice
    rw [arm, execSetConfigNoticeLevel, request_of_run _ _ run]
    simp only [named, clamp_zero]
    rw [answerItem_of_value (v := BitVec.ofNat 16 (min v.toNat 7))]
    simp [itemValue, named, PerNotice.get_set]
  case noLevel =>
    have arm : exec (.setConfigNoticeLevel b v) s = execSetConfigNoticeLevel b v s := rfl
    have unnamed : noticeOf b = none := List.getElem?_eq_none beyond
    rw [arm, execSetConfigNoticeLevel, request_of_run _ _ run]
    simp only [unnamed, answer_eq]
  case mask =>
    have arm : exec (.setConfigNoticeMask v) s = execSetConfigNoticeMask v s := rfl
    rw [arm, execSetConfigNoticeMask, request_of_run _ _ run, clamp_zero]
    exact congrArg _ (answerItem_of_value rfl)
  case channel =>
    have arm : exec (.setConfigChannelMap b v) s = execSetConfigChannelMap b v s := rfl
    rw [arm, execSetConfigChannelMap, request_of_run _ _ run, if_pos (by omega)]
    refine congrArg _ (answerItem_of_value ?_)
    simp only [itemValue, State.setConfig_config, if_pos (show b.toNat < 8 by omega), PerChannel.get_set_self _ le]
  case noChannel =>
    have arm : exec (.setConfigChannelMap b v) s = execSetConfigChannelMap b v s := rfl
    rw [arm, execSetConfigChannelMap, request_of_run _ _ run, if_neg (by omega), answer_eq]

end Sys2Proof.Machine
end

section
/-! SUPPORT. The election (R51 to R53): its winner, what a handed result leaves before the election is evaluated again, and
why a chain of evaluations ends. -/

namespace Sys2Proof.Machine

open Sys2Proof

/-! ### The candidate that ranks first (R51) -/

/-- The order of R51, spelled out. -/
theorem ranksBefore_iff (a b : Candidate) :
    ranksBefore a b = true ↔ (a.reference = true ∧ b.reference = false) ∨ (a.reference = b.reference ∧
      (a.priority < b.priority ∨ (a.priority = b.priority ∧ a.rank < b.rank))) := by
  unfold ranksBefore
  cases a.reference <;> cases b.reference <;> by_cases same : a.priority = b.priority <;> simp [same]

theorem ranksBefore_trans {a b c : Candidate} (h : ranksBefore a b = true) (k : ranksBefore b c = true) :
    ranksBefore a c = true := by
  rw [ranksBefore_iff] at *
  grind

/-- Of two candidates that do not rank before a third in turn, the first does not either. -/
theorem ranksBefore_negTrans {a b c : Candidate} (h : ranksBefore a b = false) (k : ranksBefore b c = false) :
    ranksBefore a c = false := by
  rw [Bool.eq_false_iff, ne_eq, ranksBefore_iff] at *
  grind

theorem ranksBefore_irrefl (a : Candidate) : ranksBefore a a = false := by
  rw [Bool.eq_false_iff, ne_eq, ranksBefore_iff]
  simp

/-- The first of the candidates that no other outranks, with `b` standing first. -/
def pickFrom (b : Candidate) (cs : List Candidate) : Candidate := cs.foldl (fun b c => if ranksBefore c b then c else b) b

theorem bestOf_cons (b : Candidate) (cs : List Candidate) : bestOf (b :: cs) = some (pickFrom b cs) := by
  unfold bestOf pickFrom
  rw [List.foldl_cons]
  induction cs generalizing b with
  | nil => rfl
  | cons c cs ih =>
    rw [List.foldl_cons, List.foldl_cons, ← ih]
    dsimp only
    congr 1
    split <;> rfl

theorem pickFrom_mem (b : Candidate) (cs : List Candidate) : pickFrom b cs ∈ b :: cs := by
  induction cs generalizing b with
  | nil => exact List.mem_singleton_self b
  | cons c cs ih =>
    have step : pickFrom b (c :: cs) = pickFrom (if ranksBefore c b then c else b) cs := rfl
    have mem := ih (if ranksBefore c b then c else b)
    rw [step]
    rcases List.mem_cons.1 mem with e | later
    · rw [e]
      split
      · exact List.mem_cons_of_mem _ List.mem_cons_self
      · exact List.mem_cons_self
    · exact List.mem_cons_of_mem _ (List.mem_cons_of_mem _ later)

theorem pickFrom_first (b : Candidate) (cs : List Candidate) : ∀ d ∈ b :: cs, ranksBefore d (pickFrom b cs) = false := by
  induction cs generalizing b with
  | nil =>
    intro d mem
    rw [List.mem_singleton.1 mem]
    exact ranksBefore_irrefl b
  | cons c cs ih =>
    have step : pickFrom b (c :: cs) = pickFrom (if ranksBefore c b then c else b) cs := rfl
    rw [step]
    by_cases cb : ranksBefore c b = true
    · rw [if_pos cb]
      have bc : ranksBefore b c = false := by
        by_contra back
        have loop := ranksBefore_trans cb (by simpa using back)
        rw [ranksBefore_irrefl] at loop
        cases loop
      intro d mem
      rcases List.mem_cons.1 mem with rfl | mem
      · exact ranksBefore_negTrans bc (ih c c List.mem_cons_self)
      · exact ih c d mem
    · rw [if_neg cb]
      intro d mem
      rcases List.mem_cons.1 mem with rfl | mem
      · exact ih d d List.mem_cons_self
      rcases List.mem_cons.1 mem with rfl | mem
      · exact ranksBefore_negTrans (by simpa using cb) (ih b b List.mem_cons_self)
      · exact ih b d (List.mem_cons_of_mem _ mem)

/-- A candidate that stands first of all wins, or the winner among the others does. -/
theorem pickFrom_cons (b c : Candidate) (cs : List Candidate) :
    pickFrom b (c :: cs) = if ranksBefore (pickFrom c cs) b then pickFrom c cs else b := by
  induction cs using List.reverseRecOn with
  | nil => rfl
  | append_singleton cs x ih =>
    have left : pickFrom b (c :: (cs ++ [x])) =
        if ranksBefore x (pickFrom b (c :: cs)) then x else pickFrom b (c :: cs) := by
      simp only [pickFrom, List.foldl_cons, List.foldl_append, List.foldl_nil]
      rfl
    have right : pickFrom c (cs ++ [x]) = if ranksBefore x (pickFrom c cs) then x else pickFrom c cs := by
      simp only [pickFrom, List.foldl_append, List.foldl_cons, List.foldl_nil]
      rfl
    rw [left, right, ih]
    by_cases mb : ranksBefore (pickFrom c cs) b = true
    · rw [if_pos mb]
      by_cases xm : ranksBefore x (pickFrom c cs) = true
      · rw [if_pos xm, if_pos (ranksBefore_trans xm mb)]
      · rw [if_neg xm, if_pos mb]
    · rw [if_neg mb]
      by_cases xm : ranksBefore x (pickFrom c cs) = true
      · rw [if_pos xm]
      · have xb : ¬ ranksBefore x b = true := by
          rw [Bool.not_eq_true] at *
          exact ranksBefore_negTrans xm mb
        rw [if_neg xm, if_neg mb, if_neg xb]

/-- Settles O21: the fold that picks the winner keeps a candidate that no earlier one outranks. -/
theorem winnerRanksFirst : Obligations.WinnerRanksFirst := by
  intro s first
  obtain ⟨c, cs, e⟩ := List.exists_cons_of_ne_nil first
  refine ⟨pickFrom c cs, by rw [e]; exact pickFrom_mem c cs, ?_, by rw [e]; exact pickFrom_first c cs⟩
  rw [winner, if_neg first, e, bestOf_cons]

/-! ### The winner, by whether this part is a candidate of the first kind -/

/-- This part is a candidate of the first kind (R51). -/
def ownStands (s : State) : Bool := !departing s && (s.time.role == .master || s.time.state == .locked)

/-- The REACHABLE entries in LOCKED, as candidates (R51). -/
def lockedEntries (s : State) : List Candidate := ((reachable s).filter fun e => e.timing == .locked).map entryCandidate

/-- The winner, were this part a candidate of the first kind or not. -/
def winnerIf (own : Bool) (s : State) : ElectionResult :=
  let first := (if own then [ownCandidate s] else []) ++ lockedEntries s
  match bestOf (if first = [] then secondKind s else first) with
  | some c => c.result
  | none => .nobody

theorem winner_eq (s : State) : winner s = winnerIf (ownStands s) s := rfl

/-- This part as one candidate more of the first kind wins, or leaves the winner as it was. -/
theorem winnerIf_true_cases (s : State) : winnerIf true s = .thisPart ∨ winnerIf true s = winnerIf false s := by
  cases others : lockedEntries s with
  | nil =>
    have own : winnerIf true s = (ownCandidate s).result := by
      simp [winnerIf, others, bestOf_cons, pickFrom]
    exact .inl own
  | cons c cs =>
    simp only [winnerIf, others, if_true, List.singleton_append, reduceCtorEq, if_false, bestOf_cons, pickFrom_cons,
      Bool.false_eq_true, List.nil_append]
    split
    · exact .inr rfl
    · exact .inl rfl

/-- Where this part wins as a candidate of the second kind, it wins as one of the first. -/
theorem winnerIf_true_of_thisPart {s : State} (h : winnerIf false s = .thisPart) : winnerIf true s = .thisPart := by
  rcases winnerIf_true_cases s with e | e
  · exact e
  · rw [e, h]

/-! ### What the outcome depends on -/

/-- Two states that the election cannot tell apart but by this part's own role and timing state. -/
structure SameElectorate (s t : State) : Prop where
  entries : t.dir.entries = s.dir.entries
  swap : t.swap = s.swap
  refin : t.time.refin = s.time.refin
  config : t.req.config = s.req.config

theorem SameElectorate.trans {s t u : State} (h : SameElectorate s t) (k : SameElectorate t u) : SameElectorate s u :=
  ⟨k.entries.trans h.entries, k.swap.trans h.swap, k.refin.trans h.refin, k.config.trans h.config⟩

theorem TimingEffects.electorate {s t : State} (h : TimingEffects s t) : SameElectorate s t := by
  have config : t.req.config = s.req.config := by rw [h.notices.1]
  exact ⟨h.entries, h.pieces .swap (by simp), h.refin, config⟩

theorem winnerIf_congr {s t : State} (h : SameElectorate s t) (own : Bool) : winnerIf own t = winnerIf own s := by
  have candidate : ownCandidate t = ownCandidate s := by
    simp only [ownCandidate, referencePresent, ownFrame, h.refin, h.config]
    rfl
  have locked : lockedEntries t = lockedEntries s := by simp only [lockedEntries, reachable, h.entries]
  have second : secondKind t = secondKind s := by
    simp only [secondKind, candidate, reachable, departing, referencePresent, h.entries, h.swap, h.refin, h.config]
    rfl
  simp only [winnerIf, candidate, locked, second]

theorem isCandidate_congr {s t : State} (h : t.dir.entries = s.dir.entries) (x : FrameId) :
    isCandidate t x = isCandidate s x := by
  simp only [isCandidate, reachable, h]

/-- The outcome is a function of entries, winner, hold and the result handed last (R52). -/
theorem electionOutcome_congr {s t : State} (entries : t.dir.entries = s.dir.entries) (won : winner t = winner s)
    (hold : t.dir.hold = s.dir.hold) (result : t.time.result = s.time.result) : electionOutcome t = electionOutcome s := by
  simp only [electionOutcome, won, hold, result, isCandidate_congr entries]

/-- Once its outcome is handed, the same winner gives the same outcome. -/
theorem electionSettled_of_handed {s t : State} (won : winner t = winner s)
    (hold : t.dir.hold = (electionOutcome s).2) (result : t.time.result = (electionOutcome s).1) : electionSettled t := by
  unfold electionSettled
  simp only [electionOutcome, won] at *
  cases running : s.dir.hold with
  | some h =>
    cases w : winner s with
    | thisPart => simp_all
    | nobody => simp_all
    | frame y q => by_cases same : y = h.frame <;> simp_all
  | none =>
    cases last : s.time.result with
    | thisPart => cases w : winner s <;> simp_all
    | nobody => cases w : winner s <;> simp_all
    | frame x p =>
      cases w : winner s with
      | thisPart => simp_all
      | nobody => simp_all
      | frame y q => by_cases begins : (!isCandidate s x && y != x && q != p) = true <;> simp_all

end Sys2Proof.Machine
end

section
/-! SUPPORT. Own announces (R40, R41), and why an evaluation of the election leaves nothing to hand (R53, R65, R75). -/

namespace Sys2Proof.Machine

open Sys2Proof

/-! ### Offers to several ports -/

/-- Operations on one port after another, where each changes its own port by one rule, which it reads from that port. -/
theorem port_foldl {op : PortId → State → State} {g : Port → Port}
    (own : ∀ p s q, (op p s).port q = if q = p then g (s.port q) else s.port q) {ps : List PortId} (nodup : ps.Nodup)
    (s : State) (q : PortId) :
    (ps.foldl (fun s p => op p s) s).port q = if q ∈ ps then g (s.port q) else s.port q := by
  induction ps generalizing s with
  | nil => rfl
  | cons p ps ih =>
    obtain ⟨fresh, nodup⟩ := List.nodup_cons.1 nodup
    rw [List.foldl_cons, ih nodup, own]
    by_cases e : q = p
    · subst e
      simp [fresh]
    · simp [e]

theorem nodup_allPorts : allPorts.Nodup := by decide

theorem mem_upOrAdmitted {s : State} {p : PortId} :
    p ∈ upOrAdmitted s ↔ (s.port p).state = .up ∨ (s.port p).state = .admitted := by
  simp [upOrAdmitted, mem_allPorts]

theorem mem_admittedPorts {s : State} {p : PortId} : p ∈ admittedPorts s ↔ (s.port p).state = .admitted := by
  simp [admittedPorts, mem_allPorts]

/-- A port that an ANNOUNCE is offered to (R13, R15). -/
def announcedTo (a : AnnounceMsg) (x : Port) : Port :=
  if takesOffers x.state then { x with floodQueue := floodAnnounce a x.floodQueue } else x

theorem port_offerAnnounce (a : AnnounceMsg) (p : PortId) (s : State) (q : PortId) :
    (offerAnnounce a p s).port q = if q = p then announcedTo a (s.port q) else s.port q := by
  unfold offerAnnounce announcedTo
  by_cases e : q = p
  · subst e
    split <;> simp
  · split <;> simp [e, port_setPort_of_ne]

theorem offerAnnounce_frame (a : AnnounceMsg) (p : PortId) (s : State) : changesOnly [.ports] s (offerAnnounce a p s) := by
  unfold offerAnnounce
  split
  · rintro ⟨⟩ h <;> first | rfl | simp at h
  · exact changesOnly.refl _ s

theorem offerAll_announce_frame (a : AnnounceMsg) (ps : List PortId) (s : State) :
    changesOnly [.ports] s (offerAll (offerAnnounce a) ps s) :=
  changesOnly.foldl _ (fun s p => offerAnnounce_frame a p s) ps s

/-! ### Own announces -/

/-- The Frame Directory after an advancing own announce (R40, R41). -/
def announced (s : State) : State :=
  { s with dir := { s.dir with
      serial := s.dir.serial + 1, restartCount := s.dir.restartCount - 1, announceTimer := 256 } }

/-- The ANNOUNCE that an advancing own announce sends (R40). -/
def nextAnnounce (s : State) : AnnounceMsg := ownAnnounce { s with dir := { s.dir with serial := s.dir.serial + 1 } }

theorem nextAnnounce_eq (s : State) :
    nextAnnounce s =
      { frame := s.req.config.frameId, serial := s.dir.serial + 1, hops := 0, restart := decide (0 < s.dir.restartCount)
        departing := decide (s.swap.departure ≠ .inService)
        reference := s.time.refin.qualified && s.req.config.useReference
        priority := s.req.config.timingPriority, timing := s.time.state } := by
  have leaving : departing s = decide (s.swap.departure ≠ .inService) := by
    unfold departing
    cases s.swap.departure <;> rfl
  rw [← leaving]
  rfl

theorem announceAdvancing_of_noId {s : State} (h : ownFrame s = 0) : announceAdvancing s = s := if_pos h

theorem announceAdvancing_of_id {s : State} (h : ownFrame s ≠ 0) :
    announceAdvancing s = offerAll (offerAnnounce (nextAnnounce s)) (upOrAdmitted s) (announced s) := if_neg h

/-- An own announce changes the Frame Directory and flood queues alone. -/
theorem announceAdvancing_frame (s : State) : changesOnly [.ports, .dir] s (announceAdvancing s) := by
  by_cases h : ownFrame s = 0
  · rw [announceAdvancing_of_noId h]
    exact changesOnly.refl _ s
  · rw [announceAdvancing_of_id h]
    have moved : changesOnly [.ports, .dir] s (announced s) := by rintro ⟨⟩ h <;> first | rfl | simp at h
    exact moved.trans ((offerAll_announce_frame _ _ _).mono (by simp))

@[simp] theorem announceAdvancing_time (s : State) : (announceAdvancing s).time = s.time :=
  announceAdvancing_frame s .time (by simp)

theorem announceAdvancing_dir (s : State) :
    (announceAdvancing s).dir = if ownFrame s = 0 then s.dir else (announced s).dir := by
  split
  · next h => rw [announceAdvancing_of_noId h]
  · next h => rw [announceAdvancing_of_id h]; exact offerAll_announce_frame _ _ _ .dir (by simp)

@[simp] theorem announceAdvancing_hold (s : State) : (announceAdvancing s).dir.hold = s.dir.hold := by
  rw [announceAdvancing_dir]
  split <;> rfl

theorem port_announceAdvancing {s : State} (h : ownFrame s ≠ 0) (p : PortId) :
    (announceAdvancing s).port p =
      if (s.port p).state = .up ∨ (s.port p).state = .admitted then
        { s.port p with floodQueue := floodAnnounce (nextAnnounce s) (s.port p).floodQueue }
      else s.port p := by
  have nodup : (upOrAdmitted s).Nodup := nodup_allPorts.filter _
  rw [announceAdvancing_of_id h, offerAll, port_foldl (port_offerAnnounce _) nodup]
  simp only [mem_upOrAdmitted]
  split
  · next state => exact if_pos (by rcases state with e | e <;> (change takesOffers (s.port p).state = true; rw [e]; rfl))
  · rfl

theorem floodAnnounce_of_queued {a : AnnounceMsg} {q : List Msg} (h : ∃ m ∈ q, announcedFrame m = some a.frame) :
    floodAnnounce a q = q.map fun m => if announcedFrame m = some a.frame then .announce a else m := by
  have queued : q.any (announces a.frame) = true := by simpa [announces_iff] using h
  simp only [floodAnnounce, if_pos queued, announces_iff]

theorem floodAnnounce_of_new {a : AnnounceMsg} {q : List Msg} (h : ∀ m ∈ q, announcedFrame m ≠ some a.frame) :
    floodAnnounce a q = if q.length < 8 then q ++ [.announce a] else q := by
  have fresh : ¬ q.any (announces a.frame) = true := by simpa [announces_iff] using h
  simp only [floodAnnounce, if_neg fresh, Figures.floodQueueSize]
  rfl

/-- Settles O19: an own announce is offered to one port after another, and a queue holds one ANNOUNCE for a frame. -/
theorem ownAnnounceOffered : Obligations.OwnAnnounceOffered := by
  refine ⟨fun s => ⟨announceAdvancing_of_noId, fun id => ⟨?_, fun p => ?_, announceAdvancing_frame s⟩⟩,
    fun a q => ⟨fun queued => ?_, fun fresh room => ?_, fun fresh full => ?_⟩⟩
  · exact (announceAdvancing_dir s).trans (if_neg id)
  · rw [port_announceAdvancing id, nextAnnounce_eq]
  · rw [floodAnnounce_of_queued queued]
    exact ⟨List.length_map _, fun n m at_n => by rw [List.getElem?_map, at_n]; rfl⟩
  · rw [floodAnnounce_of_new fresh, if_pos room]
  · rw [floodAnnounce_of_new fresh, if_neg (Nat.not_lt.2 full)]

/-! ### A change of timing state, up to its evaluation (R75) -/

/-- A change of timing state as it stands when the election is evaluated. -/
def shifted (x : TimingState) (s : State) : State :=
  let t := raise .timing { s with time := { s.time with
    counts := ⟨0, 0, 0, 0⟩, pending := none, state := x
    holdoverTimer := if x = .holdover then some s.req.config.holdoverLimit else none } }
  announceAdvancing (if timed s && (x == .acquiring || x == .free) then loseTime t else t)

theorem shiftTiming_eq (eval : State → State) (x : TimingState) (s : State) :
    shiftTiming eval x s = eval (shifted x s) := rfl

theorem toTiming_eq (eval : State → State) {x : TimingState} {s : State} (h : s.time.state ≠ x) :
    toTiming eval x s =
      if (eval (shifted x s)).time.state = .holdover ∧ (eval (shifted x s)).time.holdoverTimer = some 0 then
        eval (shifted .free (eval (shifted x s)))
      else eval (shifted x s) := if_neg h

theorem shifted_effects (x : TimingState) (s : State) : TimingEffects s (shifted x s) :=
  shiftTiming_effects id TimingEffects.refl x s

@[simp] theorem loseTime_time (s : State) : (loseTime s).time = s.time := (loseTime_effects s).pieces .time (by simp)
@[simp] theorem loseTime_dir (s : State) : (loseTime s).dir = s.dir := (loseTime_effects s).pieces .dir (by simp)

theorem shifted_time (x : TimingState) (s : State) :
    (shifted x s).time = { s.time with
      counts := ⟨0, 0, 0, 0⟩, pending := none, state := x
      holdoverTimer := if x = .holdover then some s.req.config.holdoverLimit else none } := by
  unfold shifted
  dsimp only
  rw [announceAdvancing_time]
  split <;> simp

@[simp] theorem shifted_hold (x : TimingState) (s : State) : (shifted x s).dir.hold = s.dir.hold := by
  unfold shifted
  dsimp only
  rw [announceAdvancing_hold]
  split <;> simp

/-! ### A handed result, up to its evaluation (R65) -/

/-- The role or the timing port of a result differs from the one that stands (R65). -/
def moves (r : ElectionResult) (s : State) : Bool := (roleOf r).1 != s.time.role || (roleOf r).2 != s.time.port

/-- A handed result as it stands before its change of timing state or its evaluation. -/
def handed (r : ElectionResult) (s : State) : State :=
  raiseIf (moves r s) .timing { s with time := { s.time with
    counts := ⟨0, 0, 0, 0⟩, pending := none, result := r, role := (roleOf r).1, port := (roleOf r).2
    lastPhase := if (roleOf r).2 = s.time.port then s.time.lastPhase else none } }

theorem handResult_eq (eval : State → State) (r : ElectionResult) (s : State) :
    handResult eval r s =
      if (handed r s).time.state = stateAfter s r then (if moves r s then eval (handed r s) else handed r s)
      else toTiming eval (stateAfter s r) (handed r s) := rfl

theorem handed_time (r : ElectionResult) (s : State) :
    (handed r s).time = { s.time with
      counts := ⟨0, 0, 0, 0⟩, pending := none, result := r, role := (roleOf r).1, port := (roleOf r).2
      lastPhase := if (roleOf r).2 = s.time.port then s.time.lastPhase else none } := by
  unfold handed raiseIf
  split <;> rfl

@[simp] theorem handed_dir (r : ElectionResult) (s : State) : (handed r s).dir = s.dir := by
  unfold handed raiseIf
  split <;> rfl

theorem handed_effects (r : ElectionResult) (s : State) : TimingEffects s (handed r s) := by
  refine TimingEffects.trans ?_ (raiseIf_effects _ _ _).timing
  exact time_dir_effects _ s.dir s rfl rfl rfl

/-- What handing a result can leave in front of an evaluation: the result stands, its role with it, and the timing state is
the one that R65 gives. -/
structure Handed (r : ElectionResult) (x : TimingState) (s t : State) : Prop where
  electorate : SameElectorate s t
  hold : t.dir.hold = s.dir.hold
  result : t.time.result = r
  role : t.time.role = (roleOf r).1
  state : t.time.state = x

theorem handed_spec (r : ElectionResult) (s : State) : Handed r s.time.state s (handed r s) :=
  ⟨(handed_effects r s).electorate, by rw [handed_dir], by rw [handed_time], by rw [handed_time], by rw [handed_time]⟩

theorem Handed.shift {r : ElectionResult} {x : TimingState} {s t : State} (h : Handed r x s t) (y : TimingState) :
    Handed r y s (shifted y t) :=
  ⟨h.electorate.trans (shifted_effects y t).electorate, by rw [shifted_hold, h.hold], by rw [shifted_time, h.result],
    by rw [shifted_time, h.role], by rw [shifted_time]⟩

/-- What a result handed can come to: the result alone, one evaluation, or, where HOLDOVER ends at once (R74), a second. -/
theorem handResult_cases (eval : State → State) (r : ElectionResult) (s : State) :
    (handResult eval r s = handed r s ∧ moves r s = false ∧ s.time.state = stateAfter s r) ∨
    (∃ t, Handed r (stateAfter s r) s t ∧ handResult eval r s = eval t) ∨
    ∃ t, Handed r (stateAfter s r) s t ∧ (eval t).time.state = .holdover ∧
      handResult eval r s = eval (shifted .free (eval t)) := by
  rw [handResult_eq]
  by_cases same : (handed r s).time.state = stateAfter s r
  · rw [if_pos same]
    rw [(handed_spec r s).state] at same
    cases moved : moves r s with
    | false => exact .inl ⟨if_neg (by simp), rfl, same⟩
    | true => exact .inr (.inl ⟨_, same ▸ handed_spec r s, if_pos rfl⟩)
  · rw [if_neg same, toTiming_eq eval same]
    have spec := (handed_spec r s).shift (stateAfter s r)
    split
    · next out => exact .inr (.inr ⟨_, spec, out.1, rfl⟩)
    · exact .inr (.inl ⟨_, spec, rfl⟩)

/-! ### An evaluation settles (R53) -/

theorem stateAfter_thisPart (s : State) : stateAfter s .thisPart = .locked := by
  unfold stateAfter
  cases s.time.state <;> rfl

/-- A result of another frame, or NONE, brings no part into LOCKED. -/
theorem locked_of_stateAfter {s : State} {r : ElectionResult} (ne : r ≠ .thisPart) (h : stateAfter s r = .locked) :
    s.time.state = .locked ∧ r ≠ .nobody := by
  unfold stateAfter at h
  cases r with
  | thisPart => exact absurd rfl ne
  | frame x p =>
    cases state : s.time.state with
    | locked => exact ⟨rfl, by simp⟩
    | acquiring =>
      simp only [state] at h
      split at h <;> cases h
    | _ => simp [state] at h
  | nobody => cases state : s.time.state <;> simp_all

theorem winner_of_electorate {s t : State} (h : SameElectorate s t) (own : ownStands t = ownStands s) :
    winner t = winner s := by
  rw [winner_eq, winner_eq, own, winnerIf_congr h]

/-- An evaluation of a settled election leaves all but the hold as it was. -/
theorem evaluateFor_of_settled {s : State} (h : electionSettled s) (n : Nat) :
    electionSettled (evaluateFor n s) ∧ (evaluateFor n s).time = s.time := by
  cases n with
  | zero => exact ⟨h, rfl⟩
  | succ n =>
    have stays : evaluateFor (n + 1) s = { s with dir := { s.dir with hold := (electionOutcome s).2 } } := if_pos h
    rw [stays]
    exact ⟨electionSettled_of_handed (s := s) rfl rfl h.symm, rfl⟩

/-- A part that stands as master is in LOCKED. -/
def masterLocked (s : State) : Prop := s.time.role = .master → s.time.state = .locked

theorem masterLocked_of_handed {r : ElectionResult} {s t : State} (h : Handed r (stateAfter s r) s t) : masterLocked t := by
  intro master
  rw [h.role] at master
  rw [h.state]
  cases r with
  | thisPart => exact stateAfter_thisPart s
  | frame x p => cases master
  | nobody => cases master

theorem masterLocked_shifted {v : State} (h : masterLocked v) (state : v.time.state = .holdover) :
    masterLocked (shifted .free v) := by
  intro master
  rw [shifted_time] at master
  rw [h master] at state
  cases state

theorem evaluateFor_masterLocked (n : Nat) {s : State} (h : masterLocked s) : masterLocked (evaluateFor n s) := by
  induction n generalizing s with
  | zero => exact h
  | succ n ih =>
    by_cases same : (electionOutcome s).1 = s.time.result
    · have stays : evaluateFor (n + 1) s = { s with dir := { s.dir with hold := (electionOutcome s).2 } } := if_pos same
      rwa [stays]
    · have hands : evaluateFor (n + 1) s = handResult (evaluateFor n) (electionOutcome s).1
          (raise .directory { s with dir := { s.dir with hold := (electionOutcome s).2 } }) := if_neg same
      rw [hands]
      generalize raise .directory _ = u
      rcases handResult_cases (evaluateFor n) (electionOutcome s).1 u with
        ⟨e, -, state⟩ | ⟨t, ht, e⟩ | ⟨t, ht, out, e⟩
      · rw [e]
        exact masterLocked_of_handed (state ▸ handed_spec _ u)
      · rw [e]
        exact ih (masterLocked_of_handed ht)
      · rw [e]
        exact ih (masterLocked_shifted (ih (masterLocked_of_handed ht)) out)

/-- A part that is neither master nor LOCKED is no candidate of the first kind. -/
theorem ownStands_shifted {v : State} (h : masterLocked v) (state : v.time.state = .holdover) :
    ownStands (shifted .free v) = false := by
  have follower : (shifted .free v).time.role ≠ .master := fun master =>
    absurd (masterLocked_shifted h state master) (by rw [shifted_time]; simp)
  have free : (shifted .free v).time.state = .free := by rw [shifted_time]
  simp [ownStands, free, follower]

/-- An outcome that names this part or a frame is the winner (R52). -/
theorem winner_of_outcome {s : State} (h : (electionOutcome s).1 ≠ .nobody) : winner s = (electionOutcome s).1 := by
  revert h
  unfold electionOutcome
  dsimp only
  split
  · split
    · exact fun _ => rfl
    · split
      · exact fun _ => rfl
      · exact fun h => absurd rfl h
    · exact fun h => absurd rfl h
  · split
    · split
      · exact fun h => absurd rfl h
      · exact fun _ => rfl
    · exact fun _ => rfl

/-- The election as an evaluation hands its outcome on. -/
def handedOn (s : State) : State := raise .directory { s with dir := { s.dir with hold := (electionOutcome s).2 } }

theorem handedOn_electorate (s : State) : SameElectorate s (handedOn s) := ⟨rfl, rfl, rfl, rfl⟩

theorem evaluateFor_of_unsettled {s : State} (h : ¬ electionSettled s) (n : Nat) :
    evaluateFor (n + 1) s = handResult (evaluateFor n) (electionOutcome s).1 (handedOn s) := if_neg h

section Handing

variable {s t : State} {x : TimingState} (h : Handed (electionOutcome s).1 x (handedOn s) t)

include h

theorem settled_of_winner (won : winner t = winner s) : electionSettled t :=
  electionSettled_of_handed won h.hold h.result

theorem electorate_of_handed : SameElectorate s t := (handedOn_electorate s).trans h.electorate

/-- Where another frame, or NONE, is handed, a part that is not in LOCKED after it is no candidate of the first kind. -/
theorem ownStands_of_handed (ne : (electionOutcome s).1 ≠ .thisPart) (state : x ≠ .locked) : ownStands t = false := by
  have follower : t.time.role ≠ .master := by
    rw [h.role]
    cases r : (electionOutcome s).1 with
    | thisPart => exact absurd r ne
    | frame y q => simp [roleOf]
    | nobody => simp [roleOf]
  have unlocked : t.time.state ≠ .locked := by rwa [h.state]
  simp [ownStands, follower, unlocked]

/-- A part that is departing is no candidate of the first kind, whatever is handed. -/
theorem settled_of_departing (leaving : departing s = true) : electionSettled t := by
  have swap := (electorate_of_handed h).swap
  have leaving' : departing t = true := by rwa [departing, swap]
  refine settled_of_winner h (winner_of_electorate (electorate_of_handed h) ?_)
  simp [ownStands, leaving, leaving']

/-- Where this part is handed, it wins from then on. -/
theorem settled_of_thisPart (own : (electionOutcome s).1 = .thisPart) (state : x = .locked) : electionSettled t := by
  by_cases leaving : departing s = true
  · exact settled_of_departing h leaving
  have swap := (electorate_of_handed h).swap
  have staying : departing t = false := by rw [departing, swap]; exact Bool.eq_false_iff.2 leaving
  have stands : ownStands t = true := by simp [ownStands, staying, h.state, state]
  have won : winner s = .thisPart := by rw [winner_of_outcome (by rw [own]; simp), own]
  have wins : winnerIf true s = .thisPart := by
    rw [winner_eq] at won
    cases stood : ownStands s with
    | true => rwa [stood] at won
    | false => exact winnerIf_true_of_thisPart (stood ▸ won)
  refine settled_of_winner h ?_
  rw [winner_eq, stands, winnerIf_congr (electorate_of_handed h), wins, won]

/-- Where another frame is handed, it wins from then on, whether this part stands or not. -/
theorem settled_of_frame {y : FrameId} {q : PortId} (other : (electionOutcome s).1 = .frame y q)
    (below : ownStands s = false → ownStands t = false) : electionSettled t := by
  have won : winner s = .frame y q := by rw [winner_of_outcome (by rw [other]; simp), other]
  refine settled_of_winner h ?_
  rw [winner_eq t, winnerIf_congr (electorate_of_handed h), winner_eq s]
  cases stood : ownStands s with
  | false => rw [below stood]
  | true =>
    have same : winnerIf true s = winnerIf false s := by
      rcases winnerIf_true_cases s with own | same
      · rw [winner_eq, stood, own] at won
        cases won
      · exact same
    cases ownStands t <;> simp [same]

end Handing

/-- A result handed where neither role nor timing state changes settles the election. -/
theorem settled_of_unmoved {s : State} (moved : moves (electionOutcome s).1 (handedOn s) = false) :
    electionSettled (handed (electionOutcome s).1 (handedOn s)) := by
  have spec := handed_spec (electionOutcome s).1 (handedOn s)
  have role : (roleOf (electionOutcome s).1).1 = s.time.role := by
    simp only [moves, Bool.or_eq_false_iff, bne_eq_false_iff_eq] at moved
    exact moved.1
  have electorate := electorate_of_handed spec
  refine settled_of_winner spec (winner_of_electorate electorate ?_)
  rw [ownStands, ownStands, departing, departing, electorate.swap, spec.role, role, spec.state]
  rfl

/-- A part that was no candidate of the first kind is none after a frame or NONE is handed. -/
theorem ownStands_of_absent {s t : State} (h : Handed (electionOutcome s).1 (stateAfter (handedOn s) (electionOutcome s).1)
    (handedOn s) t) (ne : (electionOutcome s).1 ≠ .thisPart) (absent : ownStands s = false) : ownStands t = false := by
  by_cases leaving : departing s = true
  · have swap := (electorate_of_handed h).swap
    have leaving' : departing t = true := by rwa [departing, swap]
    simp [ownStands, leaving']
  · refine ownStands_of_handed h ne fun locked => ?_
    have state : s.time.state = .locked := (locked_of_stateAfter ne locked).1
    simp [ownStands, leaving, state] at absent

/-- An evaluation settles where this part is no candidate of the first kind: one result is handed. -/
theorem evaluateFor_of_absent {s : State} (absent : ownStands s = false) (n : Nat) :
    electionSettled (evaluateFor (n + 1) s) := by
  by_cases settled : electionSettled s
  · exact (evaluateFor_of_settled settled _).1
  have settles {t : State} (h : Handed (electionOutcome s).1 (stateAfter (handedOn s) (electionOutcome s).1)
      (handedOn s) t) : electionSettled t := by
    by_cases own : (electionOutcome s).1 = .thisPart
    · exact settled_of_thisPart h own (by rw [own]; exact stateAfter_thisPart _)
    · exact settled_of_winner h (winner_of_electorate (electorate_of_handed h)
        ((ownStands_of_absent h own absent).trans absent.symm))
  rw [evaluateFor_of_unsettled settled]
  rcases handResult_cases (evaluateFor n) (electionOutcome s).1 (handedOn s) with
    ⟨e, moved, -⟩ | ⟨t, ht, e⟩ | ⟨t, ht, out, e⟩
  · rw [e]
    exact settled_of_unmoved moved
  · rw [e]
    exact (evaluateFor_of_settled (settles ht) n).1
  · rw [e]
    obtain ⟨again, time⟩ := evaluateFor_of_settled (settles ht) n
    have master : masterLocked (evaluateFor n t) := evaluateFor_masterLocked n (masterLocked_of_handed ht)
    have follower : (evaluateFor n t).time.role ≠ .master := fun e => absurd (master e) (by rw [out]; simp)
    have stood : ownStands (evaluateFor n t) = false := by simp [ownStands, out, follower]
    have won := winner_of_electorate (shifted_effects .free (evaluateFor n t)).electorate
      ((ownStands_shifted master out).trans stood.symm)
    have outcome := electionOutcome_congr (shifted_effects .free (evaluateFor n t)).entries won (shifted_hold _ _)
      (by rw [shifted_time])
    have settled : electionSettled (shifted .free (evaluateFor n t)) := by
      rw [electionSettled, outcome, shifted_time]
      exact again
    exact (evaluateFor_of_settled settled n).1

/-- An evaluation settles: after the result handed first, this part is no candidate of the first kind, or its standing makes no
difference. -/
theorem evaluateFor_settles (s : State) (n : Nat) : electionSettled (evaluateFor (n + 2) s) := by
  by_cases settled : electionSettled s
  · exact (evaluateFor_of_settled settled _).1
  have settles {t : State} (h : Handed (electionOutcome s).1 (stateAfter (handedOn s) (electionOutcome s).1)
      (handedOn s) t) : electionSettled (evaluateFor (n + 1) t) := by
    cases r : (electionOutcome s).1 with
    | thisPart =>
      exact (evaluateFor_of_settled (settled_of_thisPart h r (by rw [r]; exact stateAfter_thisPart _)) _).1
    | frame y q =>
      exact (evaluateFor_of_settled (settled_of_frame h r (ownStands_of_absent h (by rw [r]; simp))) _).1
    | nobody =>
      refine evaluateFor_of_absent (ownStands_of_handed h (by rw [r]; simp) fun locked => ?_) n
      exact (locked_of_stateAfter (by rw [r]; simp) locked).2 r
  rw [evaluateFor_of_unsettled settled]
  rcases handResult_cases (evaluateFor (n + 1)) (electionOutcome s).1 (handedOn s) with
    ⟨e, moved, -⟩ | ⟨t, ht, e⟩ | ⟨t, ht, out, e⟩
  · rw [e]
    exact settled_of_unmoved moved
  · rw [e]
    exact settles ht
  · rw [e]
    exact evaluateFor_of_absent
      (ownStands_shifted (evaluateFor_masterLocked (n + 1) (masterLocked_of_handed ht)) out) n

theorem evaluate_settles (s : State) : electionSettled (evaluate s) := evaluateFor_settles s 6

/-- Settles O20: an evaluation settles, and its effects are those of the operations it is made of. -/
theorem evaluateSettles : Obligations.EvaluateSettles := fun s => ⟨evaluate_settles s, evaluate_effects s⟩

end Sys2Proof.Machine
end

section
/-! SUPPORT. Device reset, and the part while it is held in reset (R177). -/

namespace Sys2Proof.Machine

open Sys2Proof

/-- While it is held in reset, a request has all ones sent and does nothing else (R177). -/
theorem answer_of_held {s : State} {m : Host.Outcome State Fault Refusal} {f : State → State} (h : s.pins.reset = true)
    (e : m = request s f) : m = .next { s with req := { s.req with spi := .allOnes } } := by
  simp [e, request, h]

/-- While it is held in reset, an event does nothing (R177). -/
theorem nothing_of_held {s : State} {m : Host.Outcome State Fault Refusal} {f : State → State} (h : s.pins.reset = true)
    (e : m = event s f) : m = .next s := by
  simp [e, event, h]

/-- A command in reset, other than the pin's own and the end of reset: a request has all ones sent, and any other command, which
the frame controller sends no bytes for, does nothing. -/
theorem exec_of_held (c : Instr) {s : State} (held : s.pins.reset = true) (notEnd : ∀ straps, c ≠ .deviceReset straps)
    (notPin : c ≠ .resetPinAsserted) :
    exec c s = .next { s with req := { s.req with spi := .allOnes } } ∨ (exec c s = .next s ∧ transactionBytes c = none) := by
  cases c
  case identify | setConfigFrameId | setConfigTimingPriority | setConfigUseReference | setConfigHoldoverLimit |
      setConfigDrainDefault | setConfigSuspendDefault | setConfigNoticeLevel | setConfigNoticeMask |
      setConfigChannelMap | getConfig | getPort | resetPort | depart | cancelDepart | getFrame | getTiming |
      restartTiming | openStream | lookupStream | nextStream | closeStream | retuneStream | clearStreams |
      attachSink | detachSink | armSink | getSink | scheduleTrigger | cancelTrigger | getTrigger | armInput |
      disarmInput | readNotices | readCapture | clearCapture | resetDevice | unknownRequestKind |
      transactionAbandoned =>
    exact .inl (answer_of_held held (by delta exec; rfl))
  case localEpochStart | gapStart | timeStep | markerSend | managementCellBuild | dataSlot | symbolLockGained |
      symbolLockLost | symbolBurst | markerReceived | cellReceived | setup | confirm | refuse | release | break_ |
      retune | retuneOk | retuneRefuse | retuneCommit | retuneAbort | announce | trigger | cancel |
      presenceQualified | presenceLost | trainingPause | trainingPauseEnd | markerLoss | delayJump | drainEnd |
      announceTimerExpiry | entryAgedOut | electionHoldEnd | nearCountFull | unusableCountFull | farCountFull |
      returnCountFull | holdoverExpiry | refinQualified | refinUnqualified | triggerFireTime | triggerPulseEnd |
      triggerInputEdge | setupTimerExpiry | suspendTimerExpiry | rerouteRetryExpiry | originRetuneTimeout |
      hopRetuneTimeout | retuneSwitch | sinkSettle | cellRelease | lanePush | lanePull | laneAcknowledgement =>
    exact .inr ⟨nothing_of_held held (by delta exec; rfl), rfl⟩
  case deviceReset straps => exact absurd rfl (notEnd straps)
  case resetPinAsserted => exact absurd rfl notPin

theorem attn_of_held {s : State} (h : s.pins.reset = true) : attn s = false := by simp [attn, h]

theorem laneNotice_of_held {s : State} (h : s.pins.reset = true) (l : LaneId) : laneNotice s l = false := by
  simp [laneNotice, h]

theorem triggerLines_of_held {s : State} (h : s.pins.reset = true) : triggerLines s = 0 := by simp [triggerLines, h]

/-- Settles O17: the pin's own command and the end of reset are written out, and any other in reset is a request or an event. -/
theorem deviceResets : Obligations.DeviceResets := by
  refine ⟨fun s => ⟨fun run => ?request, ?pin, fun straps => ?ends⟩, fun c s held notEnd notPin => ?held⟩
  case request =>
    have arm : exec .resetDevice s = execResetDevice s := rfl
    refine ⟨Figures.strapLevels s.pins.samplings, endReset (Figures.strapLevels s.pins.samplings) s, rfl, ?_⟩
    rw [arm, execResetDevice, request_of_run _ _ run, answer_eq]
  case pin =>
    exact ⟨_, rfl, rfl, rfl, rfl, fun p => PerPort.get_map _ _ p, by rintro ⟨⟩ h <;> first | rfl | simp at h,
      attn_of_held rfl, triggerLines_of_held rfl, fun l => laneNotice_of_held rfl l⟩
  case ends =>
    exact ⟨_, rfl, rfl, rfl, rfl, rfl, rfl, by rintro ⟨⟩ h <;> first | rfl | simp at h, rfl⟩
  case held =>
    have quiet {t : State} (h : t.pins.reset = true) :
        attn t = false ∧ (∀ l, laneNotice t l = false) ∧ triggerLines t = 0 :=
      ⟨attn_of_held h, laneNotice_of_held h, triggerLines_of_held h⟩
    rcases exec_of_held c held notEnd notPin with e | ⟨e, bytes⟩
    · exact ⟨_, e, rfl, .inl rfl, quiet held⟩
    · exact ⟨s, e, rfl, .inr ⟨rfl, bytes⟩, quiet held⟩

end Sys2Proof.Machine
end

section
/-! SUPPORT. Bytes and what they spell: numbers, the fields of a message, the fields of a cell and of a marker (R4, R11, R19,
R20). -/

namespace Sys2Proof.Machine

open Sys2Proof

/-! ### Numbers in bytes -/

@[simp] theorem length_bytesOf (count n : Nat) : (bytesOf count n).length = count := by
  induction count with
  | zero => rfl
  | succ k ih => rw [bytesOf, List.length_cons, ih]

theorem numberOf_foldl (bs : List Byte) (n : Nat) :
    bs.foldl (fun n b => n * 256 + b.toNat) n = n * 256 ^ bs.length + numberOf bs := by
  unfold numberOf
  induction bs generalizing n with
  | nil => simp
  | cons b bs ih =>
    rw [List.foldl_cons, List.foldl_cons, ih, ih (0 * 256 + b.toNat), List.length_cons]
    ring

theorem numberOf_cons (b : Byte) (bs : List Byte) : numberOf (b :: bs) = b.toNat * 256 ^ bs.length + numberOf bs := by
  have step : numberOf (b :: bs) = bs.foldl (fun n b => n * 256 + b.toNat) b.toNat := by simp [numberOf]
  rw [step, numberOf_foldl]

/-- A number's bytes spell what is left of it in their span. -/
theorem numberOf_bytesOf (count n : Nat) : numberOf (bytesOf count n) = n % 256 ^ count := by
  induction count with
  | zero => simp [bytesOf, numberOf, Nat.mod_one]
  | succ k ih =>
    have split : n % (256 ^ k * 256) = n % 256 ^ k + 256 ^ k * (n / 256 ^ k % 256) := Nat.mod_mul
    rw [bytesOf, numberOf_cons, ih, length_bytesOf, BitVec.toNat_ofNat, pow_succ 256 k, split, Nat.mul_comm, Nat.add_comm]

theorem numberAt_first (c n : Nat) (r : List Byte) : numberAt (bytesOf c n ++ r) 0 c = n % 256 ^ c := by
  rw [numberAt, List.drop_zero, List.take_left' (length_bytesOf c n), numberOf_bytesOf]

theorem numberAt_only (c n : Nat) : numberAt (bytesOf c n) 0 c = n % 256 ^ c := by
  have := numberAt_first c n []
  rwa [List.append_nil] at this

theorem numberAt_skip (l r : List Byte) (k c : Nat) (h : l.length ≤ k) :
    numberAt (l ++ r) k c = numberAt r (k - l.length) c := by
  rw [numberAt, numberAt, List.drop_append, List.drop_eq_nil_of_le h, List.nil_append]

theorem byteAt_skip (l r : List Byte) (k : Nat) (h : l.length ≤ k) : byteAt (l ++ r) k = byteAt r (k - l.length) := by
  rw [byteAt, byteAt, List.getD_append_right _ _ _ _ h]

@[simp] theorem byteAt_zero (b : Byte) (r : List Byte) : byteAt (b :: r) 0 = b := rfl

@[simp] theorem byteAt_succ (b : Byte) (r : List Byte) (k : Nat) : byteAt (b :: r) (k + 1) = byteAt r k := rfl

theorem bytesOf_one (n : Nat) : bytesOf 1 n = [BitVec.ofNat 8 n] := b1_eq n

/-- A field as wide as its bytes is read back. -/
theorem ofNat_toNat_mod {w : Nat} (x : BitVec w) {span : Nat} (h : span = 2 ^ w) : BitVec.ofNat w (x.toNat % span) = x := by
  rw [h, Nat.mod_eq_of_lt x.isLt, BitVec.ofNat_toNat, BitVec.setWidth_eq]

/-! ### Codes (R19) -/

theorem reasonOf_reasonCode (r : ReasonCode) : reasonOf (reasonCode r % 256) = some r := by cases r <;> rfl

theorem timingOf_timingCode (x : TimingState) : timingOf (timingCode x) = some x := by cases x <;> rfl

theorem directionOf_directionCode (d : Direction) : directionOf (directionCode d % 256) = some d := by cases d <;> rfl

theorem kindOf_kindCode (k : MsgKind) : kindOf (kindCode k) = some k := by cases k <;> rfl

theorem frameOf_val (x : FrameId) : frameOf (x.val % 256) = some x :=
  frameOf_eq_some (Nat.mod_eq_of_lt (by omega))

theorem triggerIdOf_triggerIdBits (t : TriggerId) : triggerIdOf (triggerIdBits t) = t := by
  obtain ⟨origin, serial⟩ := t
  have span : origin.val * 256 + serial.toNat < 2 ^ 16 := by have := serial.isLt; omega
  have number : (triggerIdBits ⟨origin, serial⟩).toNat = origin.val * 256 + serial.toNat := by
    rw [triggerIdBits, BitVec.toNat_ofNat, Nat.mod_eq_of_lt span]
  simp only [triggerIdOf, number]
  congr 1
  · apply Fin.ext
    change (origin.val * 256 + serial.toNat) / 256 % 32 = origin.val
    have := serial.isLt
    omega
  · apply BitVec.eq_of_toNat_eq
    rw [BitVec.toNat_ofNat]
    have := serial.isLt
    omega

/-! ### Messages (R11) -/

theorem length_msgFields (m : Msg) : (msgFields m).length + 2 = kindLength (msgKind m) := by
  cases m <;> simp [msgFields, msgKind, kindLength]

theorem msgBytes_eq (m : Msg) :
    msgBytes m = BitVec.ofNat 8 (kindCode (msgKind m)) :: BitVec.ofNat 8 (kindLength (msgKind m)) :: msgFields m := by
  simp [msgBytes, bytesOf_one]

theorem genAt_skip (l r : List Byte) (k : Nat) (h : l.length ≤ k) : genAt (l ++ r) k = genAt r (k - l.length) := by
  simp only [genAt, numberAt_skip l r k 1 h]

theorem genAt_first (gen : Gen) (r : List Byte) : genAt (bytesOf 1 gen.toNat ++ r) 0 = some gen := by
  have value : numberAt (bytesOf 1 gen.toNat ++ r) 0 1 = gen.toNat := by
    rw [numberAt_first, Nat.mod_eq_of_lt (by omega)]
  rw [genAt, value, if_pos (by omega), BitVec.ofNat_toNat, BitVec.setWidth_eq]

theorem genAt_only (gen : Gen) : genAt (bytesOf 1 gen.toNat) 0 = some gen := by
  have := genAt_first gen []
  rwa [List.append_nil] at this

theorem hopAt_skip (l r : List Byte) (k : Nat) (h : l.length ≤ k) : hopAt (l ++ r) k = hopAt r (k - l.length) := by
  simp only [hopAt, numberAt_skip l r k 1 h]

theorem hopAt_first {hop : Nat} (le : hop ≤ 30) (r : List Byte) : hopAt (bytesOf 1 hop ++ r) 0 = some hop := by
  have value : numberAt (bytesOf 1 hop ++ r) 0 1 = hop := by rw [numberAt_first, Nat.mod_eq_of_lt (by omega)]
  rw [hopAt, value]
  exact if_pos le

theorem hopAt_only {hop : Nat} (le : hop ≤ 30) : hopAt (bytesOf 1 hop) 0 = some hop := by
  have := hopAt_first le []
  rwa [List.append_nil] at this

theorem fieldStream_first (id : StreamId) (r : List Byte) : fieldStream (bytesOf 2 id.toNat ++ r) = id := by
  rw [fieldStream, numberAt_first, ofNat_toNat_mod id (by norm_num)]

theorem fieldTrigger_first {t : TriggerId} (r : List Byte) (h : t.wf = true) :
    fieldTrigger (bytesOf 2 (triggerIdBits t).toNat ++ r) = some t := by
  have named : t.origin ≠ 0 ∧ t.serial ≠ 0 := by simpa [TriggerId.wf] using h
  rw [fieldTrigger, numberAt_first, ofNat_toNat_mod _ (by norm_num), triggerIdOf_triggerIdBits]
  exact if_neg (by rintro (e | e) <;> [exact named.1 e; exact named.2 e])

theorem byteAt_first (n : Nat) (r : List Byte) : byteAt (bytesOf 1 n ++ r) 0 = BitVec.ofNat 8 n := by
  rw [bytesOf_one]
  rfl

theorem numberAt_succ (b : Byte) (r : List Byte) (k c : Nat) : numberAt (b :: r) (k + 1) c = numberAt r k c := rfl

theorem hopAt_succ (b : Byte) (r : List Byte) (k : Nat) : hopAt (b :: r) (k + 1) = hopAt r k := rfl

/-- The flags byte of an ANNOUNCE (R19). -/
theorem flags_of_byte (restart departing reference : Bool) :
    let b := BitVec.ofNat 8 (4 * bit restart + 2 * bit departing + bit reference)
    b[2] = restart ∧ b[1] = departing ∧ b[0] = reference := by
  cases restart <;> cases departing <;> cases reference <;> decide

/-- The fields of a message in range, read by its kind (R11). -/
theorem readFields_msgFields (m : Msg) (h : m.wf = true) : readFields (msgKind m) (msgFields m) = some m := by
  cases m with
  | setup m =>
    have hop : m.hop ≤ 30 := of_decide_eq_true h
    simp [readFields, msgKind, msgFields, List.append_assoc, fieldStream_first, numberAt_skip, numberAt_first, byteAt_skip,
      genAt_skip, genAt_first, hopAt_skip, hopAt_first hop, frameOf_val, ofNat_toNat_mod]
  | confirm id gen hop =>
    have hop : hop ≤ 30 := of_decide_eq_true h
    simp [readFields, msgKind, msgFields, List.append_assoc, fieldStream_first, genAt_skip, genAt_first, hopAt_skip,
      hopAt_only hop]
  | refuse id gen r x =>
    simp [readFields, msgKind, msgFields, List.append_assoc, fieldStream_first, numberAt_skip, numberAt_first, numberAt_only,
      genAt_skip, genAt_first, reasonOf_reasonCode, frameOf_val]
  | release id gen =>
    simp [readFields, msgKind, msgFields, fieldStream_first, genAt_skip, genAt_only]
  | break_ id gen r d =>
    simp [readFields, msgKind, msgFields, List.append_assoc, fieldStream_first, numberAt_skip, numberAt_first, numberAt_only,
      genAt_skip, genAt_first, reasonOf_reasonCode, directionOf_directionCode]
  | retune id gen rate c =>
    simp [readFields, msgKind, msgFields, List.append_assoc, fieldStream_first, numberAt_skip, numberAt_first, byteAt_skip,
      genAt_skip, genAt_first, ofNat_toNat_mod]
  | retuneOk id gen =>
    simp [readFields, msgKind, msgFields, fieldStream_first, genAt_skip, genAt_only]
  | retuneRefuse id gen r =>
    simp [readFields, msgKind, msgFields, List.append_assoc, fieldStream_first, numberAt_skip, numberAt_only, genAt_skip,
      genAt_first, reasonOf_reasonCode]
  | retuneCommit id gen e =>
    simp [readFields, msgKind, msgFields, List.append_assoc, fieldStream_first, numberAt_skip, numberAt_only, genAt_skip,
      genAt_first, ofNat_toNat_mod]
  | retuneAbort id gen =>
    simp [readFields, msgKind, msgFields, fieldStream_first, genAt_skip, genAt_only]
  | announce m =>
    obtain ⟨hops, priority⟩ : m.hops ≤ 30 ∧ m.priority ≤ 15 := of_decide_eq_true h
    obtain ⟨restart, departing, reference⟩ := flags_of_byte m.restart m.departing m.reference
    have number : m.priority % 256 = m.priority := Nat.mod_eq_of_lt (by omega)
    have timing : timingOf (timingCode m.timing % 256) = some m.timing := by cases m.timing <;> rfl
    simp [readFields, msgKind, msgFields, List.append_assoc, numberAt_skip, numberAt_succ, numberAt_first, numberAt_only,
      byteAt_skip, byteAt_first, hopAt_skip, hopAt_succ, hopAt_first hops, frameOf_val, number, priority, timing, restart,
      departing, reference]
  | trigger m =>
    simp only [Msg.wf, Bool.and_eq_true, decide_eq_true_eq] at h
    obtain ⟨id, tick, channel⟩ := h
    have number : m.fire.tick % 65536 = m.fire.tick := Nat.mod_eq_of_lt (by omega)
    have number' : m.channel % 256 = m.channel := Nat.mod_eq_of_lt (by omega)
    simp [readFields, msgKind, msgFields, List.append_assoc, fieldTrigger_first _ id, numberAt_skip, numberAt_first,
      numberAt_only, number, number', tick, channel, ofNat_toNat_mod]
  | cancel id =>
    have field := fieldTrigger_first [] h
    rw [List.append_nil] at field
    simp [readFields, msgKind, msgFields, field]

theorem numberAt_kind (m : Msg) (more : List Byte) : numberAt (msgBytes m ++ more) 0 1 = kindCode (msgKind m) := by
  rw [msgBytes, List.append_assoc, List.append_assoc, numberAt_first]
  cases m <;> rfl

theorem numberAt_length (m : Msg) (more : List Byte) : numberAt (msgBytes m ++ more) 1 1 = kindLength (msgKind m) := by
  rw [msgBytes, List.append_assoc, List.append_assoc, numberAt_skip _ _ _ _ (by simp), length_bytesOf, numberAt_first]
  cases m <;> rfl

theorem fields_of_msgBytes (m : Msg) (more : List Byte) :
    ((msgBytes m ++ more).take (kindLength (msgKind m))).drop 2 = msgFields m := by
  have length : (msgBytes m).length = kindLength (msgKind m) := by
    rw [← length_msgFields, msgBytes_eq, List.length_cons, List.length_cons]
  rw [List.take_left' length, msgBytes_eq]
  rfl

/-- Settles O6: kind and length bytes say which fields follow, and each is read at its place. -/
theorem messageBytesReadBack : Obligations.MessageBytesReadBack := by
  intro m more h
  simp only [readEnvelope, numberAt_kind, kindOf_kindCode, numberAt_length, if_true, fields_of_msgBytes,
    readFields_msgFields m h]

end Sys2Proof.Machine
end

section
/-! SUPPORT. The bytes of cells, markers and requests, read back (R4, R19, R20, R168, R169). -/

namespace Sys2Proof.Machine

open Sys2Proof

/-! ### Cells (R19) -/

/-- The first byte of a cell: kind, poison and late flags, generation. -/
def firstByte (h : CellHeader) : Byte :=
  BitVec.ofNat 8 (h.kind.code * 64 + bit h.poison * 32 + bit h.late * 16 + h.gen.toNat)

theorem headerBody_eq (h : CellHeader) :
    headerBody h = [firstByte h] ++ (bytesOf 2 h.id.toNat ++ (bytesOf 2 h.sequence.toNat ++
      (bytesOf 2 h.originEpoch.toNat ++ [h.samples, h.slot]))) := by
  simp [headerBody, bytesOf_one, firstByte]

@[simp] theorem length_headerBody (h : CellHeader) : (headerBody h).length = 9 := by
  simp [headerBody_eq]

theorem toNat_firstByte (h : CellHeader) :
    (firstByte h).toNat = h.kind.code * 64 + bit h.poison * 32 + bit h.late * 16 + h.gen.toNat := by
  have kind : h.kind.code ≤ 3 := by cases h.kind <;> decide
  have poison : bit h.poison ≤ 1 := by cases h.poison <;> decide
  have late : bit h.late ≤ 1 := by cases h.late <;> decide
  have gen := h.gen.isLt
  rw [firstByte, BitVec.toNat_ofNat, Nat.mod_eq_of_lt (by omega)]

theorem bit_eq_one (b : Bool) : decide (bit b = 1) = b := by cases b <;> rfl

theorem fields_of_firstByte (h : CellHeader) :
    cellKindOf ((firstByte h).toNat / 64) = h.kind ∧ (firstByte h).getLsbD 5 = h.poison ∧
      (firstByte h).getLsbD 4 = h.late ∧ (firstByte h).setWidth 4 = h.gen := by
  have poison : bit h.poison ≤ 1 := by cases h.poison <;> decide
  have late : bit h.late ≤ 1 := by cases h.late <;> decide
  have gen := h.gen.isLt
  refine ⟨?_, ?_, ?_, ?_⟩
  · have kind : (firstByte h).toNat / 64 = h.kind.code := by rw [toNat_firstByte]; omega
    rw [kind]
    cases h.kind <;> rfl
  · have place : (firstByte h).toNat / 2 ^ 5 % 2 = bit h.poison := by rw [toNat_firstByte]; omega
    rw [BitVec.getLsbD, Nat.testBit_eq_decide_div_mod_eq, place, bit_eq_one]
  · have place : (firstByte h).toNat / 2 ^ 4 % 2 = bit h.late := by rw [toNat_firstByte]; omega
    rw [BitVec.getLsbD, Nat.testBit_eq_decide_div_mod_eq, place, bit_eq_one]
  · apply BitVec.eq_of_toNat_eq
    rw [BitVec.toNat_setWidth, toNat_firstByte]
    omega

theorem padPayload_of_length {payload : List Byte} (h : payload.length = 116) : padPayload payload = payload :=
  List.take_left' h

/-- A cell, part by part: header, its check, payload, its check. -/
theorem cellBytes_eq (h : CellHeader) {payload : List Byte} (full : payload.length = 116) :
    cellBytes h payload = headerBody h ++ ([crc8 (headerBody h)] ++ (payload ++ bytesOf 2 (crc16 payload).toNat)) := by
  simp [cellBytes, padPayload_of_length full]

section Cells

variable (h : CellHeader) {payload : List Byte} (full : payload.length = 116)

include full

theorem length_cellBytes : (cellBytes h payload).length = 128 := by
  simp [cellBytes_eq h full, full]

theorem headerCheckOk_cellBytes : headerCheckOk (cellBytes h payload) = true := by
  have head : (cellBytes h payload).take 9 = headerBody h := by
    rw [cellBytes_eq h full, List.take_left' (length_headerBody h)]
  have check : byteAt (cellBytes h payload) 9 = crc8 (headerBody h) := by
    rw [cellBytes_eq h full, byteAt_skip _ _ _ (length_headerBody h).le, length_headerBody]
    rfl
  simp [headerCheckOk, head, check, length_cellBytes h full]

theorem readPayload_cellBytes : readPayload (cellBytes h payload) = payload := by
  have rest : (cellBytes h payload).drop 10 = payload ++ bytesOf 2 (crc16 payload).toNat := by
    rw [cellBytes_eq h full, ← List.append_assoc]
    exact List.drop_left' (by simp)
  rw [readPayload, rest]
  exact List.take_left' full

theorem payloadCheckOk_cellBytes : payloadCheckOk (cellBytes h payload) = true := by
  have check : numberAt (cellBytes h payload) 126 2 = (crc16 payload).toNat := by
    rw [cellBytes_eq h full, numberAt_skip _ _ _ _ (by simp), numberAt_skip _ _ _ _ (by simp),
      numberAt_skip _ _ _ _ (by simp [full])]
    simp only [length_headerBody, List.length_singleton, full]
    rw [numberAt_only, Nat.mod_eq_of_lt (by have := (crc16 payload).isLt; omega)]
  rw [payloadCheckOk, readPayload_cellBytes h full, check, beq_self_eq_true]

theorem readHeader_cellBytes : readHeader (cellBytes h payload) = h := by
  have first : byteAt (cellBytes h payload) 0 = firstByte h := by
    rw [cellBytes_eq h full, headerBody_eq]
    rfl
  obtain ⟨kind, poison, late, gen⟩ := fields_of_firstByte h
  rw [readHeader, first, kind, poison, late, gen, cellBytes_eq h full, headerBody_eq]
  simp [numberAt_skip, numberAt_first, numberAt_succ, byteAt_skip, ofNat_toNat_mod]

end Cells

/-! ### Markers (R20) -/

/-- The byte of a marker with its sender's identity. -/
def identityByte (m : Marker) : Byte := BitVec.ofNat 8 (m.frame.val * 8 + m.port.toNat)

/-- The last byte of a marker that its check is taken over. -/
def timingByte (m : Marker) : Byte :=
  BitVec.ofNat 8 (timingCode m.timing * 64 + bit m.echoValid * 32 + bit m.master * 16 + m.priority)

theorem markerBody_eq (m : Marker) (i : InfoBits) :
    markerBody m i = [128, infoByte i] ++ (bytesOf 6 m.epoch.toNat ++ ([identityByte m] ++ (bytesOf 3 m.tx.toNat ++
      (bytesOf 3 m.echoTx.toNat ++ (bytesOf 3 m.echoRx.toNat ++ [timingByte m]))))) := by
  simp [markerBody, bytesOf_one, identityByte, timingByte]

@[simp] theorem length_markerBody (m : Marker) (i : InfoBits) : (markerBody m i).length = 19 := by
  simp [markerBody_eq]

theorem toNat_identityByte (m : Marker) : (identityByte m).toNat = m.frame.val * 8 + m.port.toNat := by
  have := m.port.isLt
  rw [identityByte, BitVec.toNat_ofNat, Nat.mod_eq_of_lt (by omega)]

theorem toNat_timingByte {m : Marker} (h : m.priority ≤ 15) :
    (timingByte m).toNat = timingCode m.timing * 64 + bit m.echoValid * 32 + bit m.master * 16 + m.priority := by
  have timing : timingCode m.timing ≤ 3 := by cases m.timing <;> decide
  have echo : bit m.echoValid ≤ 1 := by cases m.echoValid <;> decide
  have master : bit m.master ≤ 1 := by cases m.master <;> decide
  rw [timingByte, BitVec.toNat_ofNat, Nat.mod_eq_of_lt (by omega)]

theorem fields_of_identityByte (m : Marker) :
    (identityByte m).toNat / 8 % 32 = m.frame.val ∧ (identityByte m).setWidth 3 = m.port := by
  have port := m.port.isLt
  constructor
  · rw [toNat_identityByte]
    omega
  · apply BitVec.eq_of_toNat_eq
    rw [BitVec.toNat_setWidth, toNat_identityByte]
    omega

theorem fields_of_timingByte {m : Marker} (h : m.priority ≤ 15) :
    timingOf ((timingByte m).toNat / 64) = some m.timing ∧ (timingByte m).getLsbD 5 = m.echoValid ∧
      (timingByte m).getLsbD 4 = m.master ∧ (timingByte m).toNat % 16 = m.priority := by
  have echo : bit m.echoValid ≤ 1 := by cases m.echoValid <;> decide
  have master : bit m.master ≤ 1 := by cases m.master <;> decide
  refine ⟨?_, ?_, ?_, ?_⟩
  · have timing : (timingByte m).toNat / 64 = timingCode m.timing := by rw [toNat_timingByte h]; omega
    rw [timing, timingOf_timingCode]
  · have place : (timingByte m).toNat / 2 ^ 5 % 2 = bit m.echoValid := by rw [toNat_timingByte h]; omega
    rw [BitVec.getLsbD, Nat.testBit_eq_decide_div_mod_eq, place, bit_eq_one]
  · have place : (timingByte m).toNat / 2 ^ 4 % 2 = bit m.master := by rw [toNat_timingByte h]; omega
    rw [BitVec.getLsbD, Nat.testBit_eq_decide_div_mod_eq, place, bit_eq_one]
  · rw [toNat_timingByte h]
    omega

section Markers

variable (m : Marker) (i : InfoBits)

theorem byteAt_markerBytes_one : byteAt (markerBytes m i) 1 = infoByte i := by
  rw [markerBytes, markerBody_eq]
  rfl

theorem byteAt_markerBytes_eight : byteAt (markerBytes m i) 8 = identityByte m := by
  rw [markerBytes, markerBody_eq]
  simp [byteAt_skip]

theorem byteAt_markerBytes_last : byteAt (markerBytes m i) 18 = timingByte m := by
  rw [markerBytes, markerBody_eq]
  simp [byteAt_skip]

theorem readMarker_markerBytes (h : m.priority ≤ 15) : readMarker (markerBytes m i) = m := by
  obtain ⟨frame, port⟩ := fields_of_identityByte m
  obtain ⟨timing, echo, master, priority⟩ := fields_of_timingByte h
  simp only [readMarker, byteAt_markerBytes_eight, byteAt_markerBytes_last, frame, port, timing, echo, master, priority,
    Option.getD_some]
  simp [markerBytes, markerBody_eq, numberAt_skip, numberAt_first, numberAt_succ, ofNat_toNat_mod]

theorem failedCheck_markerBytes {x : Port} (h : m.priority ≤ 15) (parity : i.epochOdd = m.epoch.getLsbD 0)
    (known : x.neighbour = none ∨ x.neighbour = some ⟨m.frame, m.port⟩) : failedCheck x (markerBytes m i) i = none := by
  have body : ((markerBytes m i).take 19).set 1 (infoByte i) = markerBody m i := by
    rw [markerBytes, List.take_left' (length_markerBody m i), markerBody_eq]
    rfl
  have check : numberAt (markerBytes m i) 19 2 = (crc16 (markerBody m i)).toNat := by
    rw [markerBytes, numberAt_skip _ _ _ _ (by simp), length_markerBody, numberAt_only,
      Nat.mod_eq_of_lt (by have := (crc16 (markerBody m i)).isLt; omega)]
  have kind : byteAt (markerBytes m i) 0 = 128 := by
    rw [markerBytes, markerBody_eq]
    rfl
  have same : ¬ x.neighbour.any (fun n => n != ⟨m.frame, m.port⟩) = true := by
    rcases known with e | e <;> simp [e]
  simp only [failedCheck, body, check, kind, readMarker_markerBytes m i h, parity]
  rw [if_neg (by simp), if_neg (by decide), if_neg (by simp), if_neg same]

end Markers

/-- Settles O7: each field stands at its place, and both checks are taken over what was sent. -/
theorem cellsAndMarkersReadBack : Obligations.CellsAndMarkersReadBack := by
  refine ⟨fun h payload full => ⟨length_cellBytes h full, headerCheckOk_cellBytes h full, payloadCheckOk_cellBytes h full,
    readHeader_cellBytes h full, readPayload_cellBytes h full⟩,
    fun x m i priority parity known => ⟨?_, readMarker_markerBytes m i priority, ?_,
      failedCheck_markerBytes m i priority parity known⟩⟩
  · simp [markerBytes]
  · rw [byteAt_markerBytes_one]
    exact (infoByteErrors i).1

/-! ### Requests (R168, R169) -/

theorem bytesOf_two (n : Nat) : bytesOf 2 n = [BitVec.ofNat 8 (n / 256), BitVec.ofNat 8 n] := b2_eq n

theorem word16_of_bytes (v : BitVec 16) : word16 (BitVec.ofNat 8 (v.toNat / 256)) (v.setWidth 8) = v := by
  rw [word16, ← BitVec.ofNat_toNat, ← bytesOf_two, numberOf_bytesOf, ofNat_toNat_mod v (by norm_num)]

theorem bytesOf_four (n : Nat) :
    bytesOf 4 n = [BitVec.ofNat 8 (n / 16777216), BitVec.ofNat 8 (n / 65536), BitVec.ofNat 8 (n / 256), BitVec.ofNat 8 n] := by
  simp [bytesOf]

theorem word32_of_bytes (v : BitVec 32) :
    word32 (BitVec.ofNat 8 (v.toNat / 16777216)) (BitVec.ofNat 8 (v.toNat / 65536)) (BitVec.ofNat 8 (v.toNat / 256))
      (v.setWidth 8) = v := by
  rw [word32, ← BitVec.ofNat_toNat, ← bytesOf_four, numberOf_bytesOf, ofNat_toNat_mod v (by norm_num)]

theorem bytesOf_six (n : Nat) :
    bytesOf 6 n = [BitVec.ofNat 8 (n / 1099511627776), BitVec.ofNat 8 (n / 4294967296), BitVec.ofNat 8 (n / 16777216),
      BitVec.ofNat 8 (n / 65536), BitVec.ofNat 8 (n / 256), BitVec.ofNat 8 n] := by
  simp [bytesOf]

theorem word48_of_bytes (v : BitVec 48) :
    word48 (BitVec.ofNat 8 (v.toNat / 1099511627776)) (BitVec.ofNat 8 (v.toNat / 4294967296))
      (BitVec.ofNat 8 (v.toNat / 16777216)) (BitVec.ofNat 8 (v.toNat / 65536)) (BitVec.ofNat 8 (v.toNat / 256))
      (v.setWidth 8) = v := by
  rw [word48, ← BitVec.ofNat_toNat, ← bytesOf_six, numberOf_bytesOf, ofNat_toNat_mod v (by norm_num)]

theorem readOptional_optionalBytes (v : Option (BitVec 16)) : readOptional (optionalBytes v) = some v := by
  cases v with
  | none => rfl
  | some v => simp [optionalBytes, bytesOf_two, readOptional, word16_of_bytes]

theorem readSelector_selectorBytes (v : Option Byte) : readSelector (selectorBytes v) = some v := by
  cases v <;> rfl

theorem readItem_itemBytes (i : ConfigItem) (rest : List Byte) : readItem (itemBytes i ++ rest) = some (i, rest) := by
  cases i <;> rfl

theorem length_optionalBytes (v : Option (BitVec 16)) : (optionalBytes v).length ≤ 3 := by
  cases v <;> simp [optionalBytes]

theorem length_selectorBytes (v : Option Byte) : (selectorBytes v).length ≤ 2 := by
  cases v <;> simp [selectorBytes]

theorem length_itemBytes (i : ConfigItem) : (itemBytes i).length ≤ 2 := by
  cases i <;> simp [itemBytes]

theorem readSetConfig_of_item (i : ConfigItem) (v : BitVec 16) :
    readSetConfig (itemBytes i ++ bytesOf 2 v.toNat) = some (setConfigOf i v) := by
  simp [readSetConfig, readItem_itemBytes, bytesOf_two, word16_of_bytes]

theorem readGetConfig_of_item (i : ConfigItem) : readGetConfig (0 :: itemBytes i) = some (.getConfig (some i)) := by
  have item := readItem_itemBytes i []
  rw [List.append_nil] at item
  simp [readGetConfig, item]

theorem readOpenStream_of_fields (lane terminal size budget reroute : Byte) (rate : BitVec 32)
    (limit : Option (BitVec 16)) :
    readOpenStream ([lane, terminal] ++ bytesOf 4 rate.toNat ++ [size, budget] ++ optionalBytes limit ++ [reroute]) =
      some (.openStream lane terminal rate size budget limit reroute) := by
  simp [readOpenStream, bytesOf_four, word32_of_bytes, readOptional_optionalBytes]

theorem readAttachSink_of_fields (id : StreamId) (lane mode threshold : Byte) (block : BitVec 16)
    (start : Option (BitVec 16)) :
    readAttachSink (bytesOf 2 id.toNat ++ [lane, mode] ++ bytesOf 2 block.toNat ++ [threshold] ++ optionalBytes start) =
      some (.attachSink id lane mode block threshold start) := by
  simp [readAttachSink, bytesOf_two, word16_of_bytes, readOptional_optionalBytes]

/-- A request of one kind with the fields of its bytes (R168). -/
structure ReadsBack (i : Instr) (kind : Nat) (fields : List Byte) : Prop where
  kind_lt : kind < 256
  length_lt : fields.length < 256
  read : readRequest (BitVec.ofNat 8 kind) fields = some i

theorem setConfig_readsBack (i : ConfigItem) (v : BitVec 16) :
    ReadsBack (setConfigOf i v) 2 (itemBytes i ++ bytesOf 2 v.toNat) where
  kind_lt := by decide
  length_lt := by
    have := length_itemBytes i
    rw [List.length_append, length_bytesOf]
    omega
  read := readSetConfig_of_item i v

/-- A request of one 16-bit field. -/
theorem readRequest_of_word {k : Nat} {c : BitVec 16 → Instr}
    (h : ∀ a b, readRequest (BitVec.ofNat 8 k) [a, b] = some (c (word16 a b))) (v : BitVec 16) :
    readRequest (BitVec.ofNat 8 k) (bytesOf 2 v.toNat) = some (c v) := by
  rw [bytesOf_two, h, BitVec.ofNat_toNat, word16_of_bytes]

theorem readSchedule_of_epoch (channel : Byte) (tick : BitVec 16) (e : Epoch) :
    readSchedule ([channel] ++ bytesOf 2 tick.toNat ++ [0] ++ bytesOf 6 e.toNat) =
      some (.scheduleTrigger channel tick (.epoch e)) := by
  simp [readSchedule, bytesOf_two, bytesOf_six, word16_of_bytes, word48_of_bytes]

theorem readSchedule_of_lead (channel : Byte) (tick n : BitVec 16) :
    readSchedule ([channel] ++ bytesOf 2 tick.toNat ++ [1] ++ bytesOf 2 n.toNat) =
      some (.scheduleTrigger channel tick (.lead n)) := by
  simp [readSchedule, bytesOf_two, word16_of_bytes]

theorem readGetTrigger_of_id (id : BitVec 16) : readGetTrigger (0 :: bytesOf 2 id.toNat) = some (.getTrigger (.id id)) := by
  simp [readGetTrigger, bytesOf_two, word16_of_bytes]

theorem readRequest_retuneStream (id : StreamId) (rate : BitVec 32) :
    readRequest (BitVec.ofNat 8 15) (bytesOf 2 id.toNat ++ bytesOf 4 rate.toNat) = some (.retuneStream id rate) := by
  have fields (a b c d e g : Byte) :
      readRequest (BitVec.ofNat 8 15) [a, b, c, d, e, g] = some (.retuneStream (word16 a b) (word32 c d e g)) := rfl
  rw [bytesOf_two, bytesOf_four]
  exact (fields ..).trans (by rw [BitVec.ofNat_toNat, BitVec.ofNat_toNat, word16_of_bytes, word32_of_bytes])

theorem readRequest_armInput (input channel mode : Byte) (lead : BitVec 16) :
    readRequest (BitVec.ofNat 8 24) ([input] ++ bytesOf 2 lead.toNat ++ [channel, mode]) =
      some (.armInput input lead channel mode) := by
  have fields (i a b c m : Byte) :
      readRequest (BitVec.ofNat 8 24) [i, a, b, c, m] = some (.armInput i (word16 a b) c m) := rfl
  rw [bytesOf_two]
  exact (fields ..).trans (by rw [BitVec.ofNat_toNat, word16_of_bytes])

theorem scheduleTrigger_readsBack (channel : Byte) (tick : BitVec 16) (w : FireWhen) (k : Nat) (f : List Byte)
    (h : requestBytes (.scheduleTrigger channel tick w) = some (k, f)) : ReadsBack (.scheduleTrigger channel tick w) k f := by
  cases w with
  | epoch e =>
    obtain ⟨rfl, rfl⟩ := Prod.mk.inj (Option.some.inj h)
    exact ⟨by decide, by simp, readSchedule_of_epoch channel tick e⟩
  | lead n =>
    obtain ⟨rfl, rfl⟩ := Prod.mk.inj (Option.some.inj h)
    exact ⟨by decide, by simp, readSchedule_of_lead channel tick n⟩

theorem getTrigger_readsBack (x : TriggerSelector) (k : Nat) (f : List Byte)
    (h : requestBytes (.getTrigger x) = some (k, f)) : ReadsBack (.getTrigger x) k f := by
  cases x with
  | id id =>
    obtain ⟨rfl, rfl⟩ := Prod.mk.inj (Option.some.inj h)
    exact ⟨by decide, by simp, readGetTrigger_of_id id⟩
  | position n =>
    obtain ⟨rfl, rfl⟩ := Prod.mk.inj (Option.some.inj h)
    exact ⟨by decide, by simp, rfl⟩
  | summary =>
    obtain ⟨rfl, rfl⟩ := Prod.mk.inj (Option.some.inj h)
    exact ⟨by decide, by simp, rfl⟩

theorem getConfig_readsBack (x : Option ConfigItem) (k : Nat) (f : List Byte)
    (h : requestBytes (.getConfig x) = some (k, f)) : ReadsBack (.getConfig x) k f := by
  cases x with
  | none =>
    obtain ⟨rfl, rfl⟩ := Prod.mk.inj (Option.some.inj h)
    exact ⟨by decide, by simp, rfl⟩
  | some i =>
    obtain ⟨rfl, rfl⟩ := Prod.mk.inj (Option.some.inj h)
    have := length_itemBytes i
    exact ⟨by decide, by rw [List.length_cons]; omega, readGetConfig_of_item i⟩

/-- Fields of fixed length and selectors, each read at its place. -/
theorem requestBytes_readsBack (i : Instr) (k : Nat) (f : List Byte) (h : requestBytes i = some (k, f)) : ReadsBack i k f := by
  cases i
  case getConfig x => exact getConfig_readsBack x k f h
  case scheduleTrigger channel tick w => exact scheduleTrigger_readsBack channel tick w k f h
  case getTrigger x => exact getTrigger_readsBack x k f h
  all_goals
    try cases h
  case identify | cancelDepart | getTiming | restartTiming | clearStreams | readNotices | resetDevice =>
    exact ⟨by decide, by decide, rfl⟩
  case getPort | resetPort | getFrame | nextStream | detachSink | disarmInput => exact ⟨by decide, by simp, rfl⟩
  case setConfigFrameId v => exact setConfig_readsBack .frameId v
  case setConfigTimingPriority v => exact setConfig_readsBack .timingPriority v
  case setConfigUseReference v => exact setConfig_readsBack .useReference v
  case setConfigHoldoverLimit v => exact setConfig_readsBack .holdoverLimit v
  case setConfigDrainDefault v => exact setConfig_readsBack .drainDefault v
  case setConfigSuspendDefault v => exact setConfig_readsBack .suspendDefault v
  case setConfigNoticeMask v => exact setConfig_readsBack .noticeMask v
  case setConfigNoticeLevel n v => exact setConfig_readsBack (.noticeLevel n) v
  case setConfigChannelMap n v => exact setConfig_readsBack (.channelMap n) v
  case lookupStream id => exact ⟨by decide, by simp, readRequest_of_word (fun _ _ => rfl) id⟩
  case closeStream id => exact ⟨by decide, by simp, readRequest_of_word (fun _ _ => rfl) id⟩
  case cancelTrigger id => exact ⟨by decide, by simp, readRequest_of_word (fun _ _ => rfl) id⟩
  case retuneStream id rate => exact ⟨by decide, by simp, readRequest_retuneStream id rate⟩
  case armInput input lead channel mode => exact ⟨by decide, by simp, readRequest_armInput input channel mode lead⟩
  case depart count =>
    have := length_optionalBytes count
    exact ⟨by decide, by omega, congrArg (Option.map _) (readOptional_optionalBytes count)⟩
  case armSink start =>
    have := length_optionalBytes start
    exact ⟨by decide, by rw [List.length_cons]; omega, congrArg (Option.map _) (readOptional_optionalBytes start)⟩
  case openStream limit reroute =>
    have := length_optionalBytes limit
    exact ⟨by decide, by simp; omega, readOpenStream_of_fields ..⟩
  case attachSink start =>
    have := length_optionalBytes start
    exact ⟨by decide, by simp; omega, readAttachSink_of_fields ..⟩
  case getSink x | readCapture x | clearCapture x =>
    have := length_selectorBytes x
    exact ⟨by decide, by omega, congrArg (Option.map _) (readSelector_selectorBytes x)⟩

/-- Settles O5: kind and length bytes say which fields follow, and what follows them is not read. -/
theorem requestBytesReadBack : Obligations.RequestBytesReadBack := by
  intro i bs more h
  obtain ⟨⟨k, f⟩, request, rfl⟩ := Option.map_eq_some_iff.1 h
  obtain ⟨-, length, read⟩ := requestBytes_readsBack i k f request
  have number : (BitVec.ofNat 8 f.length).toNat = f.length := by
    rw [BitVec.toNat_ofNat, Nat.mod_eq_of_lt (by omega)]
  simp [bytesOf_one, readTransaction, number, read]

end Sys2Proof.Machine
end

section
/-! SUPPORT. Triggers as they are scheduled, cancelled and passed on (R79 to R84), and the requests on sinks (R148, R149,
R156). -/

namespace Sys2Proof.Machine

open Sys2Proof

/-! ### Rules of notices -/

@[simp] theorem port_raise (k : NoticeKind) (s : State) (p : PortId) : (raise k s).port p = s.port p := rfl

section RaiseIf

variable (b : Bool) (k : NoticeKind) (s : State)

@[simp] theorem raiseIf_ports : (raiseIf b k s).ports = s.ports := by cases b <;> rfl
@[simp] theorem raiseIf_inbox : (raiseIf b k s).inbox = s.inbox := by cases b <;> rfl
@[simp] theorem raiseIf_clock : (raiseIf b k s).clock = s.clock := by cases b <;> rfl
@[simp] theorem raiseIf_time : (raiseIf b k s).time = s.time := by cases b <;> rfl
@[simp] theorem raiseIf_dir : (raiseIf b k s).dir = s.dir := by cases b <;> rfl
@[simp] theorem raiseIf_swap : (raiseIf b k s).swap = s.swap := by cases b <;> rfl
@[simp] theorem raiseIf_trig : (raiseIf b k s).trig = s.trig := by cases b <;> rfl
@[simp] theorem raiseIf_streams : (raiseIf b k s).streams = s.streams := by cases b <;> rfl
@[simp] theorem raiseIf_sinks : (raiseIf b k s).sinks = s.sinks := by cases b <;> rfl
@[simp] theorem raiseIf_captures : (raiseIf b k s).captures = s.captures := by cases b <;> rfl
@[simp] theorem raiseIf_lane : (raiseIf b k s).lane = s.lane := by cases b <;> rfl
@[simp] theorem raiseIf_pins : (raiseIf b k s).pins = s.pins := by cases b <;> rfl
@[simp] theorem port_raiseIf (p : PortId) : (raiseIf b k s).port p = s.port p := by cases b <;> rfl

theorem raiseIf_flag (j : NoticeKind) :
    (raiseIf b k s).req.pending.get j = (s.req.pending.get j || (b && decide (j = k))) := by
  cases b <;> simp [raiseIf, raise_flag]

/-- A raised notice changes the Request Port alone. -/
theorem raise_frame : changesOnly [.req] s (raise k s) := by rintro ⟨⟩ h <;> first | rfl | simp at h

theorem raiseIf_frame : changesOnly [.req] s (raiseIf b k s) := by
  cases b
  · exact changesOnly.refl _ s
  · exact raise_frame k s

end RaiseIf

theorem noticesOnly.raiseIf (b : Bool) (k : NoticeKind) (s : State) : noticesOnly s (raiseIf b k s) := by
  cases b
  · exact noticesOnly.refl s
  · exact noticesOnly.raise k s

/-! ### Floods of TRIGGER and CANCEL (R15) -/

/-- What offers of a TRIGGER or CANCEL can change: flood queues, and a capture where a queue is full. -/
structure FloodEffects (s t : State) : Prop where
  pieces : changesOnly [.ports, .captures, .req] s t
  notices : noticesOnly s t
  flags : ∀ k, k ≠ .capture → t.req.pending.get k = s.req.pending.get k

theorem FloodEffects.refl (s : State) : FloodEffects s s := ⟨changesOnly.refl _ s, noticesOnly.refl s, fun _ _ => rfl⟩

theorem FloodEffects.trans {s t u : State} (h : FloodEffects s t) (k : FloodEffects t u) : FloodEffects s u :=
  ⟨h.pieces.trans k.pieces, h.notices.trans k.notices, fun j hj => (k.flags j hj).trans (h.flags j hj)⟩

theorem protocolError_flood (c : ProtocolCause) (m : Msg) (p : PortId) (s : State) : FloodEffects s (protocolError c m p s) where
  pieces := changesOnly.mono (raiseIf_capture_frame _ s _) (by simp)
  notices := (protocolError_effects c m p s).notices
  flags := fun k hk => by simp [protocolError, captureProtocol, raiseIf_flag, hk]

@[simp] theorem port_protocolError (c : ProtocolCause) (m : Msg) (p q : PortId) (s : State) :
    (protocolError c m p s).port q = s.port q := port_raiseIf _ _ _ q

/-- A port that a TRIGGER or CANCEL is offered to (R15). -/
def floodedWith (m : Msg) (x : Port) : Port :=
  if takesOffers x.state = true ∧ x.floodQueue.length < 8 then { x with floodQueue := x.floodQueue ++ [m] } else x

theorem floodedWith_of_admitted (m : Msg) {x : Port} (h : x.state = .admitted) :
    floodedWith m x = if x.floodQueue.length < 8 then { x with floodQueue := x.floodQueue ++ [m] } else x := by
  simp [floodedWith, takesOffers, h]

theorem port_offerFlood (m : Msg) (p : PortId) (s : State) (q : PortId) :
    (offerFlood m p s).port q = if q = p then floodedWith m (s.port q) else s.port q := by
  have size : Figures.floodQueueSize = 8 := rfl
  unfold offerFlood floodedWith
  by_cases e : q = p
  · subst e
    cases takesOffers (s.port q).state
    · simp
    · by_cases room : (s.port q).floodQueue.length < 8 <;> simp [size, room]
  · cases takesOffers (s.port p).state
    · simp [e]
    · by_cases room : (s.port p).floodQueue.length < 8 <;> simp [size, room, e, port_setPort_of_ne]

theorem offerFlood_flood (m : Msg) (p : PortId) (s : State) : FloodEffects s (offerFlood m p s) := by
  unfold offerFlood
  split
  · exact FloodEffects.refl s
  · split
    · exact ⟨(by rintro ⟨⟩ h <;> first | rfl | simp at h), noticesOnly.of_req rfl, fun _ _ => rfl⟩
    · exact protocolError_flood _ _ _ s

theorem offerAll_flood (m : Msg) (ps : List PortId) (s : State) : FloodEffects s (offerAll (offerFlood m) ps s) := by
  unfold offerAll
  induction ps generalizing s with
  | nil => exact FloodEffects.refl s
  | cons p ps ih => exact (offerFlood_flood m p s).trans (ih _)

theorem port_offerAll_flood (m : Msg) {ps : List PortId} (nodup : ps.Nodup) (s : State) (q : PortId) :
    (offerAll (offerFlood m) ps s).port q = if q ∈ ps then floodedWith m (s.port q) else s.port q :=
  port_foldl (port_offerFlood m) nodup s q

theorem nodup_admittedPorts (s : State) : (admittedPorts s).Nodup := nodup_allPorts.filter _

theorem mem_otherAdmitted {s : State} {p q : PortId} : q ∈ otherAdmitted p s ↔ (s.port q).state = .admitted ∧ q ≠ p := by
  simp [otherAdmitted, mem_admittedPorts]

/-- A flood to every ADMITTED port. -/
theorem port_flood_admitted (m : Msg) {s u : State} (ports : u.ports = s.ports) (q : PortId) :
    (offerAll (offerFlood m) (admittedPorts u) u).port q =
      if (s.port q).state = .admitted ∧ (s.port q).floodQueue.length < 8 then
        { s.port q with floodQueue := (s.port q).floodQueue ++ [m] }
      else s.port q := by
  rw [port_offerAll_flood m (nodup_admittedPorts u), port_of_ports ports]
  simp only [mem_admittedPorts, port_of_ports ports]
  by_cases state : (s.port q).state = .admitted
  · simp [floodedWith_of_admitted m state, state]
  · simp [state]

/-- A flood to every ADMITTED port but one. -/
theorem port_flood_others (m : Msg) {s u : State} (ports : u.ports = s.ports) (p q : PortId) :
    (offerAll (offerFlood m) (otherAdmitted p u) u).port q =
      if (s.port q).state = .admitted ∧ q ≠ p ∧ (s.port q).floodQueue.length < 8 then
        { s.port q with floodQueue := (s.port q).floodQueue ++ [m] }
      else s.port q := by
  have nodup : (otherAdmitted p u).Nodup := (nodup_admittedPorts u).filter _
  rw [port_offerAll_flood m nodup, port_of_ports ports]
  simp only [mem_otherAdmitted, port_of_ports ports]
  by_cases state : (s.port q).state = .admitted
  · by_cases other : q = p
    · simp [other]
    · simp [floodedWith_of_admitted m state, state, other]
  · simp [state]

/-! ### The table (R79) -/

theorem makeRoom_of_room {s : State} (h : s.trig.table.length < 32) : makeRoom s = s := if_pos h

theorem canStore_of_room {s : State} (h : s.trig.table.length < 32) : canStore s = true := by
  simp [canStore, Figures.triggerEntries, h]

theorem storeTrigger_of_room (e : TriggerEntry) {s : State} (h : s.trig.table.length < 32) :
    storeTrigger e s = s.setTrig { s.trig with table := insertBy entryBefore e s.trig.table } := by
  rw [storeTrigger, if_pos (canStore_of_room h), insertEntry, makeRoom_of_room h]

/-- In a table that holds no entry of an id, the one inserted is the one found. -/
theorem triggerAt_insertBy {table : List TriggerEntry} (e : TriggerEntry) (fresh : ∀ x ∈ table, x.id ≠ e.id) :
    (insertBy entryBefore e table).find? (fun x => x.id == e.id) = some e := by
  induction table with
  | nil => simp [insertBy]
  | cons x table ih =>
    unfold insertBy
    split
    · simp
    · have other : ¬ (x.id == e.id) = true := by simpa using fresh x List.mem_cons_self
      refine (List.find?_cons_of_neg (l := insertBy entryBefore e table) other).trans ?_
      exact ih fun y hy => fresh y (List.mem_cons_of_mem _ hy)

theorem setTrig_frame (s : State) (t : TriggerUnit) : changesOnly [.trig] s (s.setTrig t) := by
  rintro ⟨⟩ h <;> first | rfl | simp at h

/-- A trigger created where the table has room (R81). -/
theorem createTrigger_of_room (fire : RackTime) (channel : Nat) {s : State} (room : s.trig.table.length < 32) :
    let id : TriggerId := ⟨ownFrame s, nextTriggerSerial s⟩
    let u := s.setTrig { s.trig with
      serial := id.serial, table := insertBy entryBefore ⟨id, fire, channel, .armed⟩ s.trig.table }
    createTrigger fire channel s = offerAll (offerFlood (.trigger ⟨id, fire, channel⟩)) (admittedPorts u) u := by
  unfold createTrigger
  dsimp only
  rw [storeTrigger_of_room _ (by exact room)]
  rfl

/-! ### SCHEDULE_TRIGGER (R81) -/

/-- The checks of SCHEDULE_TRIGGER passed, with room in the table. -/
theorem exec_scheduleTrigger_of_checks {s : State} {channel : Byte} {tick : BitVec 16} {w : FireWhen}
    (run : s.pins.reset = false) (channel_le : channel.toNat ≤ 7) (tick_le : tick.toNat ≤ 8191) (named : ownFrame s ≠ 0)
    (time : timed s = true) (lead : leadAdmits s w = true) (room : s.trig.table.length < 32) :
    exec (.scheduleTrigger channel tick w) s =
      .next (withAnswer (createTrigger ⟨fireEpoch s w, tick.toNat⟩ channel.toNat s) .ok
        (.scheduled ⟨ownFrame s, nextTriggerSerial s⟩ (fireEpoch s w))) := by
  have arm : exec (.scheduleTrigger channel tick w) s = execScheduleTrigger channel tick w s := rfl
  rw [arm, execScheduleTrigger, request_of_run _ _ run, if_neg (by omega), if_neg named, if_neg (by simp [time]),
    if_neg (by simp [lead]), if_neg (by simp [canStore_of_room room]), answer_eq]

/-- Settles O34: with its checks passed the request is the creation of a trigger, where the table has room. -/
theorem triggerScheduled : Obligations.TriggerScheduled := by
  intro s channel tick w e run channel_le tick_le named time when_ge lead_ge lead_le room
  obtain ⟨epoch, lead⟩ : fireEpoch s w = e ∧ leadAdmits s w = true := by
    rcases when_ge with rfl | ⟨n, rfl, rfl⟩
    · exact ⟨rfl, decide_eq_true ⟨lead_ge, lead_le⟩⟩
    · refine ⟨rfl, decide_eq_true ?_⟩
      rw [add_sub_cancel_left, BitVec.toNat_setWidth] at lead_ge
      exact lead_ge.trans (Nat.mod_le _ _)
  have made := createTrigger_of_room ⟨e, tick.toNat⟩ channel.toNat room
  have reply := exec_scheduleTrigger_of_checks run channel_le tick_le named time lead room
  rw [epoch, made] at reply
  have flood := offerAll_flood (.trigger ⟨⟨ownFrame s, nextTriggerSerial s⟩, ⟨e, tick.toNat⟩, channel.toNat⟩)
  refine ⟨_, reply, (flood _ _).pieces .trig (by simp), fun p => port_flood_admitted _ rfl p, ?_, ?_, ?_⟩
  · exact (noticesOnly.of_req rfl).trans (flood _ _).notices
  · exact (flood _ _).flags .trigger (by simp)
  · exact ((setTrig_frame _ _).mono (by simp)).trans ((flood _ _).pieces.mono (by simp))

/-! ### Cancellation (R82, R84) -/

theorem reportTrigger_frame (id : TriggerId) (s : State) : changesOnly [.sinks, .req] s (reportTrigger id s) := by
  refine changesOnly.trans (t := { s with sinks := (reportTrigger id s).sinks }) ?_ ?_
  · rintro ⟨⟩ h <;> first | rfl | simp at h
  · unfold reportTrigger
    rw [raiseIf_sinks]
    exact (raiseIf_frame _ _ _).mono (by simp)

theorem reportTrigger_sinks (id : TriggerId) (s : State) :
    (reportTrigger id s).sinks = s.sinks.map fun x =>
      if x.state = .waiting ∧ x.start = some (.trigger id) then { x with start := some .lost } else x := by
  simp [reportTrigger]

theorem reportTrigger_notices (id : TriggerId) (s : State) : noticesOnly s (reportTrigger id s) :=
  (noticesOnly.of_req (t := { s with sinks := _ }) rfl).trans (noticesOnly.raiseIf _ _ _)

/-- The table with the entries of one id in another state. -/
def withTriggerState (id : TriggerId) (x : TriggerState) (t : TriggerUnit) : TriggerUnit :=
  { t with table := t.table.map fun e => if e.id = id then { e with state := x } else e }

/-- What a cancelled entry leaves, before the CANCEL is passed on. -/
structure Cancelled (id : TriggerId) (s t : State) : Prop where
  trig : t.trig = withTriggerState id .cancelled s.trig
  sinks : t.sinks = s.sinks.map fun x =>
    if x.state = .waiting ∧ x.start = some (.trigger id) then { x with start := some .lost } else x
  flag : t.req.pending.get .trigger = true
  notices : noticesOnly s t
  pieces : changesOnly [.trig, .sinks, .req] s t

theorem cancelEntry_cancelled (id : TriggerId) (s : State) : Cancelled id s (cancelEntry id s) where
  trig := reportTrigger_frame id (setTriggerState id .cancelled s) .trig (by simp)
  sinks := reportTrigger_sinks id _
  flag := by simp [cancelEntry, raise_flag]
  notices := ((noticesOnly.of_req rfl).trans (reportTrigger_notices id (setTriggerState id .cancelled s))).trans
    (noticesOnly.raise _ _)
  pieces := ((changesOnly.mono (setTrig_frame s _) (by simp)).trans ((reportTrigger_frame id _).mono (by simp))).trans
    ((raise_frame .trigger _).mono (by simp))

theorem isArmed_iff (e : TriggerEntry) : isArmed e = true ↔ e.state = .armed := by simp [isArmed]

section Cancelling

variable {s : State} (run : s.pins.reset = false)

include run

theorem exec_cancelTrigger (bits : BitVec 16) :
    exec (.cancelTrigger bits) s = .next (match triggerAt s (triggerIdOf bits) with
      | none => withAnswer s .notFound .empty
      | some e =>
        if e.state = .armed then
          withAnswer (offerAll (offerFlood (.cancel (triggerIdOf bits))) (admittedPorts (cancelEntry (triggerIdOf bits) s))
            (cancelEntry (triggerIdOf bits) s)) .ok .empty
        else withAnswer s .busy (.triggerState e.state)) := by
  have arm : exec (.cancelTrigger bits) s = execCancelTrigger bits s := rfl
  rw [arm, execCancelTrigger, request_of_run _ _ run]
  dsimp only
  cases triggerAt s (triggerIdOf bits) with
  | none => rfl
  | some e => by_cases state : e.state = .armed <;> simp [isArmed, state, answer_eq]

theorem exec_cancel (p : PortId) (id : TriggerId) :
    exec (.cancel p id) s = .next (match triggerAt s id with
      | none => takeMessage p (.cancel id) s
      | some e =>
        if e.state = .armed then
          offerAll (offerFlood (.cancel id)) (otherAdmitted p (cancelEntry id (takeMessage p (.cancel id) s)))
            (cancelEntry id (takeMessage p (.cancel id) s))
        else takeMessage p (.cancel id) s) := by
  have arm : exec (.cancel p id) s = execCancel p id s := rfl
  have same : triggerAt (takeMessage p (.cancel id) s) id = triggerAt s id := rfl
  rw [arm, execCancel, event_of_run _ _ run]
  dsimp only
  rw [same]
  cases triggerAt s id with
  | none => rfl
  | some e => by_cases state : e.state = .armed <;> simp [isArmed, state]

end Cancelling

theorem takeMessage_frame (p : PortId) (m : Msg) (s : State) : changesOnly [.inbox] s (takeMessage p m s) := by
  rintro ⟨⟩ h <;> first | rfl | simp at h

/-- Settles O35: an ARMED entry is cancelled, and the CANCEL then offered to the ADMITTED ports in turn. -/
theorem triggerCancelled : Obligations.TriggerCancelled := by
  intro s id run
  refine ⟨fun bits named => ⟨fun absent => ?_, fun e found state => ?_, fun e found state => ?_⟩,
    fun q => ⟨fun idle => ?_, fun e found state => ?_⟩⟩
  · rw [exec_cancelTrigger run, named, absent]
  · rw [exec_cancelTrigger run, named, found]
    simp only [if_neg state]
  · have reply := exec_cancelTrigger run bits
    rw [named, found] at reply
    simp only [if_pos state] at reply
    have done := cancelEntry_cancelled id s
    have flood := offerAll_flood (.cancel id) (admittedPorts (cancelEntry id s)) (cancelEntry id s)
    refine ⟨_, reply, ⟨?_, ?_, ?_, done.notices.trans flood.notices, fun p => ?_⟩, ?_⟩
    · exact (flood.pieces .trig (by simp)).trans done.trig
    · exact (flood.pieces .sinks (by simp)).trans done.sinks
    · exact (flood.flags .trigger (by simp)).trans done.flag
    · rw [port_flood_admitted _ (done.pieces .ports (by simp))]
      simp
    · exact (done.pieces.mono (by simp)).trans (flood.pieces.mono (by simp))
  · rw [exec_cancel run]
    cases found : triggerAt s id with
    | none => rfl
    | some e => simp only [if_neg (idle e found)]
  · have reply := exec_cancel run q id
    rw [found] at reply
    simp only [if_pos state] at reply
    have taken := takeMessage_frame q (.cancel id) s
    have done := cancelEntry_cancelled id (takeMessage q (.cancel id) s)
    have flood := offerAll_flood (.cancel id) (otherAdmitted q (cancelEntry id (takeMessage q (.cancel id) s)))
      (cancelEntry id (takeMessage q (.cancel id) s))
    refine ⟨_, reply, ⟨?_, ?_, ?_, ?_, fun p => ?_⟩, ?_, ?_⟩
    · exact (flood.pieces .trig (by simp)).trans done.trig
    · exact (flood.pieces .sinks (by simp)).trans done.sinks
    · exact (flood.flags .trigger (by simp)).trans done.flag
    · exact (noticesOnly.of_req rfl).trans (done.notices.trans flood.notices)
    · rw [port_flood_others (s := s) _ (done.pieces .ports (by simp))]
      simp [eq_comm]
    · exact (flood.pieces .inbox (by simp)).trans (done.pieces .inbox (by simp))
    · exact ((taken.mono (by simp)).trans (done.pieces.mono (by simp))).trans (flood.pieces.mono (by simp))

/-! ### TRIGGER from another frame (R83) -/

theorem later_asymm {a b : RackTime} (h : later a b = true) : later b a = false := by
  simp only [later, Bool.or_eq_true, Bool.and_eq_true, beq_iff_eq, decide_eq_true_eq, Bool.or_eq_false_iff] at *
  rcases h with epoch | ⟨epoch, tick⟩
  · have ne : b.epoch ≠ a.epoch := by
      intro e
      rw [e] at epoch
      have := ahead_asymm epoch
      rw [epoch] at this
      cases this
    exact ⟨ahead_asymm epoch, by simp [ne]⟩
  · refine ⟨?_, by simp only [Bool.and_eq_false_iff, decide_eq_false_iff_not]; exact .inr (by omega)⟩
    rw [epoch]
    simp [ahead]

/-- A message's trigger in the table, in its state, with the notice of it (R83). -/
def storedTrigger (m : TriggerMsg) (x : TriggerState) (s : State) : State :=
  raise .trigger (s.setTrig { s.trig with table := insertBy entryBefore ⟨m.id, m.fire, m.channel, x⟩ s.trig.table })

/-- A trigger taken where the table has room: stored and passed on; one that is ARMED is not yet reached. -/
theorem takeTrigger_of_room (p : PortId) {m : TriggerMsg} {s : State} {x : TriggerState} (unknown : holdsTrigger s m.id = false)
    (room : s.trig.table.length < 32)
    (state : later m.fire (now s) = true ∧ x = .armed ∨ later (now s) m.fire = true ∧ x = .missed .late) :
    takeTrigger p m s = offerAll (offerFlood (.trigger m)) (otherAdmitted p (storedTrigger m x s)) (storedTrigger m x s) := by
  rw [takeTrigger, storeTrigger_of_room _ room, canStore_of_room room, raiseIf_of _ _ _ rfl]
  rcases state with ⟨ahead, rfl⟩ | ⟨late, rfl⟩
  · rw [later_asymm ahead]
    simp only [Bool.false_eq_true, if_false]
    have flood := offerAll_flood (.trigger m) (otherAdmitted p (storedTrigger m .armed s)) (storedTrigger m .armed s)
    generalize passed : offerAll (offerFlood (.trigger m)) (otherAdmitted p (storedTrigger m .armed s))
      (storedTrigger m .armed s) = t at flood
    have found : triggerAt t m.id = some ⟨m.id, m.fire, m.channel, .armed⟩ := by
      rw [triggerAt, flood.pieces .trig (by simp)]
      refine triggerAt_insertBy ⟨m.id, m.fire, m.channel, .armed⟩ fun e he same => ?_
      have absent := List.find?_eq_none.1 (triggerAt_eq_none unknown) e he
      exact absent (by simp [same])
    have waits : reached t m.fire = false := by
      have clock : now t = now s := by rw [now, flood.pieces .clock (by simp)]; rfl
      rw [reached, clock, ahead]
      rfl
    change fireIfReached m.id (offerAll (offerFlood (.trigger m)) (otherAdmitted p (storedTrigger m .armed s))
      (storedTrigger m .armed s)) = t
    rw [passed, fireIfReached, found]
    simp [waits]
  · rw [late]
    rfl

/-- Settles O51: a TRIGGER is taken once it has left the inbox, where its id is new and of another frame. -/
theorem triggerTaken : Obligations.TriggerTaken := by
  intro s p m run
  have arm : exec (.trigger p m) s = execTrigger p m s := rfl
  refine ⟨fun known => ?_, fun x unknown other room state => ?_⟩
  · rw [arm, execTrigger, event_of_run _ _ run]
    refine congrArg _ (if_pos ?_)
    rcases known with held | own
    · simp [show holdsTrigger (takeMessage p (.trigger m) s) m.id = true from held]
    · simp [own, ownFrame, takeMessage]
  · have fresh : holdsTrigger (takeMessage p (.trigger m) s) m.id = false := unknown
    have foreign : (m.id.origin == ownFrame (takeMessage p (.trigger m) s)) = false := beq_false_of_ne other
    have taken := takeTrigger_of_room (s := takeMessage p (.trigger m) s) p fresh room state
    have flood := offerAll_flood (.trigger m) (otherAdmitted p (storedTrigger m x (takeMessage p (.trigger m) s)))
      (storedTrigger m x (takeMessage p (.trigger m) s))
    have stored : changesOnly [.inbox, .trig, .req] s (storedTrigger m x (takeMessage p (.trigger m) s)) := by
      rintro ⟨⟩ h <;> first | rfl | simp at h
    refine ⟨_, ?_, flood.pieces .trig (by simp), fun q => port_flood_others _ rfl p q, flood.pieces .inbox (by simp), ?_,
      ?_, (stored.mono (by simp)).trans (flood.pieces.mono (by simp))⟩
    · rw [arm, execTrigger, event_of_run _ _ run]
      simp only [fresh, foreign, Bool.or_self, Bool.false_eq_true, if_false, taken]
    · rw [flood.flags .trigger (by simp)]
      simp [storedTrigger, raise_flag]
    · exact ((noticesOnly.of_req rfl).trans (noticesOnly.raise .trigger _)).trans flood.notices

end Sys2Proof.Machine
end

section
/-! SUPPORT. Sinks as requests attach, detach and arm them (R148, R149, R156), and what modules do on the lanes (R138, R139,
R155, R157). -/

namespace Sys2Proof.Machine

open Sys2Proof

/-- What stands at an index, once what stands at one index was changed. -/
theorem find_edit {α : Type} (key : α → Nat) (i j : Nat) (f : α → α) (keeps : ∀ x, key (f x) = key x) (l : List α) :
    (l.map fun x => if key x = i then f x else x).find? (fun x => key x == j) =
      (l.find? fun x => key x == j).map (if j = i then f else id) := by
  induction l with
  | nil => rfl
  | cons x l ih =>
    have same : key (if key x = i then f x else x) = key x := by split <;> simp [keeps]
    by_cases here : key x = j
    · have image : (key (if key x = i then f x else x) == j) = true := by rw [same, here, beq_self_eq_true]
      rw [List.map_cons, List.find?_cons_of_pos (p := fun x => key x == j) image, List.find?_cons_of_pos (by simp [here])]
      by_cases e : j = i <;> simp [here, e]
    · rw [List.map_cons, List.find?_cons_of_neg (by simp [same, here]), ih, List.find?_cons_of_neg (by simp [here])]

/-! ### A change of a sink -/

theorem changeSink_frame (k : Nat) (f : Sink → Sink) (s : State) : changesOnly [.sinks, .req] s (changeSink k f s) := by
  refine changesOnly.trans (t := { s with sinks := s.sinks.map fun x => if x.index = k then f x else x }) ?_ ?_
  · rintro ⟨⟩ h <;> first | rfl | simp at h
  · exact (raiseIf_frame _ _ _).mono (by simp)

theorem changeSink_sinks (k : Nat) (f : Sink → Sink) (s : State) :
    (changeSink k f s).sinks = s.sinks.map fun x => if x.index = k then f x else x := raiseIf_sinks _ _ _

/-- A change of a sink that calls for no SINK notice (R158). -/
theorem changeSink_of_quiet {k : Nat} {f : Sink → Sink} (s : State) (quiet : ∀ x, sinkNotice x (f x) = false) :
    changeSink k f s = { s with sinks := s.sinks.map fun x => if x.index = k then f x else x } := by
  have none : (s.sinks.any fun x => x.index == k && sinkNotice x (f x)) = false := by simp [quiet]
  rw [changeSink, none]
  rfl

theorem sinkAt_changeSink (k j : Nat) {f : Sink → Sink} (keeps : ∀ x, (f x).index = x.index) (s : State) :
    sinkAt (changeSink k f s) j = (sinkAt s j).map (if j = k then f else id) := by
  rw [sinkAt, changeSink_sinks, find_edit (·.index) k j f keeps]
  rfl

/-! ### ATTACH_SINK (R148) -/

theorem laneOf_eq_some {b : Byte} {l : LaneId} (h : b.toNat = l.val) : laneOf b = some l := by
  simp [laneOf, h]

/-- The code of a sink's mode (R146). -/
def modeCode (m : SinkMode) : Nat := match m with | .continuous => 0 | .paced => 1 | .single => 2

theorem modeOf_eq_some {b : Byte} {m : SinkMode} (h : b.toNat = modeCode m) : modeOf b = some m := by
  cases m <;> simp [modeOf, h, modeCode]

theorem attachArguments_of_ranges {lane mode : Byte} {block : Nat} {start : Option (BitVec 16)} {l : LaneId} {m : SinkMode}
    (lane_eq : lane.toNat = l.val) (mode_eq : mode.toNat = modeCode m) (block_ge : 1 ≤ block) (block_le : block ≤ 4096)
    (named : start.isSome = true → m = .single) : attachArguments lane mode block start = some (l, m) := by
  have ranges : ¬ (block < 1 ∨ 4096 < block ∨ (start.isSome ∧ m ≠ .single)) := by
    rintro (low | high | ⟨some, ne⟩)
    · omega
    · omega
    · exact ne (named some)
  simp only [attachArguments, laneOf_eq_some lane_eq, modeOf_eq_some mode_eq, if_neg ranges]

/-- A sink's start is LOST at once where the named trigger cannot start it (R148, R156). -/
theorem startFor_eq (s : State) (start : Option (BitVec 16)) :
    startFor s (start.map triggerIdOf) =
      match start with
      | none => .first
      | some n => if (triggerAt s (triggerIdOf n)).any canStart then .trigger (triggerIdOf n) else .lost := by
  cases start with
  | none => rfl
  | some n =>
    simp only [startFor, Option.map_some]
    cases triggerAt s (triggerIdOf n) with
    | none => rfl
    | some e => cases starts : canStart e <;> simp [starts]

theorem addSink_frame (x : Sink) (s : State) : changesOnly [.streams, .sinks, .req] s (addSink x s) := by
  refine changesOnly.trans (t := editRecord x.record (fun r => { r with sinks := r.sinks ++ [x.index] })
    { s with sinks := insertSink x s.sinks }) ?_ ?_
  · rintro ⟨⟩ h <;> first | rfl | simp at h
  · exact (raiseIf_frame _ _ _).mono (by simp)

theorem noSinkOfRecord {s : State} {i : Nat} {l : LaneId} (h : ∀ x ∈ s.sinks, x.record = i → x.lane ≠ l) :
    (s.sinks.find? fun x => x.record == i && x.lane == l) = none :=
  List.find?_eq_none.2 fun x hx same => by
    simp only [Bool.and_eq_true, beq_iff_eq] at same
    exact h x hx same.1 same.2

/-- Settles O32: with every check passed the request adds the sink. -/
theorem sinkAttaches : Obligations.SinkAttaches := by
  intro s id lane mode block threshold start l m r k run lane_eq mode_eq block_ge block_le named found state settled alone
    perRecord perLane free pool begun x
  have arm : exec (.attachSink id lane mode block threshold start) s =
    execAttachSink id lane mode block threshold start s := rfl
  have mode_eq : mode.toNat = modeCode m := mode_eq.trans (by cases m <;> rfl)
  have start_eq : begun = if m = .single then some (startFor s (start.map triggerIdOf)) else none := by
    simp only [begun, startFor_eq]
    split
    · cases start with
      | none => rfl
      | some n => exact (apply_ite some _ _ _).symm
    · rfl
  have made : newSink s k r l m block.toNat (clampThreshold threshold) (start.map triggerIdOf) = x := by
    simp only [newSink, x, start_eq, clampThreshold, clamp, reservationFor]
  have room : ¬ Figures.poolCells < reservedCells s + x.reservation := Nat.not_lt.2 pool
  have place : ¬ Figures.sinksPerRecord ≤ r.sinks.length := Nat.not_le.2 perRecord
  have onLane : ¬ Figures.sinksPerLane ≤ (sinksOnLane s l).length := Nat.not_le.2 perLane
  have reply : exec (.attachSink id lane mode block threshold start) s =
      .next (withAnswer (addSink x s) .ok (.attached k x.reservation)) := by
    rw [arm, execAttachSink, request_of_run _ _ run]
    simp only [attachArguments_of_ranges lane_eq mode_eq block_ge block_le named, found, state, settled, noSinkOfRecord alone,
      free, made, if_neg room, answer_eq]
    rw [if_neg (by simp), if_neg place, if_neg onLane]
  refine ⟨_, reply, raiseIf_sinks _ _ _, raiseIf_streams _ _ _, ?_, addSink_frame x s⟩
  have lost : (if begun = some .lost then [NoticeKind.sink] else []) = if x.start == some .lost then [.sink] else [] := by
    by_cases h : begun = some .lost <;> simp [x, h]
  rw [lost]
  exact noticesSet_raiseIf _ _ rfl

/-! ### DETACH_SINK and ARM_SINK (R149, R156) -/

section Requests

variable {s : State} (run : s.pins.reset = false)

include run

theorem exec_detachSink {b : Byte} (le : b.toNat ≤ 63) :
    exec (.detachSink b) s = .next (match sinkAt s b.toNat with
      | none => withAnswer s .notFound .empty
      | some _ => withAnswer (dropSink b.toNat s) .ok .empty) := by
  have arm : exec (.detachSink b) s = execDetachSink b s := rfl
  have inTable : ¬ Figures.sinkEntries ≤ b.toNat := Nat.not_le.2 (by simp only [Figures.sinkEntries]; omega)
  rw [arm, execDetachSink, request_of_run _ _ run, if_neg inTable]
  cases sinkAt s b.toNat <;> rfl

theorem exec_armSink {b : Byte} (le : b.toNat ≤ 63) (start : Option (BitVec 16)) :
    exec (.armSink b start) s = .next (match sinkAt s b.toNat with
      | none => withAnswer s .notFound .empty
      | some x =>
        if x.mode ≠ .single then withAnswer s .busy .empty
        else withAnswer (raiseIf (startFor s (start.map triggerIdOf) == .lost) .sink
          (changeSink b.toNat (armed (startFor s (start.map triggerIdOf))) s)) .ok .empty) := by
  have arm : exec (.armSink b start) s = execArmSink b start s := rfl
  have inTable : ¬ Figures.sinkEntries ≤ b.toNat := Nat.not_le.2 (by simp only [Figures.sinkEntries]; omega)
  rw [arm, execArmSink, request_of_run _ _ run, if_neg inTable]
  cases sinkAt s b.toNat <;> rfl

end Requests

/-- Settles O33: the sink at the index decides, and a new start of LOST alone raises a notice. -/
theorem sinkDetachesAndArms : Obligations.SinkDetachesAndArms := by
  intro s b run le
  refine ⟨fun x found => ?_, fun absent => ⟨?_, fun start => ?_⟩, fun x start found mode => ?_,
    fun x start found mode => ?_⟩
  · rw [exec_detachSink run le, found]
    rfl
  · rw [exec_detachSink run le, absent]
  · rw [exec_armSink run le, absent]
  · rw [exec_armSink run le, found]
    simp only [if_pos mode]
  · have reply := exec_armSink run le start
    rw [found, startFor_eq] at reply
    simp only [mode, ne_eq, not_true, if_false] at reply
    intro begun
    have quiet : changeSink b.toNat (armed begun) s = _ := changeSink_of_quiet s fun y => by simp [sinkNotice, armed]
    refine ⟨_, reply, ?_, ?_, ?_⟩
    · rw [sinkBecomes, raiseIf_sinks]
      exact changeSink_sinks _ _ _
    · change noticesSet _ s (raiseIf (begun == .lost) .sink (changeSink b.toNat (armed begun) s))
      have lost : (if begun = .lost then [NoticeKind.sink] else []) = if begun == .lost then [.sink] else [] := by
        by_cases h : begun = .lost <;> simp [h]
      rw [lost]
      exact noticesSet_raiseIf _ _ (by rw [quiet])
    · exact (changeSink_frame _ _ _).trans ((raiseIf_frame _ _ _).mono (by simp))

/-! ### Pulls and acknowledgements (R155, R157) -/

theorem answerLane_frame (s : State) (a : LaneAnswer) : changesOnly [.lane] s (s.answerLane a) := by
  rintro ⟨⟩ h <;> first | rfl | simp at h

section Lanes

variable {s : State} {l : LaneId} {id : StreamId} (run : s.pins.reset = false)

include run

theorem exec_lanePull (n : Byte) :
    exec (.lanePull l id n) s = .next (if n = 0 ∨ 8 < n.toNat then s.answerLane (.pull l .format)
      else match laneSink s l id with
        | none => s.answerLane (.pull l .unknown)
        | some x =>
          if x.released = [] then s.answerLane (.pull l .empty)
          else (changeSink x.index (fun x => { x with released := x.released.drop n.toNat }) s).answerLane
            (.pull l (.cells (x.released.take n.toNat)))) := by
  have arm : exec (.lanePull l id n) s = execLanePull l id n s := rfl
  rw [arm, execLanePull, event_of_run _ _ run] <;> rfl

theorem exec_laneAcknowledgement :
    exec (.laneAcknowledgement l id) s = .next (match laneSink s l id with
      | none => s.answerLane (.acknowledgement l false)
      | some x => (changeSink x.index acknowledge s).answerLane (.acknowledgement l true)) := by
  have arm : exec (.laneAcknowledgement l id) s = execLaneAcknowledgement l id s := rfl
  rw [arm, execLaneAcknowledgement, event_of_run _ _ run] <;> rfl

end Lanes

theorem acknowledge_of_running {x : Sink} (h : ¬ (x.mode = .paced ∧ x.state = .halted)) :
    acknowledge x = { x with done := false, overrun := false } := if_neg h

/-- Whatever is acknowledged, DONE and OVERRUN are clear and no cell goes. -/
theorem acknowledge_fields (x : Sink) :
    (acknowledge x).done = false ∧ (acknowledge x).overrun = false ∧ (acknowledge x).held = x.held ∧
      (acknowledge x).released = x.released := by
  unfold acknowledge
  dsimp only
  split <;> exact ⟨rfl, rfl, rfl, rfl⟩

theorem sinkNotice_acknowledge (x : Sink) : sinkNotice x (acknowledge x) = false := by
  obtain ⟨done, overrun, -, -⟩ := acknowledge_fields x
  have halted : (x.state != .halted && (acknowledge x).state == .halted) = false := by
    unfold acknowledge
    dsimp only
    split
    · simp
    · simp
  simp [sinkNotice, done, overrun, halted]

/-- The boundary is the first in whole block sizes that is not short of the distance. -/
theorem blocks_upTo (n size : Nat) (pos : 1 ≤ size) :
    n ≤ size * ((n + size - 1) / size) ∧ size * ((n + size - 1) / size) < n + size := by
  have whole := Nat.div_add_mod (n + size - 1) size
  have rest := Nat.mod_lt (n + size - 1) pos
  omega

/-- Settles O59: the count, the lane's sink and its released list decide a pull, and an acknowledgement is one change of the
sink. -/
theorem pullAndAcknowledge : Obligations.PullAndAcknowledge := by
  intro s l id n run
  have inRange (ge : 1 ≤ n.toNat) (le : n.toNat ≤ 8) : ¬ (n = 0 ∨ 8 < n.toNat) := by
    rintro (rfl | high)
    · simp at ge
    · omega
  refine ⟨fun range => ?_, fun ge le absent => ?_, fun x ge le found empty => ?_, fun x ge le found cells => ?_,
    fun absent => ?_, fun x found => ?_⟩
  · rw [exec_lanePull run, if_pos range]
    rfl
  · rw [exec_lanePull run, if_neg (inRange ge le), absent]
    rfl
  · rw [exec_lanePull run, if_neg (inRange ge le), found]
    simp only [if_pos empty]
    rfl
  · have reply := exec_lanePull (l := l) (id := id) run n
    rw [if_neg (inRange ge le), found] at reply
    simp only [if_neg cells] at reply
    rw [changeSink_of_quiet s fun y => by simp [sinkNotice]] at reply
    exact ⟨_, reply, rfl, rfl, by rintro ⟨⟩ h <;> first | rfl | simp at h⟩
  · rw [exec_laneAcknowledgement run, absent]
    rfl
  · have reply := exec_laneAcknowledgement (l := l) (id := id) run
    rw [found] at reply
    simp only at reply
    rw [changeSink_of_quiet s sinkNotice_acknowledge] at reply
    obtain ⟨done, overrun, held, released⟩ := acknowledge_fields x
    refine ⟨_, reply, rfl, rfl, by rintro ⟨⟩ h <;> first | rfl | simp at h, done, overrun, held, released,
      acknowledge_of_running, fun mode state => ?_, fun b e mode state start expected size_ge _ => ?_⟩
    · simp [acknowledge, mode, state]
    · refine ⟨((e - b).toNat + x.blockSize - 1) / x.blockSize, ?_, blocks_upTo _ _ size_ge⟩
      simp [acknowledge, mode, state, start, expected, boundaryFor]

/-! ### Pushes (R138, R139) -/

/-- A sink takes a copy by the epoch and the triggers alone. -/
theorem takeCopy_congr {s u : State} (b : Nat) (c : SinkCell) (clock : u.clock = s.clock) (trig : u.trig = s.trig) :
    takeCopy u b c = takeCopy s b c := by
  have epoch : epochLow u = epochLow s := by simp only [epochLow, clock]
  have starts : meetsStart u = meetsStart s := by
    have entry (id : TriggerId) : triggerAt u id = triggerAt s id := by simp only [triggerAt, trig]
    funext x c
    simp only [meetsStart, entry]
  funext x
  simp only [takeCopy, epoch, starts]

/-- Copies of a cell to sinks, one after another; a sink named more than once takes it as often. -/
theorem sinkAt_copies (b : Nat) (c : SinkCell) (k : Nat) (ks : List Nat) (s : State) :
    sinkAt (ks.foldl (fun s k => changeSink k (takeCopy s b c) s) s) k =
      (sinkAt s k).map (Nat.repeat (takeCopy s b c) (ks.count k)) := by
  have step (j : Nat) (s : State) : takeCopy (changeSink j (takeCopy s b c) s) b c = takeCopy s b c :=
    takeCopy_congr b c (changeSink_frame j (takeCopy s b c) s .clock (by simp))
      (changeSink_frame j (takeCopy s b c) s .trig (by simp))
  have again (f : Sink → Sink) (n : Nat) (x : Sink) : Nat.repeat f n (f x) = Nat.repeat f (n + 1) x := by
    induction n with
    | zero => rfl
    | succ n ih => exact congrArg f ih
  induction ks generalizing s with
  | nil =>
    rw [List.foldl_nil]
    cases sinkAt s k <;> rfl
  | cons j ks ih =>
    rw [List.foldl_cons, ih, step, sinkAt_changeSink j k fun x => (takeCopy_room s b c x).1]
    cases sinkAt s k with
    | none => rfl
    | some x =>
      by_cases e : k = j
      · subst e
        simp [again]
      · simp [e, Ne.symm e]

theorem sinksTake_copyToSinks (r : StreamRecord) (c : SinkCell) (s : State) : sinksTake r c s (copyToSinks r c s) := fun k =>
  sinkAt_copies r.budget c k r.sinks s

theorem copyToSinks_frame (r : StreamRecord) (c : SinkCell) (s : State) :
    changesOnly [.sinks, .req] s (copyToSinks r c s) :=
  changesOnly.foldl (fun s k => changeSink k (takeCopy s r.budget c) s) (fun s k => changeSink_frame k _ s) r.sinks s

theorem sinksTake_congr {r : StreamRecord} {c : SinkCell} {s u t : State} (clock : u.clock = s.clock) (trig : u.trig = s.trig)
    (sinks : u.sinks = s.sinks) (h : sinksTake r c u t) : sinksTake r c s t := by
  intro k
  rw [h k, takeCopy_congr r.budget c clock trig, sinkAt, sinks]
  rfl

theorem exec_lanePush {s : State} (l : LaneId) (id : StreamId) (n : Byte) (payload : List Byte) (run : s.pins.reset = false) :
    exec (.lanePush l id n payload) s = .next (match boundRecord s l id with
      | none => (captureLane .unknown (some id) (.lane l) s).answerLane (.push l .unknown)
      | some r =>
        if n = 0 ∨ 116 / r.sampleBytes < n.toNat then
          (captureLane .format (some id) (.laneSamples l n) s).answerLane (.push l .format)
        else if r.state ∉ [.active, .retuning] then s.answerLane (.push l .held)
        else if r.egress ≠ none ∧ 2 * acceptingCells s r ≤ r.queue.length then
          (editRecord r.index (fun r => { r with source := countOverruns 1 r.source }) s).answerLane (.push l .full)
        else (acceptPush r n payload s).answerLane (.push l .accept)) := by
  have arm : exec (.lanePush l id n payload) s = execLanePush l id n payload s := rfl
  rw [arm, execLanePush, event_of_run _ _ run]
  cases boundRecord s l id with
  | none => rfl
  | some r =>
    have takes : (!takesPushes r) = decide (r.state ∉ [StreamState.active, .retuning]) := by
      cases state : r.state <;> simp [takesPushes, state]
    have onward : r.egress.isSome = decide (r.egress ≠ none) := by cases r.egress <;> rfl
    simp only [takes, onward, decide_eq_true_eq, samplesPerCell, Figures.payloadBytes]

/-- An error in the lane record, where it was empty, is the one held. -/
theorem captureLane_of_empty (k : ErrorKind) (id : StreamId) (d : Detail) {s : State} (h : s.captures.lane.held = none) :
    (captureLane k (some id) d s).captures.lane.held = some ⟨k, s.clock.epoch, none, some id, d⟩ := by
  simp [captureLane, (takeInto_cases s.captures.lane _).1 h]

theorem captureLane_frame (k : ErrorKind) (id : Option StreamId) (d : Detail) (s : State) :
    changesOnly [.captures, .req] s (captureLane k id d s) := raiseIf_capture_frame _ s _

/-- An accepted push is one change of the record, then a copy to its sinks. -/
theorem acceptPush_eq {r : StreamRecord} {n : Byte} {payload : List Byte} {s : State} (full : payload.length = 116) :
    acceptPush r n payload s = copyToSinks r ⟨nextSequence r, epochLow s, n, false, false, payload⟩
      (editRecord r.index (fun r =>
        { r with
          source := r.source.map fun o => { o with nextSequence := o.nextSequence + 1 }
          queue := r.queue ++ (if r.egress.isSome then
            [⟨r.id, r.gen, nextSequence r, epochLow s, n, false, payload, s.clock.epoch⟩] else []) }) s) := by
  have queue (r : StreamRecord) (x : QueuedCell) :
      (if r.egress.isSome then r.queue ++ [x] else r.queue) = r.queue ++ if r.egress.isSome then [x] else [] := by
    split <;> simp
  simp only [acceptPush, padPayload_of_length full, queue]
  rfl

theorem editRecord_frame (i : Nat) (f : StreamRecord → StreamRecord) (s : State) :
    changesOnly [.streams] s (editRecord i f s) := by
  rintro ⟨⟩ h <;> first | rfl | simp at h

theorem countOverruns_one (x : Option Source) :
    countOverruns 1 x = x.map fun o => { o with overrunCount := min 65535 (o.overrunCount + 1) } := by
  simp only [countOverruns, saturate, Figures.saturation, Nat.min_comm]

/-- Settles O58: the bound record, the sample count, the record's state and its queue decide the answer. -/
theorem pushAnswered : Obligations.PushAnswered := by
  intro s l id n payload run full
  have reply := exec_lanePush l id n payload run
  refine ⟨fun absent => ?_, fun r found => ⟨fun format => ?_, fun ne le state => ?_, fun ne le state egress above => ?_,
    fun ne le state room => ?_⟩⟩
  · rw [absent] at reply
    exact ⟨_, reply, rfl, captureLane_of_empty _ id _,
      ((captureLane_frame _ _ _ s).mono (by simp)).trans ((answerLane_frame _ _).mono (by simp))⟩
  · rw [found] at reply
    simp only [if_pos format] at reply
    exact ⟨_, reply, rfl, captureLane_of_empty _ id _,
      ((captureLane_frame _ _ _ s).mono (by simp)).trans ((answerLane_frame _ _).mono (by simp))⟩
  · have size : ¬ (n = 0 ∨ 116 / r.sampleBytes < n.toNat) := by rintro (zero | above) <;> [exact ne zero; omega]
    rw [reply, found]
    simp only [if_neg size, if_pos state]
    rfl
  · have size : ¬ (n = 0 ∨ 116 / r.sampleBytes < n.toNat) := by rintro (zero | above) <;> [exact ne zero; omega]
    rw [found] at reply
    simp only [if_neg size, not_not.2 state, if_false, if_pos (And.intro egress above), countOverruns_one] at reply
    exact ⟨_, reply, rfl, rfl, by rintro ⟨⟩ h <;> first | rfl | simp at h⟩
  · have size : ¬ (n = 0 ∨ 116 / r.sampleBytes < n.toNat) := by rintro (zero | above) <;> [exact ne zero; omega]
    have fits : ¬ (r.egress ≠ none ∧ 2 * acceptingCells s r ≤ r.queue.length) := by
      rintro ⟨some, above⟩
      rcases room with none | under
      · exact some none
      · omega
    rw [found] at reply
    simp only [if_neg size, not_not.2 state, if_false, if_neg fits, acceptPush_eq full] at reply
    refine ⟨_, reply, rfl, ?_, ?_, ?_, ?_⟩
    · change (copyToSinks r _ _).streams = _
      rw [copyToSinks_streams]
      rfl
    · exact sinksTake_congr rfl rfl rfl (sinksTake_copyToSinks r _ _)
    · have notices : noticesOnly s (acceptPush r n payload s) := (acceptPush_effects r n payload s).notices
      rwa [acceptPush_eq full] at notices
    · exact ((editRecord_frame _ _ s).mono (by simp)).trans
        (((copyToSinks_frame r _ _).mono (by simp)).trans ((answerLane_frame _ _).mono (by simp)))

end Sys2Proof.Machine
end

section
/-! SUPPORT. Slots of an egress port as records gain and lose them (R102), and delay records under samples (R60, R61). -/

namespace Sys2Proof.Machine

open Sys2Proof

/-! ### Slot maps -/

theorem insertSlot_perm (e : SlotEntry) (m : List SlotEntry) : (insertSlot e m).Perm (e :: m) := by
  induction m with
  | nil => exact .refl _
  | cons x m ih =>
    unfold insertSlot
    split
    · exact .refl _
    · exact (ih.cons x).trans (.swap e x m)

/-- The entries of a map after an assignment: those it had, and one for each slot taken. -/
theorem assignIn_perm (n i u : Nat) (m : List SlotEntry) :
    (assignIn n i u m).Perm (((freeSlots u m).take n).map (fun k => ⟨k, i⟩) ++ m) := by
  unfold assignIn
  generalize (freeSlots u m).take n = ks
  induction ks generalizing m with
  | nil => exact .refl _
  | cons k ks ih => exact (ih _).trans (((insertSlot_perm _ m).append_left _).trans List.perm_middle)

theorem mem_assignIn {n i u : Nat} {m : List SlotEntry} {e : SlotEntry} :
    e ∈ assignIn n i u m ↔ (∃ k ∈ (freeSlots u m).take n, ⟨k, i⟩ = e) ∨ e ∈ m := by
  rw [(assignIn_perm n i u m).mem_iff, List.mem_append, List.mem_map]

/-- A slot of a rising list that lies below one of the first `n` is among them. -/
theorem mem_take_of_lt {ks : List Nat} (rise : ks.Pairwise (· < ·)) {n k j : Nat} (hk : k ∈ ks) (hj : j ∈ ks.take n) (lt : k < j) :
    k ∈ ks.take n := by
  rw [← List.take_append_drop n ks] at rise hk
  rcases List.mem_append.1 hk with h | h
  · exact h
  · exact absurd lt (Nat.lt_asymm ((List.pairwise_append.1 rise).2.2 j hj k h))

theorem freeSlots_rising (u : Nat) (m : List SlotEntry) : (freeSlots u m).Pairwise (· < ·) := (List.pairwise_lt_range' ..).filter _

/-- The entries that name a record, once `k` are kept, are its `k` lowest. -/
theorem keepSlots_own (k i : Nat) (m : List SlotEntry) :
    (keepSlots k i m).filter (fun e => e.record == i) = (m.filter fun e => e.record == i).take k := by
  induction m generalizing k with
  | nil => simp [keepSlots]
  | cons e m ih =>
    by_cases own : e.record = i
    · cases k <;> simp [keepSlots, own, ih]
    · simp [keepSlots, own, ih]

theorem keepSlots_others (k i : Nat) (m : List SlotEntry) :
    (keepSlots k i m).filter (fun e => e.record != i) = m.filter fun e => e.record != i := by
  induction m generalizing k with
  | nil => simp [keepSlots]
  | cons e m ih =>
    by_cases own : e.record = i
    · cases k <;> simp [keepSlots, own, ih]
    · simp [keepSlots, own, ih]

theorem slotsNaming_keepSlots (k i : Nat) (m : List SlotEntry) : slotsNaming i (keepSlots k i m) = (slotsNaming i m).take k := by
  rw [slotsNaming, keepSlots_own, List.map_take]
  rfl

/-- Settles O28: an assignment adds one entry for each of the lowest free slots. -/
theorem slotsAssignedAndKept : Obligations.SlotsAssignedAndKept := by
  refine ⟨fun n i u m enough => ?_, fun k i m => ⟨slotsNaming_keepSlots k i m, keepSlots_others k i m, keepSlots_sublist k i m⟩⟩
  have taken : ((freeSlots u m).take n).length = n := List.length_take_of_le enough
  have isNew {e : SlotEntry} (mem : e ∈ assignIn n i u m) (new : e ∉ m) : e.slot ∈ (freeSlots u m).take n ∧ e.record = i := by
    rcases mem_assignIn.1 mem with ⟨k, hk, rfl⟩ | old
    · exact ⟨hk, rfl⟩
    · exact absurd old new
  refine ⟨?_, ?_, fun e he => mem_assignIn.2 (.inr he), fun e mem new => ?_, fun e mem new k free lt => ?_⟩
  · rw [(assignIn_perm n i u m).length_eq, List.length_append, List.length_map, taken, Nat.add_comm]
  · have named : ((((freeSlots u m).take n).map fun k => (⟨k, i⟩ : SlotEntry)).filter fun e => e.record == i).length = n := by
      have own : ∀ e ∈ ((freeSlots u m).take n).map fun k => (⟨k, i⟩ : SlotEntry), (e.record == i) = true := by
        rintro e he
        obtain ⟨k, -, rfl⟩ := List.mem_map.1 he
        exact beq_self_eq_true i
      rw [List.filter_eq_self.2 own, List.length_map, taken]
    rw [slotsNaming, slotsNaming, List.length_map, List.length_map, ((assignIn_perm n i u m).filter _).length_eq,
      List.filter_append, List.length_append, named, Nat.add_comm]
  · obtain ⟨slot, record⟩ := isNew mem new
    have free := List.mem_of_mem_take slot
    obtain ⟨⟨above, below⟩, -⟩ := mem_freeSlots free
    exact ⟨record, above, below, free⟩
  · exact mem_assignIn.2 (.inl ⟨k, mem_take_of_lt (freeSlots_rising u m) free (isNew mem new).1 lt, rfl⟩)

/-! ### Delay records -/

theorem addSample_eq (w : List Nat) (x : Nat) :
    addSample w x = if (w ++ [x]).length ≤ 4 then w ++ [x] else (w ++ [x]).drop 1 := by
  unfold addSample
  by_cases h : (w ++ [x]).length ≤ 4
  · rw [if_pos h, if_neg (Nat.not_lt.2 h)]
  · rw [if_neg h, if_pos (Nat.not_le.1 h)]

theorem windowAgrees_iff (v : List Nat) : windowAgrees v = true ↔ v.length = 4 ∧ ∀ y ∈ v, ∀ z ∈ v, y ≤ z + 2 := by
  simp [windowAgrees]

/-- An eighth of the difference, toward the sample and rounded toward 0 (R61). -/
theorem smoothed (d16 x : Nat) :
    (d16 ≤ 16 * x → ((d16 : Int) + Int.tdiv (16 * (x : Int) - d16) 8).toNat = d16 + (16 * x - d16) / 8) ∧
      (16 * x ≤ d16 → ((d16 : Int) + Int.tdiv (16 * (x : Int) - d16) 8).toNat = d16 - (d16 - 16 * x) / 8) := by
  refine ⟨fun up => ?_, fun down => ?_⟩
  · obtain ⟨k, hk⟩ := Nat.exists_eq_add_of_le up
    have gap : 16 * (x : Int) - d16 = (k : Int) := by omega
    rw [gap, Int.tdiv_eq_ediv_of_nonneg (by omega)]
    omega
  · obtain ⟨k, hk⟩ := Nat.exists_eq_add_of_le down
    have gap : 16 * (x : Int) - d16 = -(k : Int) := by omega
    rw [gap, Int.neg_tdiv, Int.tdiv_eq_ediv_of_nonneg (by omega)]
    omega

/-- Settles O41: the window decides while OPEN, the distance from the reported delay while VALID. -/
theorem delaySampled : Obligations.DelaySampled := by
  refine ⟨?_, fun w d16 n x range high low => ?_, fun w d16 n x far => ?_⟩
  · intro w x v
    have window : addSample w x = v := addSample_eq w x
    refine ⟨fun agrees => ?_, fun differs => ?_⟩
    · simp only [takeSample, window, if_pos ((windowAgrees_iff v).2 agrees)]
    · simp only [takeSample, window, if_neg (mt (windowAgrees_iff v).1 differs)]
  · have near : ¬ (reportedDelay d16 + 32 < x ∨ x + 32 < reportedDelay d16 ∨ Figures.maxDelay < x) := by
      simp only [reportedDelay, Figures.maxDelay]
      omega
    exact ⟨_, _, if_neg near, rfl, smoothed d16 x⟩
  · have away : reportedDelay d16 + 32 < x ∨ x + 32 < reportedDelay d16 ∨ Figures.maxDelay < x := by
      simp only [reportedDelay, Figures.maxDelay]
      omega
    exact if_pos away

end Sys2Proof.Machine
end

section
/-! SUPPORT. One rule for each operation on a stream record: what it makes of the record, of the ports, of the sinks, and what it
leaves (R13, R93 to R96, R102, R106, R107, R113, R122, R132). -/

namespace Sys2Proof.Machine

open Sys2Proof

/-! ### Messages offered to a protocol queue (R13, R93) -/

/-- A port once a message was offered to its protocol queue. -/
def offered (m : Msg) (x : Port) : Port :=
  if takesOffers x.state = true ∧ x.protocolQueue.length < protocolRoom m then
    { x with protocolQueue := x.protocolQueue ++ [m] }
  else x

theorem protocolAnswer_taken_iff {s : State} {p : PortId} {m : Msg} :
    protocolAnswer s p m = .taken ↔
      takesOffers (s.port p).state = true ∧ (s.port p).protocolQueue.length < protocolRoom m := by
  unfold protocolAnswer
  cases takesOffers (s.port p).state
  · simp
  · by_cases room : (s.port p).protocolQueue.length < protocolRoom m <;> simp [room]

theorem joinProtocol_eq (p : PortId) (m : Msg) (s : State) : joinProtocol p m s = s.setPort p (offered m (s.port p)) := by
  unfold joinProtocol offered
  by_cases taken : protocolAnswer s p m = .taken
  · rw [if_pos taken, if_pos (protocolAnswer_taken_iff.1 taken)]
  · rw [if_neg taken, if_neg (mt protocolAnswer_taken_iff.2 taken), State.setPort_port]

theorem send_of_taken {s : State} {p : PortId} {m : Msg} (h : protocolAnswer s p m = .taken) :
    send p m s = s.setPort p { s.port p with protocolQueue := (s.port p).protocolQueue ++ [m] } := by
  rw [send, h]
  exact if_pos h

theorem port_send (p : PortId) (m : Msg) (s : State) (q : PortId) :
    (send p m s).port q = if q = p then offered m (s.port q) else s.port q := by
  cases answer : protocolAnswer s p m with
  | taken =>
    rw [send_of_taken answer, port_setPort]
    split
    · next e => subst e; rw [offered, if_pos (protocolAnswer_taken_iff.1 answer)]
    · rfl
  | full | noPort =>
    have same : (send p m s).port q = s.port q := by simp [send, answer]
    rw [same]
    split
    · next e =>
      subst e
      rw [offered, if_neg]
      rw [← protocolAnswer_taken_iff, answer]
      simp
    · rfl

theorem port_sendSide (side : Option PortId) (m : Msg) (s : State) (q : PortId) :
    (sendSide side m s).port q = if side = some q then offered m (s.port q) else s.port q := by
  cases side with
  | none => simp [sendSide]
  | some p => simp only [sendSide, port_send, Option.some.injEq, eq_comm]

theorem send_frame (p : PortId) (m : Msg) (s : State) : changesOnly [.ports, .captures, .req] s (send p m s) := by
  cases answer : protocolAnswer s p m with
  | taken =>
    rw [send_of_taken answer]
    rintro ⟨⟩ h <;> first | rfl | simp at h
  | full =>
    have dropped : send p m s = protocolError .queueDrop m p s := by rw [send, answer]
    rw [dropped]
    exact (raiseIf_capture_frame _ s _).mono (by simp)
  | noPort =>
    have same : send p m s = s := by rw [send, answer]
    rw [same]
    exact changesOnly.refl _ s

theorem sendSide_frame (side : Option PortId) (m : Msg) (s : State) :
    changesOnly [.ports, .captures, .req] s (sendSide side m s) := by
  cases side with
  | none => exact changesOnly.refl _ s
  | some p => exact send_frame p m s

theorem offered_of_room {m : Msg} {x : Port} (takes : takesOffers x.state = true)
    (room : x.protocolQueue.length < protocolRoom m) : offered m x = { x with protocolQueue := x.protocolQueue ++ [m] } :=
  if_pos ⟨takes, room⟩

/-- An offer changes a port's protocol queue alone. -/
theorem offered_fields (m : Msg) (x : Port) :
    (offered m x).slotMap = x.slotMap ∧ (offered m x).floodQueue = x.floodQueue ∧ (offered m x).state = x.state ∧
      (offered m x).delay = x.delay := by
  unfold offered
  split <;> exact ⟨rfl, rfl, rfl, rfl⟩

/-! ### A record found after a change of records -/

theorem recordAt_of_streams {s t : State} (h : t.streams = s.streams) (i : Nat) : recordAt t i = recordAt s i := by
  rw [recordAt, h]
  rfl

theorem recordAt_index {s : State} {i : Nat} {r : StreamRecord} (h : recordAt s i = some r) : r.index = i := by
  simpa using List.find?_some h

theorem recordAt_mem {s : State} {i : Nat} {r : StreamRecord} (h : recordAt s i = some r) : r ∈ s.streams.records :=
  List.mem_of_find?_eq_some h

theorem recordAt_of_mem {s : State} (h : RecordsInv s.streams.records) {r : StreamRecord} (mem : r ∈ s.streams.records) :
    recordAt s r.index = some r := by
  cases found : recordAt s r.index with
  | none => exact absurd (List.find?_eq_none.1 found r mem) (by simp)
  | some x => rw [recordAt_unique h found mem rfl]

theorem recordAt_of_recordOf {s : State} (h : RecordsInv s.streams.records) {id : StreamId} {r : StreamRecord}
    (found : recordOf s id = some r) : recordAt s r.index = some r :=
  recordAt_of_mem h (List.mem_of_find?_eq_some found)

theorem recordAt_editRecord (i j : Nat) {f : StreamRecord → StreamRecord} (keeps : ∀ r, (f r).index = r.index) (s : State) :
    recordAt (editRecord i f s) j = (recordAt s j).map (if j = i then f else id) :=
  find_edit (fun r : StreamRecord => r.index) i j f keeps s.streams.records

theorem recordAt_changeRecord (i j : Nat) {f : StreamRecord → StreamRecord} (keeps : ∀ r, (f r).index = r.index)
    (s : State) :
    recordAt (changeRecord i f s) j = (recordAt s j).map (if j = i then fun r => { f r with changed := true } else id) :=
  recordAt_editRecord i j (f := fun r => { f r with changed := true }) keeps s

theorem recordAt_changeRecord_self {i : Nat} {f : StreamRecord → StreamRecord} (keeps : ∀ r, (f r).index = r.index)
    {s : State} {r : StreamRecord} (h : recordAt s i = some r) :
    recordAt (changeRecord i f s) i = some { f r with changed := true } := by
  rw [recordAt_changeRecord i i keeps, h]
  simp

theorem changeRecord_frame (i : Nat) (f : StreamRecord → StreamRecord) (s : State) :
    changesOnly [.streams, .req] s (changeRecord i f s) := by
  rintro ⟨⟩ h <;> first | rfl | simp at h

theorem changeRecord_notices (i : Nat) (f : StreamRecord → StreamRecord) (s : State) :
    noticesSet [.stream] s (changeRecord i f s) := noticesSet_raiseIf true .stream (u := editRecord i _ s) rfl

theorem touchesOnly.others {i : Nat} {s t : State} (h : touchesOnly i s t) : otherRecordsKept i s t := fun _ ne => by
  rw [h.recordAt ne]

theorem otherRecordsKept.trans {i : Nat} {s t u : State} (h : otherRecordsKept i s t) (k : otherRecordsKept i t u) :
    otherRecordsKept i s u := fun j ne => (k j ne).trans (h j ne)

theorem otherRecordsKept.of_streams {i : Nat} {s t : State} (h : t.streams = s.streams) : otherRecordsKept i s t := fun j _ => by
  rw [recordAt_of_streams h]

/-! ### Releasing slots (R94, R102) -/

/-- A port once the slots of a record with an egress were released down to `k`. -/
def slotsCut (k i : Nat) (egress : Option PortId) (q : PortId) (x : Port) : Port :=
  if egress = some q then { x with slotMap := keepSlots k i x.slotMap } else x

theorem keepSlots_zero (i : Nat) (m : List SlotEntry) : keepSlots 0 i m = m.filter fun e => e.record != i := by
  induction m with
  | nil => rfl
  | cons e m ih => by_cases own : e.record = i <;> simp [keepSlots, own, ih]

theorem releaseSlots_frame (i k : Nat) (s : State) : changesOnly [.ports, .streams, .req] s (releaseSlots i k s) := by
  unfold releaseSlots
  split
  · dsimp only
    split
    · rintro ⟨⟩ h <;> first | rfl | simp at h
    · rintro ⟨⟩ h <;> first | rfl | simp at h
  · exact changesOnly.refl _ s

section Releasing

variable {s : State} {i : Nat} {r : StreamRecord} (found : recordAt s i = some r)

include found

theorem port_releaseSlots (k : Nat) (q : PortId) : (releaseSlots i k s).port q = slotsCut k i r.egress q (s.port q) := by
  cases egress : r.egress with
  | none => simp [releaseSlots, slotsCut, found, egress]
  | some p =>
    have cut : (releaseSlots i k s).port q = (s.setSlotMap p (keepSlots k i (s.port p).slotMap)).port q := by
      simp only [releaseSlots, found, Option.bind_some, egress]
      split <;> rfl
    rw [cut, State.setSlotMap, port_setPort, slotsCut]
    by_cases e : q = p
    · subst e
      simp
    · simp [e, Ne.symm e]

theorem recordAt_releaseSlots (k : Nat) :
    recordAt (releaseSlots i k s) i = some { r with changed := r.changed || decide (k < slotsHeld s r) } := by
  have index := recordAt_index found
  rcases Option.eq_none_or_eq_some r.egress with egress | ⟨p, egress⟩
  · have none : slotsHeld s r = 0 := by simp [slotsHeld, slotList, egress]
    have same : releaseSlots i k s = s := by simp [releaseSlots, found, egress]
    simp only [same, none, found, Nat.not_lt_zero, decide_false, Bool.or_false]
  · have held : slotsHeld s r = (slotsNaming i (s.port p).slotMap).length := by simp [slotsHeld, slotList, egress, index]
    have found' : recordAt (s.setSlotMap p (keepSlots k i (s.port p).slotMap)) i = some r := found
    have cut : releaseSlots i k s = if k < slotsHeld s r then
        changeRecord i id (s.setSlotMap p (keepSlots k i (s.port p).slotMap))
        else s.setSlotMap p (keepSlots k i (s.port p).slotMap) := by
      simp only [releaseSlots, found, Option.bind_some, egress, held]
    rw [cut]
    by_cases more : k < slotsHeld s r
    · rw [if_pos more, recordAt_changeRecord_self (f := id) (fun _ => rfl) found', decide_eq_true more, Bool.or_true]
      rfl
    · rw [if_neg more, found', decide_eq_false more, Bool.or_false]

end Releasing

/-! ### Suspension (R106) -/

theorem reserveSinks_frame (r : StreamRecord) (cells : Nat) (s : State) :
    changesOnly [.sinks, .req] s (reserveSinks r cells s) :=
  changesOnly.foldl _ (fun s k => changeSink_frame k _ s) r.sinks s

theorem setSettle_frame (r : StreamRecord) (e : Option Epoch) (s : State) :
    changesOnly [.sinks, .req] s (setSettle r e s) :=
  changesOnly.foldl _ (fun s k => changeSink_frame k _ s) r.sinks s

theorem suspend_frame (i : Nat) (c : ReasonCode) (free : Bool) (s : State) :
    changesOnly [.ports, .streams, .sinks, .req] s (suspend i c free s) := by
  have released (k : Nat) (s : State) := (releaseSlots_frame i k s).mono (ys := [.ports, .streams, .sinks, .req]) (by simp)
  unfold suspend
  split
  · exact changesOnly.refl _ s
  · next r _ =>
    split
    · split
      · exact released 0 s
      · exact changesOnly.refl _ s
    · have left := ((changeRecord_frame i (suspended c) s).mono (by simp)).trans (released (if free then 0 else r.cells) _)
      dsimp only
      split
      · exact (left.trans ((reserveSinks_frame r _ _).mono (by simp))).trans ((setSettle_frame r _ _).mono (by simp))
      · exact left

section Suspending

variable {s : State} {i : Nat} {r : StreamRecord} (found : recordAt s i = some r)

include found

/-- A suspension of a record that was not SUSPENDED, but for what its sinks take. -/
theorem suspend_eq (c : ReasonCode) (free : Bool) (state : r.state ≠ .suspended) :
    suspend i c free s =
      if r.state = .retuning then
        setSettle r none (reserveSinks r r.cells
          (releaseSlots i (if free then 0 else r.cells) (changeRecord i (suspended c) s)))
      else releaseSlots i (if free then 0 else r.cells) (changeRecord i (suspended c) s) := by
  simp only [suspend, found, if_neg state]

theorem suspend_of_suspended (c : ReasonCode) (state : r.state = .suspended) : suspend i c true s = releaseSlots i 0 s := by
  simp only [suspend, found, if_pos state, if_true]

theorem recordAt_suspend (c : ReasonCode) (free : Bool) (state : r.state ≠ .suspended) :
    recordAt (suspend i c free s) i = some { suspended c r with changed := true } := by
  have changed : recordAt (changeRecord i (suspended c) s) i = some { suspended c r with changed := true } :=
    recordAt_changeRecord_self (f := suspended c) (fun _ => rfl) found
  have released := recordAt_releaseSlots changed (if free then 0 else r.cells)
  rw [suspend_eq found c free state]
  split
  · rw [recordAt_of_streams ((setSettle_streams _ _ _).trans (reserveSinks_streams _ _ _)), released]
    simp
  · rw [released]
    simp

theorem port_suspend (c : ReasonCode) (free : Bool) (state : r.state ≠ .suspended) (q : PortId) :
    (suspend i c free s).port q = slotsCut (if free then 0 else r.cells) i r.egress q (s.port q) := by
  have changed : recordAt (changeRecord i (suspended c) s) i = some { suspended c r with changed := true } :=
    recordAt_changeRecord_self (f := suspended c) (fun _ => rfl) found
  have released := port_releaseSlots changed (if free then 0 else r.cells) q
  rw [suspend_eq found c free state]
  split
  · rw [port_of_ports (((reserveSinks_frame r _ _).trans (setSettle_frame r _ _)) .ports (by simp)), released]
    rfl
  · exact released

end Suspending

end Sys2Proof.Machine
end

section
/-! SUPPORT. Operations on one record after another (R104, R108 to R110): what each leaves of the other records, of their slots and of
the messages queued, and where in the fold a record has its turn. -/

namespace Sys2Proof.Machine

open Sys2Proof

/-! ### An operation on one record -/

/-- An operation changed the record at one index, freed or took slots of that record, and offered at most `n` messages to a
protocol queue. -/
structure OnRecord (i n : Nat) (s t : State) : Prop where
  records : touchesOnly i s t
  links : ∀ p, sameLink (s.port p) (t.port p)
  slots : ∀ p, (t.port p).slotMap.filter (fun e => e.record != i) = (s.port p).slotMap.filter fun e => e.record != i
  queues : ∀ p, ∃ ms, (t.port p).protocolQueue = (s.port p).protocolQueue ++ ms ∧ ms.length ≤ n
  floods : ∀ p, (t.port p).floodQueue = (s.port p).floodQueue

theorem OnRecord.of_ports {i : Nat} {s t : State} (records : touchesOnly i s t) (ports : t.ports = s.ports) :
    OnRecord i 0 s t := by
  have port := port_of_ports ports
  exact ⟨records, fun p => by rw [port]; rfl, fun p => by rw [port], fun p => ⟨[], by simp [port], Nat.le_refl 0⟩,
    fun p => by rw [port]⟩

theorem OnRecord.refl (i : Nat) (s : State) : OnRecord i 0 s s := .of_ports (.refl i s) rfl

theorem OnRecord.mono {i n m : Nat} {s t : State} (h : OnRecord i n s t) (le : n ≤ m) : OnRecord i m s t :=
  { h with queues := fun p => (h.queues p).imp fun _ ⟨e, l⟩ => ⟨e, l.trans le⟩ }

theorem OnRecord.trans {i n m : Nat} {s t u : State} (h : OnRecord i n s t) (k : OnRecord i m t u) :
    OnRecord i (n + m) s u := by
  refine ⟨h.records.trans k.records, fun p => (h.links p).trans (k.links p), fun p => (k.slots p).trans (h.slots p),
    fun p => ?_, fun p => (k.floods p).trans (h.floods p)⟩
  obtain ⟨ms, e, len⟩ := h.queues p
  obtain ⟨ms', e', len'⟩ := k.queues p
  exact ⟨ms ++ ms', by rw [e', e, List.append_assoc], by rw [List.length_append]; omega⟩

theorem sameLink.state {x y : Port} (h : sameLink x y) : y.state = x.state := by rw [h]
theorem sameLink.delay {x y : Port} (h : sameLink x y) : y.delay = x.delay := by rw [h]

theorem OnRecord.mem {i n : Nat} {s t : State} (h : OnRecord i n s t) {p : PortId} {m : Msg}
    (mem : m ∈ (s.port p).protocolQueue) : m ∈ (t.port p).protocolQueue := by
  obtain ⟨ms, e, -⟩ := h.queues p
  rw [e]
  exact List.mem_append_left _ mem

theorem slotsCut_slots (k i : Nat) (egress : Option PortId) (p : PortId) (x : Port) :
    (slotsCut k i egress p x).slotMap.filter (fun e => e.record != i) = x.slotMap.filter fun e => e.record != i := by
  unfold slotsCut
  split
  · exact keepSlots_others k i x.slotMap
  · rfl

/-- A cut of slots changes the slot map alone. -/
theorem slotsCut_link (k i : Nat) (egress : Option PortId) (p : PortId) (x : Port) : sameLink x (slotsCut k i egress p x) := by
  unfold slotsCut
  split <;> rfl

theorem slotsCut_queues (k i : Nat) (egress : Option PortId) (p : PortId) (x : Port) :
    (slotsCut k i egress p x).protocolQueue = x.protocolQueue ∧ (slotsCut k i egress p x).floodQueue = x.floodQueue := by
  unfold slotsCut
  split <;> exact ⟨rfl, rfl⟩

theorem OnRecord.of_cut {i k : Nat} {egress : Option PortId} {s t : State} (records : touchesOnly i s t)
    (ports : ∀ p, t.port p = slotsCut k i egress p (s.port p)) : OnRecord i 0 s t := by
  refine ⟨records, fun p => ?_, fun p => ?_, fun p => ⟨[], ?_, Nat.le_refl 0⟩, fun p => ?_⟩
  · rw [ports]; exact slotsCut_link ..
  · rw [ports]; exact slotsCut_slots ..
  · rw [ports, List.append_nil]; exact (slotsCut_queues ..).1
  · rw [ports]; exact (slotsCut_queues ..).2

theorem onRecord_releaseSlots (i k : Nat) (s : State) : OnRecord i 0 s (releaseSlots i k s) := by
  cases found : recordAt s i with
  | none =>
    have same : releaseSlots i k s = s := by simp [releaseSlots, found]
    rw [same]
    exact .refl i s
  | some r => exact .of_cut (releaseSlots_touches i k s) (port_releaseSlots found k)

theorem onRecord_suspend (i : Nat) (c : ReasonCode) (free : Bool) (s : State) : OnRecord i 0 s (suspend i c free s) := by
  cases found : recordAt s i with
  | none =>
    have same : suspend i c free s = s := by simp [suspend, found]
    rw [same]
    exact .refl i s
  | some r =>
    by_cases state : r.state = .suspended
    · cases free with
      | true =>
        rw [suspend_of_suspended found c state]
        exact onRecord_releaseSlots i 0 s
      | false =>
        have same : suspend i c false s = s := by simp [suspend, found, state]
        rw [same]
        exact .refl i s
    · exact .of_cut (suspend_touches i c free s) (port_suspend found c free state)

theorem onRecord_sendSide (i : Nat) (side : Option PortId) (m : Msg) (s : State) : OnRecord i 1 s (sendSide side m s) := by
  have offer (x : Port) : ∃ ms, (offered m x).protocolQueue = x.protocolQueue ++ ms ∧ ms.length ≤ 1 := by
    unfold offered
    split
    · exact ⟨[m], rfl, Nat.le_refl 1⟩
    · exact ⟨[], (List.append_nil _).symm, Nat.zero_le 1⟩
  have link (x : Port) : sameLink x (offered m x) := by
    unfold offered
    split <;> rfl
  refine ⟨.of_eq (by rw [sendSide_streams]), fun p => ?_, fun p => ?_, fun p => ?_, fun p => ?_⟩ <;> rw [port_sendSide] <;> split
  · exact link _
  · rfl
  · rw [(offered_fields m (s.port p)).1]
  · rfl
  · exact offer _
  · exact ⟨[], (List.append_nil _).symm, Nat.zero_le 1⟩
  · exact (offered_fields m (s.port p)).2.1
  · rfl

/-! ### Messages on a side -/

/-- A port takes one more message of a record that leaves service. -/
def takesOne (s : State) (p : PortId) : Prop := takesOffers (s.port p).state = true ∧ (s.port p).protocolQueue.length < 20

/-- A port takes two more such messages. -/
def takesTwo (s : State) (p : PortId) : Prop := takesOffers (s.port p).state = true ∧ (s.port p).protocolQueue.length + 2 ≤ 20

theorem takesTwo.one {s : State} {p : PortId} (h : takesTwo s p) : takesOne s p := ⟨h.1, Nat.lt_of_succ_lt h.2⟩

theorem takesOne.of_onRecord {i : Nat} {s t : State} (h : OnRecord i 0 s t) {p : PortId} (room : takesOne s p) :
    takesOne t p := by
  obtain ⟨ms, e, len⟩ := h.queues p
  refine ⟨(h.links p).state ▸ room.1, ?_⟩
  have := room.2
  rw [e, List.length_append]
  omega

theorem takesTwo.of_onRecord {i : Nat} {s t : State} (h : OnRecord i 0 s t) {p : PortId} (room : takesTwo s p) :
    takesTwo t p := by
  obtain ⟨ms, e, len⟩ := h.queues p
  refine ⟨(h.links p).state ▸ room.1, ?_⟩
  have := room.2
  rw [e, List.length_append]
  omega

theorem takesTwo.after_one {i : Nat} {s t : State} (h : OnRecord i 1 s t) {p : PortId} (room : takesTwo s p) :
    takesOne t p := by
  obtain ⟨ms, e, len⟩ := h.queues p
  refine ⟨(h.links p).state ▸ room.1, ?_⟩
  have := room.2
  rw [e, List.length_append]
  omega

/-- A message that tears down, offered on a side with room, stands in its queue. -/
theorem mem_sendSide {side : Option PortId} {m : Msg} {s : State} {p : PortId} (here : side = some p)
    (teardown : protocolRoom m = 20) (room : takesOne s p) : m ∈ ((sendSide side m s).port p).protocolQueue := by
  rw [port_sendSide, if_pos here, offered_of_room room.1 (by rw [teardown]; exact room.2)]
  exact List.mem_append_right _ (List.mem_singleton_self m)

/-! ### Another record while one changes -/

/-- A record, its slots and what is queued, while other records change. -/
structure Beside (i n : Nat) (s t : State) : Prop where
  record : recordAt t i = recordAt s i
  links : ∀ p, sameLink (s.port p) (t.port p)
  slots : ∀ p, slotsNaming i (t.port p).slotMap = slotsNaming i (s.port p).slotMap
  queues : ∀ p, ∃ ms, (t.port p).protocolQueue = (s.port p).protocolQueue ++ ms ∧ ms.length ≤ n

theorem Beside.refl (i : Nat) (s : State) : Beside i 0 s s :=
  ⟨rfl, fun _ => rfl, fun _ => rfl, fun _ => ⟨[], (List.append_nil _).symm, Nat.le_refl 0⟩⟩

theorem Beside.trans {i n m : Nat} {s t u : State} (h : Beside i n s t) (k : Beside i m t u) : Beside i (n + m) s u := by
  refine ⟨k.record.trans h.record, fun p => (h.links p).trans (k.links p), fun p => (k.slots p).trans (h.slots p), fun p => ?_⟩
  obtain ⟨ms, e, len⟩ := h.queues p
  obtain ⟨ms', e', len'⟩ := k.queues p
  exact ⟨ms ++ ms', by rw [e', e, List.append_assoc], by rw [List.length_append]; omega⟩

theorem slotsNaming_of_others {i j : Nat} (ne : i ≠ j) {m m' : List SlotEntry}
    (h : m'.filter (fun e => e.record != j) = m.filter fun e => e.record != j) : slotsNaming i m' = slotsNaming i m := by
  have through (m : List SlotEntry) :
      m.filter (fun e => e.record == i) = (m.filter fun e => e.record != j).filter fun e => e.record == i := by
    rw [List.filter_filter]
    refine List.filter_congr fun e _ => ?_
    by_cases own : e.record = i
    · simp [own, ne]
    · simp [own]
  rw [slotsNaming, slotsNaming, through m', h, ← through]

theorem OnRecord.beside {i j n : Nat} {s t : State} (h : OnRecord j n s t) (ne : i ≠ j) : Beside i n s t :=
  ⟨h.records.recordAt ne, h.links, fun p => slotsNaming_of_others ne (h.slots p), h.queues⟩

theorem Beside.mem {i n : Nat} {s t : State} (h : Beside i n s t) {p : PortId} {m : Msg}
    (mem : m ∈ (s.port p).protocolQueue) : m ∈ (t.port p).protocolQueue := by
  obtain ⟨ms, e, -⟩ := h.queues p
  rw [e]
  exact List.mem_append_left _ mem

theorem Beside.slotsHeld {n : Nat} {s t : State} {r : StreamRecord} (h : Beside r.index n s t) :
    slotsHeld t r = slotsHeld s r := by
  unfold Machine.slotsHeld slotList
  cases r.egress with
  | none => rfl
  | some p => simp only [h.slots p]

/-! ### One record after another -/

section Turns

variable {op : Nat → State → State} (step : ∀ i s, OnRecord i 2 s (op i s))

include step

theorem beside_foldl {i : Nat} {l : List Nat} (out : i ∉ l) (s : State) :
    Beside i (2 * l.length) s (l.foldl (fun s j => op j s) s) := by
  induction l generalizing s with
  | nil => exact .refl i s
  | cons j l ih =>
    have both := ((step j s).beside (List.ne_of_not_mem_cons out)).trans (ih (List.not_mem_of_not_mem_cons out) (op j s))
    rwa [List.foldl_cons, List.length_cons, Nat.mul_succ, Nat.add_comm]

/-- The turn of one record: what was done before it, and after it, was done to others. -/
theorem turn {i : Nat} {l : List Nat} (nodup : l.Nodup) (mem : i ∈ l) (s : State) :
    ∃ u n m, n + 2 ≤ 2 * l.length ∧ Beside i n s u ∧ Beside i m (op i u) (l.foldl (fun s j => op j s) s) := by
  obtain ⟨before, after, rfl⟩ := List.append_of_mem mem
  obtain ⟨-, nodup, apart⟩ := List.nodup_append.1 nodup
  refine ⟨before.foldl (fun s j => op j s) s, 2 * before.length, 2 * after.length, ?_, ?_, ?_⟩
  · rw [List.length_append, List.length_cons]
    omega
  · exact beside_foldl step (fun h => apart i h i List.mem_cons_self rfl) s
  · rw [List.foldl_append, List.foldl_cons]
    exact beside_foldl step (List.nodup_cons.1 nodup).1 _

theorem indices_foldl (l : List Nat) (s : State) : recordIndices (l.foldl (fun s j => op j s) s) = recordIndices s := by
  induction l generalizing s with
  | nil => rfl
  | cons j l ih => rw [List.foldl_cons, ih, (step j s).records.indices]

theorem links_foldl (l : List Nat) (s : State) (p : PortId) :
    sameLink (s.port p) ((l.foldl (fun s j => op j s) s).port p) ∧
      ((l.foldl (fun s j => op j s) s).port p).floodQueue = (s.port p).floodQueue := by
  induction l generalizing s with
  | nil => exact ⟨rfl, rfl⟩
  | cons j l ih =>
    obtain ⟨link, flood⟩ := ih (op j s)
    exact ⟨((step j s).links p).trans link, flood.trans ((step j s).floods p)⟩

end Turns

/-- With room for all messages of all records, each side takes two at a record's turn. -/
theorem takesTwo_of_roomFor {i n : Nat} {s u : State} (h : Beside i n s u) (few : n + 2 ≤ 2 * (recordIndices s).length)
    {p : PortId} (room : roomFor s p) : takesTwo u p := by
  obtain ⟨ms, e, len⟩ := h.queues p
  refine ⟨(h.links p).state ▸ room.1, ?_⟩
  have := room.2
  rw [recordIndices, List.length_map] at few
  rw [e, List.length_append]
  omega

theorem any_congr_mem {α : Type} {l : List α} {f g : α → Bool} (h : ∀ x ∈ l, f x = g x) : l.any f = l.any g := by
  rw [Bool.eq_iff_iff, List.any_eq_true, List.any_eq_true]
  exact exists_congr fun x => and_congr_right fun mem => by rw [h x mem]

/-- Whether a slot entry of a port is of a record there for which `gone` holds. -/
def freedBy (gone : StreamRecord → Bool) (p : PortId) (r : StreamRecord) (e : SlotEntry) : Bool :=
  r.index == e.record && r.egress == some p && gone r

/-- The slots of a port after operations that each free the slots of the records for which `gone` holds. -/
theorem slots_foldl {op : Nat → State → State} (step : ∀ i s, OnRecord i 2 s (op i s)) {gone : StreamRecord → Bool} {p : PortId}
    (frees : ∀ i s, ((op i s).port p).slotMap =
      (s.port p).slotMap.filter fun e => !((recordAt s i).any fun r => freedBy gone p r e))
    {l : List Nat} (nodup : l.Nodup) (s : State) :
    ((l.foldl (fun s j => op j s) s).port p).slotMap =
      (s.port p).slotMap.filter fun e => !(l.any fun i => (recordAt s i).any fun r => freedBy gone p r e) := by
  induction l generalizing s with
  | nil => simp
  | cons j l ih =>
    obtain ⟨out, nodup⟩ := List.nodup_cons.1 nodup
    rw [List.foldl_cons, ih nodup, frees, List.filter_filter]
    refine List.filter_congr fun e _ => ?_
    have later : (l.any fun i => (recordAt (op j s) i).any fun r => freedBy gone p r e) =
        l.any fun i => (recordAt s i).any fun r => freedBy gone p r e := by
      refine any_congr_mem fun i hi => ?_
      rw [(step j s).records.recordAt fun same => out (same ▸ hi)]
    rw [later, List.any_cons, Bool.not_or, Bool.and_comm]

/-- Over all records, these are the slots without those of the records for which `gone` holds. -/
theorem slotsWithout_eq {s : State} (h : RecordsInv s.streams.records) (gone : StreamRecord → Bool) (p : PortId) :
    (s.port p).slotMap.filter (fun e => !((recordIndices s).any fun i => (recordAt s i).any fun r => freedBy gone p r e)) =
      slotsWithout gone s p := by
  refine List.filter_congr fun e _ => ?_
  rw [recordIndices, List.any_map]
  congr 1
  refine any_congr_mem fun r mem => ?_
  simp only [Function.comp_apply, recordAt_of_mem h mem, Option.any_some]
  rfl

/-! ### A loss of time (R109) -/

/-- A record that breaks both ways. -/
def broken (c : ReasonCode) (r : StreamRecord) (s : State) : State :=
  breakDown r c (breakUp r c (suspend r.index c true s))

theorem onRecord_broken (c : ReasonCode) (r : StreamRecord) (s : State) : OnRecord r.index 2 s (broken c r s) :=
  ((onRecord_suspend r.index c true s).trans (onRecord_sendSide _ _ _ _)).trans (onRecord_sendSide _ _ _ _)

section Broken

variable {s : State} {r : StreamRecord} (found : recordAt s r.index = some r) (state : r.state ≠ .suspended) (c : ReasonCode)

include found state

theorem recordAt_broken : recordAt (broken c r s) r.index = some { suspended c r with changed := true } := by
  rw [broken, recordAt_of_streams ((breakDown_streams ..).trans (breakUp_streams ..))]
  exact recordAt_suspend found c true state

theorem slotMap_broken (p : PortId) :
    ((broken c r s).port p).slotMap = (slotsCut 0 r.index r.egress p (s.port p)).slotMap := by
  have sent (side : Option PortId) (m : Msg) (s : State) : ((sendSide side m s).port p).slotMap = (s.port p).slotMap := by
    rw [port_sendSide]
    split
    · exact (offered_fields m _).1
    · rfl
  rw [broken, breakDown, breakUp, sent, sent, port_suspend found c true state]
  rfl

omit found state in
theorem told_broken {p : PortId} (room : takesTwo s p) :
    (upstream r = some p → breakOf r c .towardOrigin ∈ ((broken c r s).port p).protocolQueue) ∧
      (downstream r = some p → breakOf r c .towardTerminus ∈ ((broken c r s).port p).protocolQueue) := by
  have room' := room.of_onRecord (onRecord_suspend r.index c true s)
  have sent := onRecord_sendSide r.index (upstream r) (breakOf r c .towardOrigin) (suspend r.index c true s)
  exact ⟨fun up => (onRecord_sendSide r.index _ _ _).mem (mem_sendSide up rfl room'.one),
    fun down => mem_sendSide down rfl (room'.after_one sent)⟩

end Broken

theorem state_of_inService {r : StreamRecord} (h : inService r = true) : r.state ≠ .suspended ∧ r.state ≠ .closed := by
  constructor <;> rintro e <;> simp [inService, e] at h

theorem timeLostRecord_of_found {s : State} {i : Nat} {r : StreamRecord} (found : recordAt s i = some r) :
    timeLostRecord i s = if inService r then broken .timeLost r s else s := by
  have index := recordAt_index found
  subst index
  simp only [timeLostRecord, found]
  rfl

theorem timeLostRecord_of_none {s : State} {i : Nat} (absent : recordAt s i = none) : timeLostRecord i s = s := by
  simp only [timeLostRecord, absent]

theorem onRecord_timeLost (i : Nat) (s : State) : OnRecord i 2 s (timeLostRecord i s) := by
  cases found : recordAt s i with
  | none =>
    rw [timeLostRecord_of_none found]
    exact (OnRecord.refl i s).mono (Nat.zero_le 2)
  | some r =>
    rw [timeLostRecord_of_found found]
    split
    · rw [← recordAt_index found]
      exact onRecord_broken .timeLost r s
    · exact (OnRecord.refl i s).mono (Nat.zero_le 2)

/-- A cut of all slots, as the entries it leaves. -/
theorem slotsCut_zero (r : StreamRecord) (p : PortId) (x : Port) :
    (slotsCut 0 r.index r.egress p x).slotMap =
      x.slotMap.filter fun e => !(r.index == e.record && r.egress == some p) := by
  unfold slotsCut
  split
  · next e =>
    simp only [keepSlots_zero, e]
    refine List.filter_congr fun e _ => ?_
    simp [bne, Bool.beq_comm]
  · next e =>
    have other : (r.egress == some p) = false := beq_eq_false_iff_ne.2 e
    simp [other]

theorem slots_timeLost (p : PortId) (i : Nat) (s : State) :
    ((timeLostRecord i s).port p).slotMap =
      (s.port p).slotMap.filter fun e => !((recordAt s i).any fun r => freedBy inService p r e) := by
  cases found : recordAt s i with
  | none =>
    rw [timeLostRecord_of_none found]
    simp
  | some r =>
    rw [timeLostRecord_of_found found]
    cases service : inService r with
    | false => simp [freedBy, service]
    | true =>
      have found : recordAt s r.index = some r := recordAt_index found ▸ found
      simp only [if_true, slotMap_broken found (state_of_inService service).1, slotsCut_zero]
      simp [freedBy, service]

theorem nodup_recordIndices {s : State} (h : RecordsInv s.streams.records) : (recordIndices s).Nodup := rising.nodup h.order

theorem loseTime_lost {s : State} (h : RecordsInv s.streams.records) : TimeLost s (loseTime s) := by
  have its {r : StreamRecord} (mem : r ∈ s.streams.records) := turn onRecord_timeLost (nodup_recordIndices h)
    (List.mem_map_of_mem (f := (·.index)) mem) s
  refine ⟨indices_foldl onRecord_timeLost _ s, fun r mem service => ?_, fun r mem service => ?_, fun p => ?_⟩
  · obtain ⟨u, n, m, few, before, after⟩ := its mem
    have found : recordAt u r.index = some r := before.record.trans (recordAt_of_mem h mem)
    rw [timeLostRecord_of_found found, if_pos service] at after
    refine ⟨after.record.trans (recordAt_broken found (state_of_inService service).1 .timeLost), fun p up room => ?_,
      fun p down room => ?_⟩
    · exact after.mem ((told_broken .timeLost (takesTwo_of_roomFor before few room)).1 up)
    · exact after.mem ((told_broken .timeLost (takesTwo_of_roomFor before few room)).2 down)
  · obtain ⟨u, n, m, few, before, after⟩ := its mem
    have found : recordAt u r.index = some r := before.record.trans (recordAt_of_mem h mem)
    rw [timeLostRecord_of_found found, if_neg (by simp [service])] at after
    exact after.record.trans found
  · exact (slots_foldl onRecord_timeLost (slots_timeLost p) (nodup_recordIndices h) s).trans (slotsWithout_eq h inService p)

end Sys2Proof.Machine
end

section
/-! SUPPORT. Changes of timing state where the election stands (R53, R75, R109), and the events and items that announce or
evaluate (R41, R46, R52, R64, R69 to R74, R172). -/

namespace Sys2Proof.Machine

open Sys2Proof

/-! ### What an own announce and an evaluation leave -/

/-- Records, slots and protocol queues stand. -/
structure StreamsStand (s t : State) : Prop where
  streams : t.streams = s.streams
  ports : ∀ p, (t.port p).slotMap = (s.port p).slotMap ∧ (t.port p).protocolQueue = (s.port p).protocolQueue

theorem StreamsStand.of_ports {s t : State} (streams : t.streams = s.streams) (ports : t.ports = s.ports) : StreamsStand s t :=
  ⟨streams, fun p => by rw [port_of_ports ports]; exact ⟨rfl, rfl⟩⟩

theorem StreamsStand.trans {s t u : State} (h : StreamsStand s t) (k : StreamsStand t u) : StreamsStand s u :=
  ⟨k.streams.trans h.streams, fun p => ⟨(k.ports p).1.trans (h.ports p).1, (k.ports p).2.trans (h.ports p).2⟩⟩

theorem announceAdvancing_stand (s : State) : StreamsStand s (announceAdvancing s) := by
  refine ⟨announceAdvancing_frame s .streams (by simp), fun p => ?_⟩
  by_cases id : ownFrame s = 0
  · rw [announceAdvancing_of_noId id]
    exact ⟨rfl, rfl⟩
  · rw [port_announceAdvancing id]
    split <;> exact ⟨rfl, rfl⟩

/-- A loss of time, seen from and after states with the same records, slots and protocol queues. -/
theorem TimeLost.of_stand {s s' t t' : State} (h : TimeLost s' t') (start : s'.streams = s.streams) (ports : s'.ports = s.ports)
    (after : StreamsStand t' t) : TimeLost s t := by
  have same (i : Nat) : recordAt t i = recordAt t' i := recordAt_of_streams after.streams i
  have told {side : Option PortId} {m : Msg} (k : toldOn side m s' t') : toldOn side m s t := fun p here room => by
    rw [(after.ports p).2]
    refine k p here ?_
    rwa [roomFor, port_of_ports ports, start]
  have suspends {r : StreamRecord} (k : standsSuspended .timeLost r t') : standsSuspended .timeLost r t := (same _).trans k
  refine ⟨?_, fun r mem service => ?_, fun r mem service => ?_, fun p => ?_⟩
  · rw [sameRecords, after.streams, h.records, start]
  · obtain ⟨stands, up, down⟩ := h.lost r (start ▸ mem) service
    exact ⟨suspends stands, told up, told down⟩
  · exact (same _).trans (h.others r (start ▸ mem) service)
  · rw [(after.ports p).1, h.slots p, slotsWithout, port_of_ports ports, start]
    rfl

theorem evaluateFor_of_stands {s : State} (h : electionSettled s) (n : Nat) :
    evaluateFor (n + 1) s = { s with dir := { s.dir with hold := (electionOutcome s).2 } } := if_pos h

theorem evaluate_of_settled {s : State} (h : electionSettled s) :
    evaluate s = { s with dir := { s.dir with hold := (electionOutcome s).2 } } := evaluateFor_of_stands h 7

/-! ### A change of timing state (R75) -/

/-- A change of timing state before time is lost. -/
def timingTaken (x : TimingState) (s : State) : State :=
  raise .timing { s with time := { s.time with
    counts := ⟨0, 0, 0, 0⟩, pending := none, state := x
    holdoverTimer := if x = .holdover then some s.req.config.holdoverLimit else none } }

theorem shifted_eq (x : TimingState) (s : State) :
    shifted x s = announceAdvancing
      (if timed s && (x == .acquiring || x == .free) then loseTime (timingTaken x s) else timingTaken x s) := rfl

theorem shifted_timing (x : TimingState) (s : State) : (shifted x s).req.pending.get .timing = true := by
  have taken : (timingTaken x s).req.pending.get .timing = true := by simp [timingTaken, raise_flag]
  rw [shifted_eq]
  refine (announceAdvancing_effects _).notices.2 _ ?_
  split
  · exact (loseTime_effects _).notices.2 _ taken
  · exact taken

theorem shifted_lost {x : TimingState} {s : State} (h : timed s = true) (out : x = .acquiring ∨ x = .free)
    (inv : RecordsInv s.streams.records) : TimeLost s (shifted x s) := by
  have lost : (timed s && (x == .acquiring || x == .free)) = true := by rcases out with rfl | rfl <;> simp [h]
  rw [shifted_eq, if_pos lost]
  exact (loseTime_lost (s := timingTaken x s) inv).of_stand rfl rfl (announceAdvancing_stand _)

theorem shifted_stand {x : TimingState} {s : State} (h : timed s = false ∨ x = .locked ∨ x = .holdover) :
    StreamsStand s (shifted x s) ∧ (shifted x s).sinks = s.sinks := by
  have kept : ¬ (timed s && (x == .acquiring || x == .free)) = true := by rcases h with h | rfl | rfl <;> simp [*]
  rw [shifted_eq, if_neg kept]
  have taken : StreamsStand s (timingTaken x s) := .of_ports rfl rfl
  exact ⟨taken.trans (announceAdvancing_stand _), announceAdvancing_frame _ .sinks (by simp)⟩

theorem electionSettled_shifted {x : TimingState} {s : State} (h : electionStands x s) : electionSettled (shifted x s) := by
  have electorate := (shifted_effects x s).electorate
  have own : ownStands (shifted x s) = ownStands { s with time := { s.time with state := x } } := by
    simp only [ownStands, departing, electorate.swap, shifted_time]
  have won : winner (shifted x s) = winner { s with time := { s.time with state := x } } :=
    winner_of_electorate ⟨electorate.entries, electorate.swap, electorate.refin, electorate.config⟩ own
  have outcome := electionOutcome_congr (s := { s with time := { s.time with state := x } }) electorate.entries won
    (shifted_hold x s) (by rw [shifted_time])
  rw [electionSettled, outcome, shifted_time]
  exact h

/-- A change of timing state where the election stands is one shift, and the hold of its evaluation. -/
theorem changeTiming_of_stands {x : TimingState} {s : State} (ne : s.time.state ≠ x) (stands : electionStands x s)
    (limit : x = .holdover → s.req.config.holdoverLimit ≠ 0) :
    changeTiming x s =
      { shifted x s with dir := { (shifted x s).dir with hold := (electionOutcome (shifted x s)).2 } } := by
  have settled := evaluate_of_settled (electionSettled_shifted stands)
  rw [changeTiming, toTiming_eq _ ne, settled, if_neg]
  rintro ⟨state, timer⟩
  simp only [shifted_time] at state timer
  rw [if_pos state, Option.some.injEq] at timer
  exact limit state timer

/-- Settles O22: the shift changes timing and tells of it, and the evaluation that follows changes the hold alone. -/
theorem timingStateChanges : Obligations.TimingStateChanges := by
  intro x s ne stands limit t
  have effects : TimingEffects s t := changeTiming_effects x s
  have shift : t = { shifted x s with dir := { (shifted x s).dir with hold := (electionOutcome (shifted x s)).2 } } :=
    changeTiming_of_stands ne stands limit
  refine ⟨?_, ?_, effects, fun timed out inv => ?_, fun kept => ?_⟩
  · rw [shift]
    exact shifted_time x s
  · rw [shift]
    exact shifted_timing x s
  · rw [shift]
    exact (shifted_lost timed out inv).of_stand rfl rfl (.of_ports rfl rfl)
  · rw [shift]
    exact ⟨(shifted_stand kept).1.streams, (shifted_stand kept).2⟩

/-! ### TIMING_PRIORITY, USE_REFERENCE, REFIN (R64, R172) -/

theorem evaluate_config (s : State) : (evaluate s).req.config = s.req.config := (evaluate_effects s).electorate.config

@[simp] theorem announceAdvancing_req (s : State) : (announceAdvancing s).req = s.req :=
  announceAdvancing_frame s .req (by simp)

theorem value_of_useReference (v : BitVec 16) :
    BitVec.ofNat 16 (bit (v != 0)) = if v = 0 then (0 : BitVec 16) else 1 := by
  by_cases zero : v = 0
  · rw [if_pos zero, zero]
    rfl
  · rw [if_neg zero, bne_iff_ne.2 zero]
    rfl

theorem setRefin_eq (flag : Bool) (s : State) :
    setRefin flag s =
      if referencePresent { s with time := { s.time with refin := ⟨flag, 0, 0⟩ } } = referencePresent s then
        { s with time := { s.time with refin := ⟨flag, 0, 0⟩ } }
      else evaluate (announceAdvancing (raise .timing { s with time := { s.time with refin := ⟨flag, 0, 0⟩ } })) := rfl

/-- Settles O23: a value taken, then where it counts an own announce and an evaluation. -/
theorem priorityAndReferenceTaken : Obligations.PriorityAndReferenceTaken := by
  refine ⟨fun s v run => ⟨fun same => ?_, fun differs => ?_⟩, fun s run => ⟨fun v => ?_, fun flag full => ?_⟩⟩
  · have arm : exec (.setConfigTimingPriority v) s = execSetConfigTimingPriority v s := rfl
    rw [arm, execSetConfigTimingPriority, request_of_run _ _ run]
    simp only [clamp_zero, if_pos same]
    exact congrArg _ (answerItem_of_value (by rw [itemValue, same]))
  · intro u
    have arm : exec (.setConfigTimingPriority v) s = execSetConfigTimingPriority v s := rfl
    refine ⟨?_, evaluate_settles u, evaluate_effects u⟩
    rw [arm, execSetConfigTimingPriority, request_of_run _ _ run]
    simp only [clamp_zero, if_neg differs]
    refine congrArg _ (answerItem_of_value ?_)
    rw [itemValue, evaluate_config, announceAdvancing_req, State.setConfig_config]
  · intro u w
    have arm : exec (.setConfigUseReference v) s = execSetConfigUseReference v s := rfl
    have shown : u = s.setConfig { s.req.config with useReference := v != 0 } := by
      have flag : decide (v ≠ 0) = (v != 0) := by rw [Bool.eq_iff_iff, decide_eq_true_iff, bne_iff_ne]
      rw [← flag]
    have value : BitVec.ofNat 16 (bit (s.setConfig { s.req.config with useReference := v != 0 }).req.config.useReference) =
        if v = 0 then (0 : BitVec 16) else 1 := value_of_useReference v
    rw [arm, execSetConfigUseReference, request_of_run _ _ run]
    refine ⟨fun same => ?_, fun differs => ⟨?_, evaluate_settles w, evaluate_effects w⟩⟩
    · rw [shown] at same ⊢
      simp only [if_pos same]
      exact congrArg _ (answerItem_of_value (congrArg some value))
    · rw [shown] at differs
      simp only [if_neg differs]
      refine congrArg _ ?_
      have taken : referenceChanged (s.setConfig { s.req.config with useReference := v != 0 }) = evaluate w := by
        rw [← shown]
        rfl
      rw [taken]
      refine answerItem_of_value ?_
      rw [itemValue, evaluate_config, announceAdvancing_req]
      exact congrArg some (shown ▸ value)
  · intro u w
    have reply : exec (if flag then .refinQualified else .refinUnqualified) s = .next (setRefin flag s) := by
      cases flag with
      | true =>
        have arm : exec .refinQualified s = execRefinQualified s := rfl
        simp only [if_true] at full ⊢
        rw [arm, execRefinQualified, event_of_run _ _ run]
        simp [full]
      | false =>
        have arm : exec .refinUnqualified s = execRefinUnqualified s := rfl
        simp only [Bool.false_eq_true, if_false] at full ⊢
        rw [arm, execRefinUnqualified, event_of_run _ _ run]
        simp [full]
    have was : s.time.refin.qualified = !flag := by cases flag <;> simp_all
    rw [reply, setRefin_eq]
    refine ⟨fun unused => ?_, fun used => ⟨?_, evaluate_settles w, evaluate_effects w⟩⟩
    · rw [if_pos (by simp [referencePresent, unused])]
    · rw [if_neg (by simp [referencePresent, used, was])]

/-! ### The directory's timers (R41, R46, R52) -/

/-- An evaluation that hands an outcome raises a DIRECTORY notice. -/
theorem evaluate_directory {s : State} (h : ¬ electionSettled s) : (evaluate s).req.pending.get .directory = true := by
  have told : (handedOn s).req.pending.get .directory = true := by simp [handedOn, raise_flag]
  rw [evaluate, evaluateFor_of_unsettled h]
  exact (handResult_effects _ (evaluateFor_effects 7) _ _).notices.2 _ told

/-- Settles O54: each timer at its end does one thing, then the election is evaluated. -/
theorem directoryTimers : Obligations.DirectoryTimers := by
  intro s run
  have announce : exec .announceTimerExpiry s = execAnnounceTimerExpiry s := rfl
  refine ⟨fun due => ?_, fun idle => ?_, fun x e found alive old => ?_, fun x running => ?_⟩
  · rw [announce, execAnnounceTimerExpiry, event_of_run _ _ run, if_pos due]
    rfl
  · rw [announce, execAnnounceTimerExpiry, event_of_run _ _ run, if_neg (by simp [idle])]
  · intro u
    have arm : exec (.entryAgedOut x) s = execEntryAgedOut x s := rfl
    have aged : agedOut e = true := by simp [agedOut, alive, Figures.expiryAge, old]
    have told : u.req.pending.get .directory = true := by simp [u, raise_flag]
    refine ⟨?_, evaluate_settles u, (evaluate_effects u).notices.2 _ told, evaluate_effects u⟩
    rw [arm, execEntryAgedOut, event_of_run _ _ run, found]
    exact congrArg _ (if_pos aged)
  · intro u
    have arm : exec .electionHoldEnd s = execElectionHoldEnd s := rfl
    refine ⟨?_, evaluate_settles u, evaluate_effects u, fun settled => evaluate_of_settled settled, evaluate_directory⟩
    rw [arm, execElectionHoldEnd, event_of_run _ _ run, running]
    rfl

/-! ### The timing counts (R69 to R74) -/

theorem correctionFor_eq (e : Int) : correctionFor e = max (-4) (min 4 e) := by
  unfold correctionFor
  split
  · omega
  · split <;> omega

/-- A change of timing state where the election stands, as the counts call for it. -/
structure Becomes (x : TimingState) (s t : State) : Prop where
  state : t.time.state = x
  role : t.time.role = s.time.role
  port : t.time.port = s.time.port
  result : t.time.result = s.time.result
  notice : t.req.pending.get .timing = true
  effects : TimingEffects s t

section Counts

variable {x : TimingState} {s : State} (ne : s.time.state ≠ x) (stands : electionStands x s)
  (limit : x = .holdover → s.req.config.holdoverLimit ≠ 0)

include ne stands limit

theorem changeTiming_becomes : Becomes x s (changeTiming x s) := by
  obtain ⟨time, notice, effects, -, -⟩ := timingStateChanges x s ne stands limit
  exact ⟨by rw [time], by rw [time], by rw [time], by rw [time], notice, effects⟩

theorem changeTiming_lost (was : timed s = true) (out : x = .acquiring ∨ x = .free) (inv : RecordsInv s.streams.records) :
    TimeLost s (changeTiming x s) := by
  obtain ⟨-, -, -, lost, -⟩ := timingStateChanges x s ne stands limit
  exact lost was out inv

end Counts

theorem relock_eq {o : Observation} {s : State} (ne : s.time.state ≠ .locked) (stands : electionStands .locked s) :
    relock o s =
      if s.time.role = .follower then
        { changeTiming .locked s with time :=
          { (changeTiming .locked s).time with pending := some (.correction (correctionFor o.error)) } }
      else changeTiming .locked s := by
  have becomes := changeTiming_becomes ne stands (by simp)
  simp only [relock, becomes.state, becomes.role, true_and]

theorem enterAcquiring_eq {o : Observation} {s : State} (ne : s.time.state ≠ .acquiring) (stands : electionStands .acquiring s) :
    enterAcquiring o s = acquire o (changeTiming .acquiring s) :=
  if_pos (changeTiming_becomes ne stands (by simp)).state

theorem timed_of_state {s : State} (h : s.time.state = .locked ∨ s.time.state = .holdover) : timed s = true := by
  rcases h with h | h <;> simp [timed, h]

/-- Settles O55: each count at its top is one change of timing state, and in HOLDOVER the observation is then judged. -/
theorem timingCountsFull : Obligations.TimingCountsFull := by
  intro s run becomes lost
  have of {c : Instr} {x : TimingState} {t : State} (e : exec c s = .next t) (h : Becomes x s t) : becomes c x t :=
    ⟨e, h.state, h.role, h.port, h.result, h.notice, h.effects⟩
  have near : exec .nearCountFull s = execNearCountFull s := rfl
  have unusable : exec .unusableCountFull s = execUnusableCountFull s := rfl
  have far : exec .farCountFull s = execFarCountFull s := rfl
  have expiry : exec .holdoverExpiry s = execHoldoverExpiry s := rfl
  have back : exec .returnCountFull s = execReturnCountFull s := rfl
  refine ⟨fun state count stands => ?_, fun state role count stands limit => ?_, fun state role count stands => ?_,
    fun state role count stands => ?_, fun state timer stands => ?_, fun o state count phase match_ close stands => ?_,
    fun o state count phase away stands => ?_⟩
  · refine ⟨_, of ?_ (changeTiming_becomes (by simp [state]) stands (by simp))⟩
    rw [near, execNearCountFull, event_of_run _ _ run, if_pos ⟨state, count⟩]
  · have ne : s.time.state ≠ .holdover := by simp [state]
    refine ⟨_, of ?_ (changeTiming_becomes ne stands fun _ => limit), ?_⟩
    · rw [unusable, execUnusableCountFull, event_of_run _ _ run, if_pos ⟨count, role⟩, state]
    · rw [(timingStateChanges .holdover s ne stands fun _ => limit).1, if_pos rfl]
  · refine ⟨_, of ?_ (changeTiming_becomes (by simp [state]) stands (by simp))⟩
    rw [unusable, execUnusableCountFull, event_of_run _ _ run, if_pos ⟨count, role⟩, state]
  · have ne : s.time.state ≠ .acquiring := by simp [state]
    refine ⟨_, of ?_ (changeTiming_becomes ne stands (by simp)),
      changeTiming_lost ne stands (by simp) (timed_of_state (.inl state)) (.inl rfl)⟩
    rw [far, execFarCountFull, event_of_run _ _ run, if_pos ⟨state, role, count⟩]
  · have ne : s.time.state ≠ .free := by simp [state]
    refine ⟨_, of ?_ (changeTiming_becomes ne stands (by simp)),
      changeTiming_lost ne stands (by simp) (timed_of_state (.inr state)) (.inr rfl)⟩
    rw [expiry, execHoldoverExpiry, event_of_run _ _ run, if_pos ⟨state, timer⟩]
  · have ne : s.time.state ≠ .locked := by simp [state]
    have judged : exec .returnCountFull s = .next (relock o s) := by
      rw [back, execReturnCountFull, event_of_run _ _ run, if_pos ⟨state, count⟩, phase]
      simp [match_, close]
    have change := changeTiming_becomes ne stands (by simp)
    rw [relock_eq ne stands] at judged
    by_cases role : s.time.role = .follower
    · rw [if_pos role] at judged
      refine ⟨_, of judged ⟨change.state, change.role, change.port, change.result, change.notice,
        change.effects.trans (time_effects _ _ rfl rfl)⟩, fun _ => ?_⟩
      rw [correctionFor_eq]
    · rw [if_neg role] at judged
      exact ⟨_, of judged change, fun h => absurd h role⟩
  · have ne : s.time.state ≠ .acquiring := by simp [state]
    have judged : exec .returnCountFull s = .next (enterAcquiring o s) := by
      rw [back, execReturnCountFull, event_of_run _ _ run, if_pos ⟨state, count⟩, phase]
      have far : ¬ (!o.mismatch && decide (o.error.natAbs ≤ 64)) = true := by
        rcases away with h | h <;> simp [h]
      simp only [if_neg far]
    have change := changeTiming_becomes ne stands (by simp)
    rw [enterAcquiring_eq ne stands] at judged
    refine ⟨_, of judged ⟨change.state, change.role, change.port, change.result, change.notice,
      change.effects.trans (time_effects _ _ rfl rfl)⟩, fun inv => ?_, ?_⟩
    · exact (changeTiming_lost ne stands (by simp) (timed_of_state (.inr state)) (.inl rfl) inv).of_stand rfl rfl
        (.of_ports rfl rfl)
    · simp only [acquire, correctionFor_eq, callsForStep, Bool.or_eq_true, decide_eq_true_eq]

end Sys2Proof.Machine
end

section
/-! SUPPORT. The restart of timing (R76): an evaluation that starts in FREE hands at most what takes the part to LOCKED as master. -/

namespace Sys2Proof.Machine

open Sys2Proof

/-! ### Results that stand -/

/-- Counts are clear, nothing is pending, and the holdover timer is stopped. -/
structure Cleared (s : State) : Prop where
  counts : s.time.counts = ⟨0, 0, 0, 0⟩
  pending : s.time.pending = none
  timer : s.time.holdoverTimer = none

/-- Role and timing port are those of the result, counts are clear and nothing is pending. -/
structure RoleStands (s : State) : Prop where
  counts : s.time.counts = ⟨0, 0, 0, 0⟩
  pending : s.time.pending = none
  role : (s.time.role, s.time.port) = roleOf s.time.result

/-- The part runs as a restart leaves it: LOCKED as master, FREE otherwise. -/
structure Restarted (s : State) : Prop extends Cleared s where
  role : (s.time.role, s.time.port) = roleOf s.time.result
  state : s.time.state = if s.time.result = .thisPart then .locked else .free

/-- The part is FREE and no master, with counts and timer clear. -/
structure Unlocked (s : State) : Prop extends Cleared s where
  state : s.time.state = .free
  follower : s.time.role = .follower

theorem Restarted.stands {s : State} (h : Restarted s) : RoleStands s := ⟨h.counts, h.pending, h.role⟩

/-- What stands by the timing state alone stands in every state with the same. -/
theorem Restarted.of_time {s t : State} (h : Restarted s) (time : t.time = s.time) : Restarted t :=
  ⟨⟨by rw [time, h.counts], by rw [time, h.pending], by rw [time, h.timer]⟩, by rw [time, h.role], by rw [time, h.state]⟩

theorem Unlocked.of_time {s t : State} (h : Unlocked s) (time : t.time = s.time) : Unlocked t :=
  ⟨⟨by rw [time, h.counts], by rw [time, h.pending], by rw [time, h.timer]⟩, by rw [time, h.state], by rw [time, h.follower]⟩

theorem RoleStands.of_time {s t : State} (h : RoleStands s) (time : t.time = s.time) : RoleStands t :=
  ⟨by rw [time, h.counts], by rw [time, h.pending], by rw [time, h.role]⟩

theorem roleStands_handed (r : ElectionResult) (s : State) : RoleStands (handed r s) := by
  refine ⟨?_, ?_, ?_⟩ <;> rw [handed_time]

theorem RoleStands.shifted {s : State} (h : RoleStands s) (x : TimingState) : RoleStands (shifted x s) := by
  refine ⟨?_, ?_, ?_⟩ <;> rw [shifted_time]
  exact h.role

/-- A result handed leaves role and timing port its own, or those of what its evaluations handed after it. -/
theorem roleStands_handResult {eval : State → State} (keeps : ∀ s, RoleStands s → RoleStands (eval s)) (r : ElectionResult)
    (s : State) : RoleStands (handResult eval r s) := by
  have first := roleStands_handed r s
  rw [handResult_eq]
  split
  · split
    · exact keeps _ first
    · exact first
  · next ne =>
    rw [toTiming_eq eval ne]
    have second := keeps _ (first.shifted (stateAfter s r))
    split
    · exact keeps _ (second.shifted .free)
    · exact second

theorem roleStands_evaluateFor (n : Nat) (s : State) (h : RoleStands s) : RoleStands (evaluateFor n s) := by
  induction n generalizing s with
  | zero => exact h
  | succ n ih =>
    by_cases settled : electionSettled s
    · exact h.of_time (evaluateFor_of_settled settled _).2
    · rw [evaluateFor_of_unsettled settled]
      exact roleStands_handResult ih _ _

/-! ### An evaluation without a loss of time -/

theorem StreamsStand.refl (s : State) : StreamsStand s s := .of_ports rfl rfl

theorem handed_stand (r : ElectionResult) (s : State) : StreamsStand s (handed r s) := by
  unfold handed raiseIf
  split <;> exact .of_ports rfl rfl

theorem evaluateFor_stand {s : State} (h : electionSettled s) (n : Nat) : StreamsStand s (evaluateFor n s) := by
  cases n with
  | zero => exact .refl s
  | succ n => rw [evaluateFor_of_stands h]; exact .of_ports rfl rfl

/-- A part that is FREE is handed another frame, or NONE, and stays FREE. -/
theorem restarted_handed {r : ElectionResult} {s : State} (h : Unlocked s) (ne : r ≠ .thisPart) :
    Restarted (handed r s) ∧ Unlocked (handed r s) := by
  have role : (roleOf r).1 = .follower := by cases r <;> simp_all [roleOf]
  have result : (handed r s).time.result = r := by rw [handed_time]
  refine ⟨⟨⟨?_, ?_, ?_⟩, ?_, ?_⟩, ⟨⟨?_, ?_, ?_⟩, ?_, ?_⟩⟩ <;> rw [handed_time]
  · exact h.timer
  · dsimp only
    rw [if_neg ne, h.state]
  · exact h.timer
  · exact h.state
  · exact role

/-- A part handed its own result in FREE becomes LOCKED as master. -/
theorem restarted_locked (s : State) : Restarted (shifted .locked (handed .thisPart s)) := by
  refine ⟨⟨?_, ?_, ?_⟩, ?_, ?_⟩ <;> rw [shifted_time, handed_time] <;> rfl

theorem stateAfter_of_free {s : State} {r : ElectionResult} (ne : r ≠ .thisPart) (state : s.time.state = .free) :
    stateAfter s r = .free := by
  cases r <;> simp_all [stateAfter]

/-- A result handed to a part in FREE, where an evaluation after it leaves what stands. -/
theorem handResult_of_free {eval : State → State} {r : ElectionResult} {s : State} (h : Unlocked s)
    (master : r = .thisPart → (eval (shifted .locked (handed r s))).time = (shifted .locked (handed r s)).time ∧
      StreamsStand (shifted .locked (handed r s)) (eval (shifted .locked (handed r s))))
    (follower : r ≠ .thisPart → Restarted (eval (handed r s)) ∧ StreamsStand (handed r s) (eval (handed r s))) :
    Restarted (handResult eval r s) ∧ StreamsStand s (handResult eval r s) := by
  by_cases own : r = .thisPart
  · obtain ⟨time, stand⟩ := master own
    subst own
    have state : (handed .thisPart s).time.state ≠ .locked := by rw [handed_time]; simp [h.state]
    have locked : Restarted (eval (shifted .locked (handed .thisPart s))) := (restarted_locked s).of_time time
    have untimed : timed (handed .thisPart s) = false := by simp [timed, handed_time, h.state]
    have shift := (handed_stand .thisPart s).trans (shifted_stand (x := .locked) (.inr (.inl rfl))).1
    rw [handResult_eq, stateAfter_thisPart, if_neg state, toTiming_eq eval state, if_neg (by simp [locked.timer])]
    exact ⟨locked, shift.trans stand⟩
  · obtain ⟨restarted, stand⟩ := follower own
    have state : (handed r s).time.state = stateAfter s r := by
      rw [stateAfter_of_free own h.state, handed_time]
      exact h.state
    rw [handResult_eq, if_pos state]
    split
    · exact ⟨restarted, (handed_stand r s).trans stand⟩
    · exact ⟨(restarted_handed h own).1, handed_stand r s⟩

/-- An evaluation of a part in FREE leaves it as it is, or as a restart leaves it; records stand. -/
theorem evaluateFor_of_free {s : State} (h : Unlocked s) (n : Nat) :
    ((evaluateFor n s).time = s.time ∨ Restarted (evaluateFor n s)) ∧ StreamsStand s (evaluateFor n s) := by
  induction n generalizing s with
  | zero => exact ⟨.inl rfl, .refl s⟩
  | succ n ih =>
    by_cases settled : electionSettled s
    · exact ⟨.inl (evaluateFor_of_settled settled _).2, evaluateFor_stand settled _⟩
    rw [evaluateFor_of_unsettled settled]
    have unlocked : Unlocked (handedOn s) := h.of_time rfl
    have on : StreamsStand s (handedOn s) := .of_ports rfl rfl
    have after := handResult_of_free (eval := evaluateFor n) (r := (electionOutcome s).1) unlocked
      (fun own => ?_) (fun other => ?_)
    · exact ⟨.inr after.1, on.trans after.2⟩
    · have spec := (handed_spec (electionOutcome s).1 (handedOn s)).shift .locked
      have settles := settled_of_thisPart spec own rfl
      exact ⟨(evaluateFor_of_settled settles n).2, evaluateFor_stand settles n⟩
    · obtain ⟨restarted, free⟩ := restarted_handed unlocked other
      obtain ⟨same | again, stand⟩ := ih free
      · exact ⟨restarted.of_time same, stand⟩
      · exact ⟨again, stand⟩

/-! ### A result handed again (R76) -/

theorem settled_of_time {s t : State} (h : electionSettled s) (electorate : SameElectorate s t) (hold : t.dir.hold = s.dir.hold)
    (result : t.time.result = s.time.result) (own : ownStands t = ownStands s) : electionSettled t := by
  rw [electionSettled, electionOutcome_congr electorate.entries (winner_of_electorate electorate own) hold result, result]
  exact h

/-- Where this part is the outcome that stands, it is one still as master in LOCKED. -/
theorem settled_of_ownResult {s t : State} (h : electionSettled s) (own : s.time.result = .thisPart)
    (electorate : SameElectorate s t) (result : t.time.result = .thisPart) (locked : t.time.state = .locked) :
    electionSettled t := by
  have outcome : (electionOutcome s).1 = .thisPart := h.trans own
  have won : winner s = .thisPart := by rw [winner_of_outcome (by rw [outcome]; simp), outcome]
  have wins : winner t = .thisPart := by
    by_cases leaving : departing s = true
    · have swap := electorate.swap
      have leaving' : departing t = true := by rwa [departing, swap]
      rw [winner_of_electorate electorate (by simp [ownStands, leaving, leaving']), won]
    · have staying : departing t = false := by
        rw [departing, electorate.swap]
        exact Bool.eq_false_iff.2 leaving
      have stands : ownStands t = true := by simp [ownStands, staying, locked]
      rw [winner_eq, stands, winnerIf_congr electorate]
      cases stood : ownStands s with
      | true => rwa [winner_eq, stood] at won
      | false => exact winnerIf_true_of_thisPart (stood ▸ won)
  rw [electionSettled, result]
  unfold electionOutcome
  simp only [wins, result]
  cases t.dir.hold <;> rfl

/-- The result that stands, handed again to a part in FREE. -/
theorem handResult_again {s : State} (h : Unlocked s) (settled : s.time.result = .thisPart → electionSettled s) :
    Restarted (handResult evaluate s.time.result s) ∧ StreamsStand s (handResult evaluate s.time.result s) := by
  refine handResult_of_free h (fun own => ?_) (fun other => ?_)
  · have handed := handed_effects s.time.result s
    have effects := handed.trans (shifted_effects .locked _)
    have settles : electionSettled (shifted .locked (Machine.handed s.time.result s)) :=
      settled_of_ownResult (settled own) own effects.electorate (by rw [shifted_time, handed_time]; exact own)
        (by rw [shifted_time])
    exact ⟨(evaluateFor_of_settled settles 8).2, evaluateFor_stand settles 8⟩
  · obtain ⟨restarted, free⟩ := restarted_handed h other
    obtain ⟨same | again, stand⟩ := evaluateFor_of_free free 8
    · exact ⟨restarted.of_time same, stand⟩
    · exact ⟨again, stand⟩

theorem Restarted.unlocked {s : State} (h : Restarted s) (ne : s.time.result ≠ .thisPart) : Unlocked s := by
  refine ⟨h.toCleared, by rw [h.state, if_neg ne], ?_⟩
  have role : s.time.role = (roleOf s.time.result).1 := congrArg Prod.fst h.role
  rw [role]
  cases r : s.time.result <;> simp_all [roleOf]

/-- The result that stands, handed again to a part that runs as a restart leaves it. -/
theorem handResult_restarted {s : State} (h : Restarted s) :
    Restarted (handResult evaluate s.time.result s) ∧ StreamsStand s (handResult evaluate s.time.result s) := by
  by_cases own : s.time.result = .thisPart
  · have state : s.time.state = .locked := by rw [h.state, if_pos own]
    have role : (roleOf s.time.result) = (s.time.role, s.time.port) := h.role.symm
    have still : moves s.time.result s = false := by simp [moves, role]
    have again : handResult evaluate s.time.result s = handed s.time.result s := by
      rw [handResult_eq, if_pos, still]
      · rfl
      · rw [handed_time, own, stateAfter_thisPart]
        exact state
    rw [again]
    refine ⟨⟨⟨?_, ?_, ?_⟩, ?_, ?_⟩, handed_stand _ s⟩ <;> rw [handed_time]
    · exact h.timer
    · exact h.state
  · exact handResult_again (h.unlocked own) fun e => absurd e own

/-! ### The step of a restart (R72, R86) -/

theorem reportTriggers_frame (ids : List TriggerId) (s : State) :
    changesOnly [.sinks, .req] s (ids.foldl (fun s id => reportTrigger id s) s) :=
  changesOnly.foldl _ (fun s id => reportTrigger_frame id s) ids s

theorem stepReport_frame (s : State) : changesOnly [.trig, .sinks, .req] s (stepReport s) := by
  unfold stepReport
  dsimp only
  generalize hu : s.setTrig _ = u
  have taken : changesOnly [.trig] s u := hu ▸ setTrig_frame s _
  exact ((taken.mono (by simp)).trans ((reportTriggers_frame _ u).mono (by simp))).trans
    ((raise_frame .trigger _).mono (by simp))

theorem noticesOnly.foldl {α : Type} (f : State → α → State) (h : ∀ s a, noticesOnly s (f s a)) :
    ∀ (l : List α) (s : State), noticesOnly s (l.foldl f s)
  | [], s => .refl s
  | a :: l, s => (h s a).trans (noticesOnly.foldl f h l (f s a))

theorem stepReport_notices (s : State) : noticesOnly s (stepReport s) := by
  unfold stepReport
  dsimp only
  refine noticesOnly.trans (noticesOnly.of_req rfl) (.trans ?_ (noticesOnly.raise .trigger _))
  exact noticesOnly.foldl _ (fun s id => reportTrigger_notices id s) _ _

theorem stepReport_flag (s : State) : (stepReport s).req.pending.get .trigger = true := by
  simp [stepReport, raise_flag]

/-- What a step taken by the Timebase Unit changes before its report. -/
def stepCounted (s : State) : State :=
  raise .timing { s with time := { s.time with stepCount := saturate (s.time.stepCount + 1) } }

theorem reportStep_eq (s : State) : reportStep s = stepReport (stepCounted s) := rfl

theorem reportStep_frame (s : State) : changesOnly [.time, .trig, .sinks, .req] s (reportStep s) := by
  have counted : changesOnly [.time, .trig, .sinks, .req] s (stepCounted s) := by rintro ⟨⟩ h <;> first | rfl | simp at h
  exact counted.trans ((stepReport_frame _).mono (by simp))

theorem reportStep_time (s : State) :
    (reportStep s).time = { s.time with stepCount := min 65535 (s.time.stepCount + 1) } := by
  have count : saturate (s.time.stepCount + 1) = min 65535 (s.time.stepCount + 1) := Nat.min_comm _ _
  rw [reportStep_eq, stepReport_frame _ .time (by simp), stepCounted, count]
  rfl

theorem reportStep_notices (s : State) : noticesOnly s (reportStep s) :=
  (noticesOnly.raise .timing { s with time := _ }).trans (stepReport_notices _)

theorem reportStep_flags (s : State) :
    (reportStep s).req.pending.get .timing = true ∧ (reportStep s).req.pending.get .trigger = true := by
  have counted : (stepCounted s).req.pending.get .timing = true := by simp [stepCounted, raise_flag]
  exact ⟨(stepReport_notices _).2 _ counted, stepReport_flag _⟩

theorem reportStep_electorate (s : State) : SameElectorate s (reportStep s) := by
  have frame := reportStep_frame s
  exact ⟨congrArg (·.entries) (frame .dir (by simp)), frame .swap (by simp), by rw [reportStep_time],
    congrArg (·.config) (reportStep_notices s).1⟩

theorem reportStep_stand (s : State) : StreamsStand s (reportStep s) :=
  .of_ports (reportStep_frame s .streams (by simp)) (reportStep_frame s .ports (by simp))

theorem electionSettled_reportStep {s : State} (h : electionSettled s) : electionSettled (reportStep s) := by
  have frame := reportStep_frame s
  refine settled_of_time h (reportStep_electorate s) (congrArg (·.hold) (frame .dir (by simp))) (by rw [reportStep_time]) ?_
  simp only [ownStands, departing, reportStep_time, (reportStep_electorate s).swap]

/-! ### RESTART_TIMING (R76) -/

/-- The part without its master role and its holdover timer. -/
def demoted (s : State) : State :=
  clearCounts { s with time := { s.time with role := .follower, holdoverTimer := none } }

/-- The part of a restart up to its step. -/
def restartBegun (s : State) : State := changeTiming .free (demoted s)

theorem restartTimebase_eq (s : State) :
    restartTimebase s =
      handResult evaluate (reportStep (restartBegun s)).time.result (reportStep (restartBegun s)) := rfl

theorem demoted_effects (s : State) : TimingEffects s (demoted s) := time_effects _ s rfl rfl

theorem restartBegun_effects (s : State) : TimingEffects s (restartBegun s) :=
  (demoted_effects s).trans (changeTiming_effects .free _)

theorem restartBegun_of_free {s : State} (h : s.time.state = .free) : restartBegun s = demoted s := if_pos h

theorem restartBegun_of_ne {s : State} (h : s.time.state ≠ .free) :
    restartBegun s = evaluate (shifted .free (demoted s)) := by
  have ne : (demoted s).time.state ≠ .free := h
  rw [restartBegun, changeTiming, toTiming_eq _ ne, if_neg]
  rintro ⟨state, timer⟩
  have unlocked : Unlocked (shifted .free (demoted s)) := by refine ⟨⟨?_, ?_, ?_⟩, ?_, ?_⟩ <;> rw [shifted_time] <;> rfl
  rcases (evaluateFor_of_free unlocked 8).1 with same | again
  · rw [evaluate, same, shifted_time] at state
    cases state
  · rw [evaluate, again.timer] at timer
    cases timer

theorem unlocked_shifted {s : State} (h : s.time.role = .follower) : Unlocked (shifted .free s) := by
  refine ⟨⟨?_, ?_, ?_⟩, ?_, ?_⟩ <;> rw [shifted_time]
  · rfl
  · exact h

/-- A counted step changes nothing by which a part stands. -/
theorem Unlocked.reportStep {s : State} (h : Unlocked s) : Unlocked (reportStep s) := by
  refine ⟨⟨?_, ?_, ?_⟩, ?_, ?_⟩ <;> rw [reportStep_time]
  exacts [h.counts, h.pending, h.timer, h.state, h.follower]

theorem Restarted.reportStep {s : State} (h : Restarted s) : Restarted (reportStep s) := by
  refine ⟨⟨?_, ?_, ?_⟩, ?_, ?_⟩ <;> rw [reportStep_time]
  exacts [h.counts, h.pending, h.timer, h.role, h.state]

/-- A restart of a part that is FREE, but not as master. -/
theorem restart_of_free {s : State} (state : s.time.state = .free) (other : s.time.result ≠ .thisPart) :
    Restarted (restartTimebase s) ∧ StreamsStand s (restartTimebase s) := by
  have unlocked : Unlocked (reportStep (demoted s)) := Unlocked.reportStep ⟨⟨rfl, rfl, rfl⟩, state, rfl⟩
  have result : (reportStep (demoted s)).time.result = s.time.result := by
    rw [reportStep_time]
    rfl
  obtain ⟨restarted, stand⟩ := handResult_again unlocked fun own => absurd (result ▸ own) other
  rw [restartTimebase_eq, restartBegun_of_free state]
  have begun : StreamsStand s (demoted s) := .of_ports rfl rfl
  exact ⟨restarted, (begun.trans (reportStep_stand _)).trans stand⟩

/-- A restart of a part in another timing state: what it loses, it loses on the way to FREE. -/
theorem restart_of_ne {s : State} (state : s.time.state ≠ .free) :
    Restarted (restartTimebase s) ∧ StreamsStand (shifted .free (demoted s)) (restartTimebase s) := by
  obtain ⟨stays, stand⟩ := evaluateFor_of_free (unlocked_shifted (s := demoted s) rfl) 8
  have settled : electionSettled (reportStep (evaluate (shifted .free (demoted s)))) :=
    electionSettled_reportStep (evaluate_settles _)
  have again : Restarted (restartTimebase s) ∧
      StreamsStand (reportStep (evaluate (shifted .free (demoted s)))) (restartTimebase s) := by
    rw [restartTimebase_eq, restartBegun_of_ne state]
    rcases stays with same | restarted
    · exact handResult_again ((unlocked_shifted (s := demoted s) rfl).of_time same).reportStep fun _ => settled
    · exact handResult_restarted restarted.reportStep
  exact ⟨again.1, (stand.trans (reportStep_stand _)).trans again.2⟩

/-- Settles O27: a change to FREE, a step, and the result that stands handed again. -/
theorem timingRestarts : Obligations.TimingRestarts := by
  intro s run
  have arm : exec .restartTiming s = execRestartTiming s := rfl
  have begun := restartBegun_effects s
  have again : TimingEffects (reportStep (restartBegun s)) (restartTimebase s) :=
    handResult_effects evaluate evaluate_effects _ _
  have roles : RoleStands (restartTimebase s) := roleStands_handResult (roleStands_evaluateFor 8) _ _
  obtain ⟨timing, trigger⟩ := reportStep_flags (restartBegun s)
  have stepped := reportStep_time (restartBegun s)
  have electorate := reportStep_electorate (restartBegun s)
  have ports : (reportStep (restartBegun s)).ports = (restartBegun s).ports := reportStep_frame _ .ports (by simp)
  refine ⟨restartTimebase s, ?_, ?_, again.notices.2 _ timing, again.notices.2 _ trigger, ?_, roles.counts, roles.pending,
    roles.role, ?_, ?_, fun outside => ?_, fun p => ?_, ?_, ?_⟩
  · rw [arm, execRestartTiming, request_of_run _ _ run, answer_eq]
  · rw [again.steps, stepped, begun.steps]
  · rw [again.pieces .trig (by simp)]
    exact reportStep_unarmed _
  · rw [again.entries, electorate.entries, begun.entries]
  · rw [again.refin, electorate.refin, begun.refin]
  · by_cases state : s.time.state = .free
    · obtain ⟨restarted, stand⟩ := restart_of_free state (outside state)
      have untimed : timed s = false := by simp [timed, state]
      exact ⟨restarted.state, restarted.timer, fun timed => absurd timed (by simp [untimed]), fun _ => stand.streams⟩
    · obtain ⟨restarted, stand⟩ := restart_of_ne state
      refine ⟨restarted.state, restarted.timer, fun was inv => ?_, fun was => ?_⟩
      · exact (shifted_lost (s := demoted s) was (.inr rfl) inv).of_stand rfl rfl stand
      · exact stand.streams.trans (shifted_stand (s := demoted s) (.inl was)).1.streams
  · exact (begun.links p).trans ((by rw [port_of_ports ports]; rfl : sameLink _ _).trans (again.links p))
  · exact (begun.notices.trans (reportStep_notices _)).trans again.notices
  · exact ((begun.pieces.mono (by simp)).trans ((reportStep_frame _).mono (by simp))).trans (again.pieces.mono (by simp))

end Sys2Proof.Machine
end

section
/-! SUPPORT. Departure (R34 to R36, R110): several ports that change state in one event, and every record that breaks. -/

namespace Sys2Proof.Machine

open Sys2Proof

/-! ### Ports that change state together -/

/-- A port in a new state (R33); a delay jump found before no longer stands. -/
def inState (x : PortState) (reason : Option PortReason) (y : Port) : Port :=
  { y with state := x, reason := reason, jumpStands := false }

theorem port_changePort (p : PortId) (x : PortState) (reason : Option PortReason) (s : State) (q : PortId) :
    (changePort p x reason s).port q = if q = p then inState x reason (s.port q) else s.port q := by
  rw [changePort, port_raise, port_setPort]
  split
  · next e => subst e; rfl
  · rfl

theorem changePort_frame (p : PortId) (x : PortState) (reason : Option PortReason) (s : State) :
    changesOnly [.ports, .req] s (changePort p x reason s) := by rintro ⟨⟩ h <;> first | rfl | simp at h

/-- Ports that change to the same state one after another. -/
def changePorts (ps : List PortId) (x : PortState) (reason : Option PortReason) (s : State) : State :=
  ps.foldl (fun s p => changePort p x reason s) s

theorem port_changePorts {ps : List PortId} (nodup : ps.Nodup) (x : PortState) (reason : Option PortReason) (s : State)
    (q : PortId) :
    (changePorts ps x reason s).port q = if q ∈ ps then inState x reason (s.port q) else s.port q :=
  port_foldl (op := fun p s => changePort p x reason s) (fun p s q => port_changePort p x reason s q) nodup s q

theorem changePorts_frame (ps : List PortId) (x : PortState) (reason : Option PortReason) (s : State) :
    changesOnly [.ports, .req] s (changePorts ps x reason s) :=
  changesOnly.foldl _ (fun s p => changePort_frame p x reason s) ps s

theorem changePorts_notices (ps : List PortId) (x : PortState) (reason : Option PortReason) (s : State) :
    noticesOnly s (changePorts ps x reason s) :=
  noticesOnly.foldl _ (fun s p => (noticesOnly.of_req (t := s.setPort p _) rfl).trans (noticesOnly.raise .port _)) ps s

theorem raise_raise (k : NoticeKind) (s : State) : raise k (raise k s) = raise k s := by cases k <;> rfl

/-- A PORT notice that stands already covers all of the changes. -/
theorem changePorts_req (ps : List PortId) (x : PortState) (reason : Option PortReason) (s : State) :
    (changePorts ps x reason (raise .port s)).req = (raise .port s).req := by
  induction ps generalizing s with
  | nil => rfl
  | cons p ps ih =>
    have step : changePort p x reason (raise .port s) =
        raise .port (s.setPort p { s.port p with state := x, reason := reason, jumpStands := false }) := by
      rw [changePort, raise_setPort, raise_raise, port_raise]
    have again := ih (s.setPort p { s.port p with state := x, reason := reason, jumpStands := false })
    rw [changePorts, List.foldl_cons, step]
    exact again

theorem PerPort.ext_get {α : Type} {t u : PerPort α} (h : ∀ p, t.get p = u.get p) : t = u := by
  obtain ⟨a, b, c, d, e, f⟩ := t
  have h0 := h 0
  have h1 := h 1
  have h2 := h 2
  have h3 := h 3
  have h4 := h 4
  have h5 := h 5
  obtain ⟨a', b', c', d', e', f'⟩ := u
  simp_all [PerPort.get]

/-- A state that differs from another in its ports alone. -/
theorem eq_of_ports {s t : State} (frame : changesOnly [.ports, .req] s t) (req : t.req = s.req) {f : Port → Port}
    (ports : ∀ p, t.port p = f (s.port p)) : t = { s with ports := s.ports.map f } := by
  have same : t.ports = s.ports.map f := PerPort.ext_get fun p => (ports p).trans (PerPort.get_map f s.ports p).symm
  have rest (x : Piece) (h : x ∉ [Piece.ports, .req]) := frame x h
  have pending := rest .pending (by simp)
  have inbox := rest .inbox (by simp)
  have clock := rest .clock (by simp)
  have time := rest .time (by simp)
  have dir := rest .dir (by simp)
  have swap := rest .swap (by simp)
  have trig := rest .trig (by simp)
  have streams := rest .streams (by simp)
  have sinks := rest .sinks (by simp)
  have captures := rest .captures (by simp)
  have lane := rest .lane (by simp)
  have pins := rest .pins (by simp)
  cases s
  cases t
  simp_all [agree]

theorem mem_drainingPorts {s : State} {p : PortId} : p ∈ drainingPorts s ↔ (s.port p).state = .draining := by
  simp [drainingPorts, mem_allPorts]

/-! ### The end of the drain (R110) -/

/-- What a record offers at the end of the drain. -/
def drainSent (r : StreamRecord) (s : State) : State :=
  match r.role with
  | .origin => releaseDown r s
  | .transit => breakDown r .departing (breakUp r .departing s)
  | .terminus => breakUp r .departing s
  | .loopback => s

theorem drainSent_onRecord (r : StreamRecord) (s : State) : OnRecord r.index 2 s (drainSent r s) := by
  have one (side : Option PortId) (m : Msg) := (onRecord_sendSide r.index side m s).mono (Nat.le_succ 1)
  unfold drainSent
  split
  · exact one _ _
  · exact (onRecord_sendSide r.index _ _ s).trans (onRecord_sendSide r.index _ _ _)
  · exact one _ _
  · exact (OnRecord.refl r.index s).mono (Nat.zero_le 2)

theorem drainSent_streams (r : StreamRecord) (s : State) : (drainSent r s).streams = s.streams := by
  unfold drainSent
  split <;> simp

theorem slotMap_sendSide (side : Option PortId) (m : Msg) (s : State) (p : PortId) :
    ((sendSide side m s).port p).slotMap = (s.port p).slotMap := by
  rw [port_sendSide]
  split
  · exact (offered_fields m _).1
  · rfl

theorem slotMap_drainSent (r : StreamRecord) (s : State) (p : PortId) :
    ((drainSent r s).port p).slotMap = (s.port p).slotMap := by
  unfold drainSent
  split
  · exact slotMap_sendSide ..
  · exact (slotMap_sendSide ..).trans (slotMap_sendSide ..)
  · exact slotMap_sendSide ..
  · rfl

/-- A record that was not CLOSED at the end of the drain. -/
def drained (r : StreamRecord) (s : State) : State := suspend r.index .departing true (drainSent r s)

theorem drainEndRecord_of_none {s : State} {i : Nat} (absent : recordAt s i = none) : drainEndRecord i s = s := by
  simp only [drainEndRecord, absent]

theorem drainEndRecord_of_found {s : State} {i : Nat} {r : StreamRecord} (found : recordAt s i = some r) :
    drainEndRecord i s = if r.state = .closed then s else drained r s := by
  have index := recordAt_index found
  subst index
  simp only [drainEndRecord, found]
  rfl

theorem onRecord_drained (r : StreamRecord) (s : State) : OnRecord r.index 2 s (drained r s) :=
  (drainSent_onRecord r s).trans (onRecord_suspend r.index .departing true _)

theorem onRecord_drainEnd (i : Nat) (s : State) : OnRecord i 2 s (drainEndRecord i s) := by
  cases found : recordAt s i with
  | none =>
    rw [drainEndRecord_of_none found]
    exact (OnRecord.refl i s).mono (Nat.zero_le 2)
  | some r =>
    rw [drainEndRecord_of_found found]
    split
    · exact (OnRecord.refl i s).mono (Nat.zero_le 2)
    · rw [← recordAt_index found]
      exact onRecord_drained r s

section Drained

variable {s : State} {r : StreamRecord} (found : recordAt s r.index = some r)

include found

theorem found_drainSent : recordAt (drainSent r s) r.index = some r :=
  (recordAt_of_streams (drainSent_streams r s) _).trans found

theorem recordAt_drained (state : r.state ≠ .suspended) :
    recordAt (drained r s) r.index = some { suspended .departing r with changed := true } :=
  recordAt_suspend (found_drainSent found) .departing true state

theorem recordAt_drained_rested (state : r.state = .suspended) :
    recordAt (drained r s) r.index = some { r with changed := r.changed || decide (0 < slotsHeld s r) } := by
  have held : slotsHeld (drainSent r s) r = slotsHeld s r := by
    simp only [slotsHeld, slotList, slotMap_drainSent]
  rw [drained, suspend_of_suspended (found_drainSent found) _ state, recordAt_releaseSlots (found_drainSent found), held]

theorem slotMap_drained (p : PortId) :
    ((drained r s).port p).slotMap = (slotsCut 0 r.index r.egress p (s.port p)).slotMap := by
  have cut (x : Port) : (slotsCut 0 r.index r.egress p x).slotMap =
      if r.egress = some p then keepSlots 0 r.index x.slotMap else x.slotMap := by
    unfold slotsCut
    split <;> rfl
  by_cases state : r.state = .suspended
  · rw [drained, suspend_of_suspended (found_drainSent found) _ state, port_releaseSlots (found_drainSent found), cut, cut,
      slotMap_drainSent]
  · rw [drained, port_suspend (found_drainSent found) _ _ state, if_pos rfl, cut, cut, slotMap_drainSent]

end Drained

section Told

variable {s : State} {r : StreamRecord} {p : PortId} (room : takesTwo s p)

include room

theorem told_origin (role : r.role = .origin) (side : downstream r = some p) :
    .release r.id r.gen ∈ ((drained r s).port p).protocolQueue := by
  refine (onRecord_suspend r.index .departing true _).mem ?_
  rw [drainSent, role]
  exact mem_sendSide side rfl room.one

theorem told_up (role : r.role = .transit ∨ r.role = .terminus) (side : upstream r = some p) :
    breakOf r .departing .towardOrigin ∈ ((drained r s).port p).protocolQueue := by
  have sent : breakOf r .departing .towardOrigin ∈ ((breakUp r .departing s).port p).protocolQueue :=
    mem_sendSide side rfl room.one
  refine (onRecord_suspend r.index .departing true _).mem ?_
  rcases role with role | role
  · rw [drainSent, role]
    exact (onRecord_sendSide r.index _ _ _).mem sent
  · rw [drainSent, role]
    exact sent

theorem told_down (role : r.role = .transit) (side : downstream r = some p) :
    breakOf r .departing .towardTerminus ∈ ((drained r s).port p).protocolQueue := by
  refine (onRecord_suspend r.index .departing true _).mem ?_
  rw [drainSent, role]
  exact mem_sendSide side rfl (room.after_one (onRecord_sendSide r.index _ _ s))

end Told

theorem slots_drainEnd (p : PortId) (i : Nat) (s : State) :
    ((drainEndRecord i s).port p).slotMap =
      (s.port p).slotMap.filter fun e => !((recordAt s i).any fun r => freedBy (fun r => r.state != .closed) p r e) := by
  cases found : recordAt s i with
  | none =>
    rw [drainEndRecord_of_none found]
    simp
  | some r =>
    rw [drainEndRecord_of_found found]
    by_cases closed : r.state = .closed
    · simp [freedBy, closed]
    · have found : recordAt s r.index = some r := recordAt_index found ▸ found
      have outside : (r.state != .closed) = true := bne_iff_ne.2 closed
      rw [if_neg closed, slotMap_drained found, slotsCut_zero]
      simp only [Option.any_some, freedBy, outside, Bool.and_true]

theorem drainEndStreams_ended {s : State} (h : RecordsInv s.streams.records) : DrainEnded s (drainEndStreams s) := by
  have its {r : StreamRecord} (mem : r ∈ s.streams.records) := turn onRecord_drainEnd (nodup_recordIndices h)
    (List.mem_map_of_mem (f := (·.index)) mem) s
  have tells {r : StreamRecord} (mem : r ∈ s.streams.records) (alive : r.state ≠ .closed) {p : PortId} {m : Msg}
      (room : roomFor s p) (sent : ∀ u, takesTwo u p → m ∈ ((drained r u).port p).protocolQueue) :
      m ∈ ((drainEndStreams s).port p).protocolQueue := by
    obtain ⟨u, n, k, few, before, after⟩ := its mem
    have found : recordAt u r.index = some r := before.record.trans (recordAt_of_mem h mem)
    rw [drainEndRecord_of_found found, if_neg alive] at after
    exact after.mem (sent u (takesTwo_of_roomFor before few room))
  refine ⟨indices_foldl onRecord_drainEnd _ s, fun r mem service => ?_, fun r mem state => ?_, fun r mem state => ?_,
    fun r mem alive role p side room => ?_, fun r mem alive role p side room => ?_, fun r mem alive role p side room => ?_,
    fun p => ?_⟩
  · obtain ⟨u, n, k, few, before, after⟩ := its mem
    have found : recordAt u r.index = some r := before.record.trans (recordAt_of_mem h mem)
    rw [drainEndRecord_of_found found, if_neg (state_of_inService service).2] at after
    exact after.record.trans (recordAt_drained found (state_of_inService service).1)
  · obtain ⟨u, n, k, few, before, after⟩ := its mem
    have found : recordAt u r.index = some r := before.record.trans (recordAt_of_mem h mem)
    rw [drainEndRecord_of_found found, if_neg (by simp [state])] at after
    exact (after.record.trans (recordAt_drained_rested found state)).trans (by rw [before.slotsHeld])
  · obtain ⟨u, n, k, few, before, after⟩ := its mem
    have found : recordAt u r.index = some r := before.record.trans (recordAt_of_mem h mem)
    rw [drainEndRecord_of_found found, if_pos state] at after
    exact after.record.trans found
  · exact tells mem alive room fun u two => told_origin two role side
  · exact tells mem alive room fun u two => told_up two role side
  · exact tells mem alive room fun u two => told_down two role side
  · exact (slots_foldl onRecord_drainEnd (slots_drainEnd p) (nodup_recordIndices h) s).trans (slotsWithout_eq h _ p)

/-- The end of the drain, seen from and after states with the same records, slots and protocol queues, and ports that take offers
alike. -/
theorem DrainEnded.of_stand {s s' t t' : State} (h : DrainEnded s' t') (start : s'.streams = s.streams)
    (ports : s'.ports = s.ports) (after : StreamsStand t' t) : DrainEnded s t := by
  have same (i : Nat) : recordAt t i = recordAt t' i := recordAt_of_streams after.streams i
  have port := port_of_ports ports
  have told {side : Option PortId} {m : Msg} (k : toldOn side m s' t') : toldOn side m s t := fun p here room => by
    rw [(after.ports p).2]
    refine k p here ?_
    rwa [roomFor, port, start]
  have held (r : StreamRecord) : slotsHeld s' r = slotsHeld s r := by simp only [slotsHeld, slotList, port]
  refine ⟨?_, fun r mem service => ?_, fun r mem state => ?_, fun r mem state => ?_, fun r mem alive role => ?_,
    fun r mem alive role => ?_, fun r mem alive role => ?_, fun p => ?_⟩
  · rw [sameRecords, after.streams, h.records, start]
  · exact (same _).trans (h.broken r (start ▸ mem) service)
  · rw [same, h.rested r (start ▸ mem) state, held]
  · exact (same _).trans (h.closed r (start ▸ mem) state)
  · exact told (h.origins r (start ▸ mem) alive role)
  · exact told (h.hops r (start ▸ mem) alive role)
  · exact told (h.transits r (start ▸ mem) alive role)
  · rw [(after.ports p).1, h.slots p, slotsWithout, port, start]
    rfl

/-! ### DEPART, CANCEL_DEPART and DRAIN_END (R34 to R36) -/

/-- A part whose drain is over, before its records break. -/
def drainOver (s : State) : State := raise .port { s with swap := { s.swap with departure := .drained } }

theorem endDrain_eq (s : State) :
    endDrain s = changePorts (admittedPorts (drainEndStreams (drainOver s))) .draining none (drainEndStreams (drainOver s)) := rfl

/-- What the end of the drain leaves. -/
structure Ends (s t : State) : Prop where
  swap : t.swap = { s.swap with departure := .drained }
  notice : t.req.pending.get .port = true
  notices : noticesOnly s t
  ended : RecordsInv s.streams.records → DrainEnded s t
  ports : ∀ p, (t.port p).floodQueue = (s.port p).floodQueue ∧
    sameLink (if (s.port p).state = .admitted then inState .draining none (s.port p) else s.port p) (t.port p)
  frame : changesOnly [.ports, .swap, .streams, .sinks, .captures, .req] s t

theorem endDrain_ends (s : State) : Ends s (endDrain s) := by
  have effects : StreamEffects (drainOver s) (drainEndStreams (drainOver s)) :=
    StreamEffects.foldl _ (fun s i => drainEndRecord_effects i s) _ _
  have nodup : (admittedPorts (drainEndStreams (drainOver s))).Nodup := nodup_allPorts.filter _
  have links (p : PortId) := links_foldl onRecord_drainEnd (recordIndices (drainOver s)) (drainOver s) p
  have begun : changesOnly [.swap, .req] s (drainOver s) := by rintro ⟨⟩ h <;> first | rfl | simp at h
  have flag : (drainOver s).req.pending.get .port = true := by simp [drainOver, raise_flag]
  have changed := changePorts_frame (admittedPorts (drainEndStreams (drainOver s))) .draining none
    (drainEndStreams (drainOver s))
  have notices := changePorts_notices (admittedPorts (drainEndStreams (drainOver s))) .draining none
    (drainEndStreams (drainOver s))
  have port (p : PortId) := port_changePorts nodup .draining none (drainEndStreams (drainOver s)) p
  have stand : StreamsStand (drainEndStreams (drainOver s)) (endDrain s) := by
    refine ⟨changed .streams (by simp), fun p => ?_⟩
    rw [endDrain_eq, port p]
    split <;> exact ⟨rfl, rfl⟩
  refine ⟨?_, notices.2 _ (effects.notices.2 _ flag), ?_, fun inv => ?_, fun p => ?_, ?_⟩
  · rw [endDrain_eq, changed .swap (by simp), effects.pieces .swap (by simp)]
    rfl
  · exact ((noticesOnly.raise .port { s with swap := _ }).trans effects.notices).trans notices
  · exact (drainEndStreams_ended (s := drainOver s) inv).of_stand rfl rfl stand
  · obtain ⟨link, flood⟩ := links p
    have link : sameLink (s.port p) ((drainEndStreams (drainOver s)).port p) := link
    have flood : ((drainEndStreams (drainOver s)).port p).floodQueue = (s.port p).floodQueue := flood
    rw [endDrain_eq, port p]
    simp only [mem_admittedPorts, link.state]
    split
    · refine ⟨flood, ?_⟩
      rw [link]
      rfl
    · exact ⟨flood, link⟩
  · exact ((begun.mono (by simp)).trans (effects.pieces.mono (by simp))).trans (changed.mono (by simp))

theorem departing_of_ne {s : State} (h : s.swap.departure ≠ .inService) : departing s = true := by
  simp [departing, h]

theorem departing_of_inService {s : State} (h : s.swap.departure = .inService) : departing s = false := by
  simp [departing, h]

theorem exec_depart {s : State} (run : s.pins.reset = false) (inService : s.swap.departure = .inService)
    (count : Option (BitVec 16)) {m : Nat} (is : m = (match count with | some n => n.toNat | none => s.req.config.drainDefault)) :
    exec (.depart count) s = .next (withAnswer
      (if m = 0 then endDrain (evaluate (announceAdvancing (raise .port { s with swap := ⟨.departing, m⟩ })))
        else evaluate (announceAdvancing (raise .port { s with swap := ⟨.departing, m⟩ }))) .ok .empty) := by
  have arm : exec (.depart count) s = execDepart count s := rfl
  subst is
  rw [arm, execDepart, request_of_run _ _ run]
  cases count <;> simp only [departing_of_inService inService, answer_eq, Bool.false_eq_true, if_false]

/-- The part back in service, with its ports back in ADMITTED. -/
theorem cancelled_eq (s : State) :
    changePorts (drainingPorts (raise .port { s with swap := { s.swap with departure := .inService } })) .admitted none
        (raise .port { s with swap := { s.swap with departure := .inService } }) =
      raise .port
        { s with
          swap := { s.swap with departure := .inService }
          ports := s.ports.map fun x =>
            if x.state = .draining then { x with state := .admitted, reason := none, jumpStands := false } else x } := by
  refine eq_of_ports (s := raise .port { s with swap := { s.swap with departure := .inService } })
    (f := fun x => if x.state = .draining then { x with state := .admitted, reason := none, jumpStands := false } else x)
    (changePorts_frame _ _ _ _) (changePorts_req _ _ _ _) fun p => ?_
  have nodup (s : State) : (drainingPorts s).Nodup := nodup_allPorts.filter _
  rw [port_changePorts (nodup _)]
  simp only [mem_drainingPorts]
  rfl

/-- Settles O25: the departure state decides a request, and the end of the drain is the fold over all records, then all ports. -/
theorem departureRuns : Obligations.DepartureRuns := by
  unfold Obligations.DepartureRuns
  intro ends
  have of {s t : State} (h : Ends s t) : ends s t := ⟨h.swap, h.notice, h.notices, h.ended, h.ports, h.frame⟩
  refine ⟨fun s run => ⟨fun count away => ?_, fun count m inService is => ?_, fun inService => ?_, fun away => ?_⟩,
    fun s run departing timer => ⟨endDrain s, ?_, of (endDrain_ends s)⟩⟩
  · have arm : exec (.depart count) s = execDepart count s := rfl
    rw [arm, execDepart, request_of_run _ _ run]
    simp only [departing_of_ne away, answer_eq, if_true]
  · intro u
    have reply := exec_depart run inService count is
    refine ⟨evaluate_settles u, evaluate_effects u, fun ne => ?_, fun zero => ⟨_, ?_, of (endDrain_ends _)⟩⟩
    · rw [reply, if_neg ne]
    · rw [reply, if_pos zero]
  · have arm : exec .cancelDepart s = execCancelDepart s := rfl
    rw [arm, execCancelDepart, request_of_run _ _ run]
    simp only [departing_of_inService inService, answer_eq, Bool.not_false, if_true]
  · intro u
    have arm : exec .cancelDepart s = execCancelDepart s := rfl
    refine ⟨?_, evaluate_settles u, evaluate_effects u⟩
    have back := cancelled_eq s
    rw [arm, execCancelDepart, request_of_run _ _ run]
    simp only [departing_of_ne away, answer_eq, Bool.not_true, Bool.false_eq_true, if_false]
    rw [changePorts] at back
    rw [back]
  · have arm : exec .drainEnd s = execDrainEnd s := rfl
    rw [arm, execDrainEnd, event_of_run _ _ run, if_pos ⟨departing, timer⟩]

end Sys2Proof.Machine
end

section
/-! SUPPORT. What an evaluation or a change of timing leaves of the records: all of them, or with a HOLDOVER_LIMIT of 0 a loss of
time at most once (R74, R75, R109). -/

namespace Sys2Proof.Machine

open Sys2Proof

/-! ### States alike for the records -/

/-- Records, slots, protocol queues, the states of ports and the items stand. -/
structure Still (s t : State) : Prop extends StreamsStand s t where
  states : ∀ p, (t.port p).state = (s.port p).state
  config : t.req.config = s.req.config

theorem Still.refl (s : State) : Still s s := ⟨.refl s, fun _ => rfl, rfl⟩

theorem Still.trans {s t u : State} (h : Still s t) (k : Still t u) : Still s u :=
  ⟨h.toStreamsStand.trans k.toStreamsStand, fun p => (k.states p).trans (h.states p),
    k.config.trans h.config⟩

theorem Still.of_ports {s t : State} (streams : t.streams = s.streams) (ports : t.ports = s.ports)
    (config : t.req.config = s.req.config) : Still s t := by
  have port := port_of_ports ports
  exact ⟨.of_ports streams ports, fun p => by rw [port], config⟩

theorem still_announceAdvancing (s : State) : Still s (announceAdvancing s) :=
  ⟨announceAdvancing_stand s, fun p => ((announceAdvancing_effects s).links p).state, by simp⟩

theorem Still.raised {s t : State} (h : Still s t) (b : Bool) (k : NoticeKind) : Still s (raiseIf b k t) := by
  refine h.trans ?_
  cases b <;> exact .of_ports rfl rfl rfl

theorem still_handed (r : ElectionResult) (s : State) : Still s (handed r s) := by
  unfold handed
  refine Still.raised ?_ _ _
  exact .of_ports rfl rfl rfl

/-! ### Captures of ports and lanes -/

/-- The capture records of the ports and of the lanes stand. -/
def capturesStand (s t : State) : Prop := t.captures.port = s.captures.port ∧ t.captures.lane = s.captures.lane

theorem capturesStand.refl (s : State) : capturesStand s s := ⟨rfl, rfl⟩

theorem capturesStand.trans {s t u : State} (h : capturesStand s t) (k : capturesStand t u) : capturesStand s u :=
  ⟨k.1.trans h.1, k.2.trans h.2⟩

theorem capturesStand.of_frame {xs : List Piece} {s t : State} (h : changesOnly xs s t) (out : Piece.captures ∉ xs) :
    capturesStand s t := by
  have captures : t.captures = s.captures := h .captures out
  exact ⟨by rw [captures], by rw [captures]⟩

theorem capturesStand_sendSide (side : Option PortId) (m : Msg) (s : State) : capturesStand s (sendSide side m s) := by
  cases side with
  | none => exact ⟨rfl, rfl⟩
  | some p =>
    simp only [sendSide, send]
    split
    · rw [joinProtocol_eq]
      exact ⟨rfl, rfl⟩
    · unfold protocolError captureProtocol
      exact ⟨by rw [raiseIf_capture_captures], by rw [raiseIf_capture_captures]⟩
    · exact ⟨rfl, rfl⟩

theorem capturesStand_suspend (i : Nat) (c : ReasonCode) (free : Bool) (s : State) : capturesStand s (suspend i c free s) :=
  .of_frame (suspend_frame i c free s) (by simp)

theorem capturesStand_releaseSlots (i k : Nat) (s : State) : capturesStand s (releaseSlots i k s) :=
  .of_frame (releaseSlots_frame i k s) (by simp)

theorem capturesStand.foldl {op : Nat → State → State} (step : ∀ i s, capturesStand s (op i s)) (l : List Nat) (s : State) :
    capturesStand s (l.foldl (fun s i => op i s) s) := by
  induction l generalizing s with
  | nil => exact ⟨rfl, rfl⟩
  | cons i l ih => exact (step i s).trans (ih (op i s))

theorem capturesStand_timeLostRecord (i : Nat) (s : State) : capturesStand s (timeLostRecord i s) := by
  cases found : recordAt s i with
  | none =>
    rw [timeLostRecord_of_none found]
    exact ⟨rfl, rfl⟩
  | some r =>
    rw [timeLostRecord_of_found found]
    split
    · exact ((capturesStand_suspend ..).trans (capturesStand_sendSide ..)).trans (capturesStand_sendSide ..)
    · exact ⟨rfl, rfl⟩

theorem capturesStand_loseTime (s : State) : capturesStand s (loseTime s) :=
  capturesStand.foldl capturesStand_timeLostRecord _ s

theorem capturesStand_shifted (x : TimingState) (s : State) : capturesStand s (shifted x s) := by
  have announced (s : State) : capturesStand s (announceAdvancing s) := .of_frame (announceAdvancing_frame s) (by simp)
  have taken : capturesStand s (timingTaken x s) := ⟨rfl, rfl⟩
  rw [shifted_eq]
  split
  · exact (taken.trans (capturesStand_loseTime _)).trans (announced _)
  · exact taken.trans (announced _)

theorem capturesStand_raiseIf (b : Bool) (k : NoticeKind) (s : State) : capturesStand s (raiseIf b k s) := by
  cases b <;> exact ⟨rfl, rfl⟩

section Following

variable {eval : State → State} (follows : ∀ s, capturesStand s (eval s))

include follows

theorem capturesStand_toTiming (x : TimingState) (s : State) : capturesStand s (toTiming eval x s) := by
  by_cases same : s.time.state = x
  · have stays : toTiming eval x s = s := if_pos same
    rw [stays]
    exact .refl s
  · have first := (capturesStand_shifted x s).trans (follows _)
    rw [toTiming_eq eval same]
    split
    · exact (first.trans (capturesStand_shifted _ _)).trans (follows _)
    · exact first

theorem capturesStand_handResult (r : ElectionResult) (s : State) : capturesStand s (handResult eval r s) := by
  have first : capturesStand s (handed r s) := by
    unfold handed
    exact capturesStand.trans (by exact ⟨rfl, rfl⟩) (capturesStand_raiseIf _ _ _)
  rw [handResult_eq]
  split
  · split
    · exact first.trans (follows _)
    · exact first
  · exact first.trans (capturesStand_toTiming follows _ _)

end Following

theorem capturesStand_evaluateFor (n : Nat) (s : State) : capturesStand s (evaluateFor n s) := by
  induction n generalizing s with
  | zero => exact .refl s
  | succ n ih =>
    by_cases settled : electionSettled s
    · rw [evaluateFor_of_stands settled]
      exact ⟨rfl, rfl⟩
    · rw [evaluateFor_of_unsettled settled]
      exact capturesStand_handResult ih _ (handedOn s)

theorem capturesStand_evaluate (s : State) : capturesStand s (evaluate s) := capturesStand_evaluateFor 8 s

theorem capturesStand_timingPortLost (p : PortId) (s : State) : capturesStand s (timingPortLost p s) := by
  have change (x : TimingState) : capturesStand s (changeTiming x (clearCounts s)) :=
    capturesStand_toTiming capturesStand_evaluate x (clearCounts s)
  unfold timingPortLost
  split
  · split
    · exact change _
    · exact change _
    · exact ⟨rfl, rfl⟩
    · exact ⟨rfl, rfl⟩
  · exact .refl s

/-! ### At most one loss of time -/

theorem recordsInv_of_indices {s t : State} (h : RecordsInv s.streams.records) (same : recordIndices t = recordIndices s) :
    RecordsInv t.streams.records := by
  have order : rising (recordIndices t) := same ▸ h.order
  refine ⟨order, fun r mem => ?_⟩
  have index : r.index ∈ recordIndices s := same ▸ List.mem_map_of_mem (f := (·.index)) mem
  obtain ⟨x, hx, e⟩ := List.mem_map.1 index
  rw [← e]
  exact h.range x hx

theorem indices_loseTime (s : State) : recordIndices (loseTime s) = recordIndices s := indices_foldl onRecord_timeLost _ s

/-- No record found is in service. -/
def noneInService (s : State) : Prop := ∀ i r, recordAt s i = some r → inService r = false

theorem loseTime_of_none {s : State} (h : noneInService s) : loseTime s = s := by
  have idle (l : List Nat) : l.foldl (fun s i => timeLostRecord i s) s = s := by
    induction l with
    | nil => rfl
    | cons i l ih =>
      have same : timeLostRecord i s = s := by
        cases found : recordAt s i with
        | none => exact timeLostRecord_of_none found
        | some r => rw [timeLostRecord_of_found found, if_neg (by simp [h i r found])]
      rw [List.foldl_cons, same, ih]
  exact idle _

theorem noneInService_loseTime {s : State} (h : RecordsInv s.streams.records) : noneInService (loseTime s) := by
  intro i r found
  have inv := recordsInv_of_indices h (indices_loseTime s)
  have index : i ∈ recordIndices s := by
    rw [← indices_loseTime s, ← recordAt_index found]
    exact List.mem_map_of_mem (f := (·.index)) (recordAt_mem found)
  obtain ⟨x, mem, e⟩ := List.mem_map.1 index
  have lost := loseTime_lost h
  by_cases service : inService x = true
  · have stands := (lost.lost x mem service).1
    rw [standsSuspended, e, found, Option.some.injEq] at stands
    rw [stands]
    rfl
  · have stands := lost.others x mem (Bool.eq_false_iff.2 service)
    rw [e, found, Option.some.injEq] at stands
    rw [stands]
    exact Bool.eq_false_iff.2 service

/-- Records stand, or, where the HOLDOVER_LIMIT is 0, time was lost once. -/
def stillOrLost (s t : State) : Prop :=
  Still s t ∨ (s.req.config.holdoverLimit = 0 ∧ ∃ u, Still s u ∧ Still (loseTime u) t)

theorem stillOrLost.of_still {s t : State} (h : Still s t) : stillOrLost s t := .inl h

theorem stillOrLost.config {s t : State} (h : stillOrLost s t) : t.req.config = s.req.config := by
  rcases h with h | ⟨-, u, before, after⟩
  · exact h.config
  · have kept : (loseTime u).req.config = u.req.config := (loseTime_effects u).timing.electorate.config
    rw [after.config, kept, before.config]

theorem stillOrLost.indices {s t : State} (h : stillOrLost s t) : recordIndices t = recordIndices s := by
  rcases h with h | ⟨-, u, before, after⟩
  · rw [recordIndices, h.streams]
    rfl
  · have same : recordIndices u = recordIndices s := by rw [recordIndices, before.streams]; rfl
    rw [← same, ← indices_loseTime u, recordIndices, after.streams]
    rfl

theorem stillOrLost.trans {s t v : State} (inv : RecordsInv s.streams.records) (h : stillOrLost s t) (k : stillOrLost t v) :
    stillOrLost s v := by
  have limit := h.config
  rcases h with h | ⟨zero, u, before, after⟩
  · rcases k with k | ⟨zero, u, before, after⟩
    · exact .inl (h.trans k)
    · exact .inr ⟨limit ▸ zero, u, h.trans before, after⟩
  · rcases k with k | ⟨-, u', before', after'⟩
    · exact .inr ⟨zero, u, before, after.trans k⟩
    · have inv' : RecordsInv u.streams.records := before.streams.symm ▸ inv
      have same : u'.streams = (loseTime u).streams := before'.streams.trans after.streams
      have idle : loseTime u' = u' := loseTime_of_none fun i r found =>
        noneInService_loseTime inv' i r ((recordAt_of_streams same i).symm.trans found)
      rw [idle] at after'
      exact .inr ⟨zero, u, before, (after.trans before').trans after'⟩

/-! ### Changes of timing state and evaluations -/

/-- A holdover timer that stands at 0 was set with a HOLDOVER_LIMIT of 0. -/
def timerByLimit (s : State) : Prop := s.time.holdoverTimer = some 0 → s.req.config.holdoverLimit = 0

theorem timerByLimit_shifted (x : TimingState) (s : State) : timerByLimit (shifted x s) := by
  intro timer
  rw [shifted_time] at timer
  have config : (shifted x s).req.config = s.req.config := (shifted_effects x s).electorate.config
  rw [config]
  by_cases out : x = .holdover
  · simpa [out] using timer
  · simp [out] at timer

theorem stillOrLost_shifted {x : TimingState} {s : State}
    (h : timed s = true → x = .acquiring ∨ x = .free → s.req.config.holdoverLimit = 0) : stillOrLost s (shifted x s) := by
  have taken : Still s (timingTaken x s) := .of_ports rfl rfl rfl
  rw [shifted_eq]
  by_cases lost : (timed s && (x == .acquiring || x == .free)) = true
  · rw [if_pos lost]
    simp only [Bool.and_eq_true, Bool.or_eq_true, beq_iff_eq] at lost
    exact .inr ⟨h lost.1 lost.2, _, taken, still_announceAdvancing _⟩
  · rw [if_neg lost]
    exact .inl (taken.trans (still_announceAdvancing _))

section Timer

variable {eval : State → State} (keeps : ∀ s, timerByLimit s → timerByLimit (eval s))

include keeps

theorem timerByLimit_toTiming {x : TimingState} {s : State} (h : timerByLimit s) : timerByLimit (toTiming eval x s) := by
  by_cases same : s.time.state = x
  · have stays : toTiming eval x s = s := if_pos same
    rwa [stays]
  · rw [toTiming_eq eval same]
    split
    · exact keeps _ (timerByLimit_shifted _ _)
    · exact keeps _ (timerByLimit_shifted _ _)

theorem timerByLimit_handResult {r : ElectionResult} {s : State} (h : timerByLimit s) :
    timerByLimit (handResult eval r s) := by
  have handed : timerByLimit (handed r s) := fun zero => by
    rw [(still_handed r s).config]
    rw [handed_time] at zero
    exact h zero
  rw [handResult_eq]
  split
  · split
    · exact keeps _ handed
    · exact handed
  · exact timerByLimit_toTiming keeps handed

end Timer

theorem timerByLimit_evaluateFor (n : Nat) (s : State) (h : timerByLimit s) : timerByLimit (evaluateFor n s) := by
  induction n generalizing s with
  | zero => exact h
  | succ n ih =>
    by_cases settled : electionSettled s
    · rw [evaluateFor_of_stands settled]
      exact h
    · rw [evaluateFor_of_unsettled settled]
      exact timerByLimit_handResult ih (s := handedOn s) h

/-- An evaluation that leaves the records, but for what a limit of 0 allows. -/
structure Spares (eval : State → State) : Prop where
  records : ∀ s, RecordsInv s.streams.records → stillOrLost s (eval s)
  timer : ∀ s, timerByLimit s → timerByLimit (eval s)

/-- No change of timing state that a handed result asks for loses time. -/
theorem stateAfter_keepsTime {r : ElectionResult} {s : State} (h : timed s = true) :
    stateAfter s r ≠ .acquiring ∧ stateAfter s r ≠ .free := by
  unfold timed at h
  cases was : s.time.state with
  | free | acquiring => simp [was] at h
  | locked | holdover =>
    cases r with
    | thisPart => simp [stateAfter]
    | nobody => simp [stateAfter, was]
    | frame x p =>
      cases usable : timingUsable s p <;> simp [stateAfter, was, usable]

section Sparing

variable {eval : State → State} (spares : Spares eval)

include spares

theorem toTiming_spares {x : TimingState} {s : State} (inv : RecordsInv s.streams.records)
    (h : timed s = true → x ≠ .acquiring ∧ x ≠ .free) : stillOrLost s (toTiming eval x s) := by
  by_cases same : s.time.state = x
  · have stays : toTiming eval x s = s := if_pos same
    rw [stays]
    exact .inl (.refl s)
  · have shift : stillOrLost s (shifted x s) := stillOrLost_shifted fun was out => by
      obtain ⟨a, b⟩ := h was
      rcases out with out | out <;> contradiction
    have both := shift.trans inv (spares.records _ (recordsInv_of_indices inv shift.indices))
    rw [toTiming_eq eval same]
    split
    · next out =>
      have limit : (eval (shifted x s)).req.config.holdoverLimit = 0 :=
        spares.timer _ (timerByLimit_shifted x s) out.2
      have again := both.trans inv (stillOrLost_shifted (x := .free) fun _ _ => limit)
      exact again.trans inv (spares.records _ (recordsInv_of_indices inv again.indices))
    · exact both

theorem handResult_spares {r : ElectionResult} {s : State} (inv : RecordsInv s.streams.records) :
    stillOrLost s (handResult eval r s) := by
  have still := still_handed r s
  have inv' : RecordsInv (handed r s).streams.records := still.streams.symm ▸ inv
  rw [handResult_eq]
  split
  · split
    · exact (stillOrLost.of_still still).trans inv (spares.records _ inv')
    · exact .inl still
  · have state : (handed r s).time.state = s.time.state := by rw [handed_time]
    exact (stillOrLost.of_still still).trans inv
      (toTiming_spares spares inv' fun was => stateAfter_keepsTime (by rwa [timed, state] at was))

end Sparing

theorem still_hold (s : State) (hold : Option ElectionHold) : Still s { s with dir := { s.dir with hold := hold } } :=
  .of_ports rfl rfl rfl

theorem evaluateFor_spares (n : Nat) : Spares (evaluateFor n) := by
  refine ⟨?_, timerByLimit_evaluateFor n⟩
  induction n with
  | zero => exact fun s _ => .inl (.refl s)
  | succ n ih =>
    intro s inv
    by_cases settled : electionSettled s
    · rw [evaluateFor_of_stands settled]
      exact .inl (still_hold s _)
    · rw [evaluateFor_of_unsettled settled]
      have on : Still s (handedOn s) := .of_ports rfl rfl rfl
      exact (stillOrLost.of_still on).trans inv (handResult_spares ⟨ih, timerByLimit_evaluateFor n⟩ (s := handedOn s) inv)

theorem evaluate_spares {s : State} (inv : RecordsInv s.streams.records) : stillOrLost s (evaluate s) :=
  (evaluateFor_spares 8).records s inv

theorem changeTiming_spares {x : TimingState} {s : State} (inv : RecordsInv s.streams.records)
    (h : timed s = true → x ≠ .acquiring ∧ x ≠ .free) : stillOrLost s (changeTiming x s) :=
  toTiming_spares (evaluateFor_spares 8) inv h

/-- An entry whose next hop is lost with a port (R47). -/
def hopHit (p : PortId) (e : DirEntry) : Bool := e.state != .lost && e.nextHop == p

/-- Next hops through a port lost, before the election is evaluated (R47). -/
def hopsLost (p : PortId) (s : State) : State :=
  raiseIf (s.dir.entries.any (hopHit p)) .directory
    { s with dir := { s.dir with
      entries := s.dir.entries.map fun e => if hopHit p e then { e with state := .lost } else e } }

theorem nextHopLost_eq (p : PortId) (s : State) : nextHopLost p s = evaluate (hopsLost p s) := rfl

theorem still_hopsLost (p : PortId) (s : State) : Still s (hopsLost p s) := by
  unfold hopsLost
  refine Still.raised ?_ _ _
  exact .of_ports rfl rfl rfl

theorem capturesStand_nextHopLost (p : PortId) (s : State) : capturesStand s (nextHopLost p s) := by
  have lost : capturesStand s (hopsLost p s) := by
    unfold hopsLost
    exact capturesStand.trans (by exact ⟨rfl, rfl⟩) (capturesStand_raiseIf _ _ _)
  exact lost.trans (capturesStand_evaluate _)

theorem nextHopLost_spares (p : PortId) {s : State} (inv : RecordsInv s.streams.records) :
    stillOrLost s (nextHopLost p s) := by
  have lost := still_hopsLost p s
  exact (stillOrLost.of_still lost).trans inv (evaluate_spares (lost.streams.symm ▸ inv))

theorem timingPortLost_spares (p : PortId) {s : State} (inv : RecordsInv s.streams.records) :
    stillOrLost s (timingPortLost p s) := by
  have cleared : Still s (clearCounts s) := .of_ports rfl rfl rfl
  unfold timingPortLost
  split
  · split
    · exact (stillOrLost.of_still cleared).trans inv (changeTiming_spares inv fun _ => ⟨nofun, nofun⟩)
    · next state =>
      refine (stillOrLost.of_still cleared).trans inv (changeTiming_spares inv fun was => ?_)
      have untimed : timed (clearCounts s) = false := by simp [timed, clearCounts, state]
      rw [untimed] at was
      cases was
    · exact .inl cleared
    · exact .inl cleared
  · exact .inl (.refl s)

end Sys2Proof.Machine
end

section
/-! SUPPORT. Port resets (R30, R31): the port itself, the records on it (R108), and the causes. -/

namespace Sys2Proof.Machine

open Sys2Proof

/-! ### Every record on the reset of a port (R108) -/

section OneRecord

variable {p : PortId} {s : State} {i : Nat}

theorem portResetRecord_of_none (absent : recordAt s i = none) : portResetRecord p i s = s := by
  simp only [portResetRecord, absent]

theorem portResetRecord_of_found {r : StreamRecord} (found : recordAt s i = some r) :
    portResetRecord p i s =
      if r.egress = some p then
        if inService r then breakUp r .pathLost (suspend i .pathLost true s)
        else if r.state = .suspended then releaseSlots i 0 s
        else s
      else if r.ingress = .port p ∧ inService r then breakDown r .pathLost (suspend i .pathLost false s)
      else s := by
  simp only [portResetRecord, found]

end OneRecord

theorem onRecord_portReset (p : PortId) (i : Nat) (s : State) : OnRecord i 2 s (portResetRecord p i s) := by
  have same : OnRecord i 2 s s := (OnRecord.refl i s).mono (Nat.zero_le 2)
  have one (free : Bool) (side : Option PortId) (m : Msg) : OnRecord i 2 s (sendSide side m (suspend i .pathLost free s)) :=
    ((onRecord_suspend i .pathLost free s).trans (onRecord_sendSide i side m _)).mono (Nat.le_succ 1)
  cases found : recordAt s i with
  | none => rwa [portResetRecord_of_none found]
  | some r =>
    rw [portResetRecord_of_found found]
    split
    · split
      · exact one true _ _
      · split
        · exact (onRecord_releaseSlots i 0 s).mono (Nat.zero_le 2)
        · exact same
    · split
      · exact one false _ _
      · exact same

section Fold

variable {p : PortId} {s : State} (inv : RecordsInv s.streams.records) {r : StreamRecord} (mem : r ∈ s.streams.records)

include inv mem

/-- The turn of a record when a port is reset. -/
theorem portReset_turn :
    ∃ u n m, n + 2 ≤ 2 * (recordIndices s).length ∧ Beside r.index n s u ∧ recordAt u r.index = some r ∧
      Beside r.index m (portResetRecord p r.index u) (portResetStreams p s) := by
  obtain ⟨u, n, m, few, before, after⟩ := turn (onRecord_portReset p) (nodup_recordIndices inv)
    (List.mem_map_of_mem (f := (·.index)) mem) s
  exact ⟨u, n, m, few, before, before.record.trans (recordAt_of_mem inv mem), after⟩

theorem portReset_outbound (egress : r.egress = some p) (service : inService r = true) :
    standsSuspended .pathLost r (portResetStreams p s) ∧
      toldOn (upstream r) (breakOf r .pathLost .towardOrigin) s (portResetStreams p s) := by
  obtain ⟨u, n, m, few, before, found, after⟩ := portReset_turn (p := p) inv mem
  rw [portResetRecord_of_found found, if_pos egress, if_pos service] at after
  refine ⟨after.record.trans ?_, fun q side room => after.mem ?_⟩
  · rw [recordAt_of_streams (breakUp_streams ..)]
    exact recordAt_suspend found .pathLost true (state_of_inService service).1
  · have two := (takesTwo_of_roomFor before few room).of_onRecord (onRecord_suspend r.index .pathLost true u)
    exact mem_sendSide side rfl two.one

theorem portReset_inbound (ingress : r.ingress = .port p) (egress : r.egress ≠ some p) (service : inService r = true) :
    standsSuspended .pathLost r (portResetStreams p s) ∧
      toldOn (downstream r) (breakOf r .pathLost .towardTerminus) s (portResetStreams p s) ∧
      ∀ q, r.egress = some q → slotsNaming r.index ((portResetStreams p s).port q).slotMap =
        (slotsNaming r.index (s.port q).slotMap).take r.cells := by
  obtain ⟨u, n, m, few, before, found, after⟩ := portReset_turn (p := p) inv mem
  have state := (state_of_inService service).1
  rw [portResetRecord_of_found found, if_neg egress, if_pos ⟨ingress, service⟩] at after
  refine ⟨after.record.trans ?_, fun q side room => after.mem ?_, fun q out => ?_⟩
  · rw [recordAt_of_streams (breakDown_streams ..)]
    exact recordAt_suspend found .pathLost false state
  · have two := (takesTwo_of_roomFor before few room).of_onRecord (onRecord_suspend r.index .pathLost false u)
    exact mem_sendSide side rfl two.one
  · rw [after.slots q, breakDown, slotMap_sendSide, port_suspend found .pathLost false state, slotsCut, if_pos out]
    simp only [Bool.false_eq_true, if_false, slotsNaming_keepSlots, before.slots q]

theorem portReset_resting (egress : r.egress = some p) (state : r.state = .suspended) :
    recordAt (portResetStreams p s) r.index = some { r with changed := r.changed || decide (0 < slotsHeld s r) } := by
  obtain ⟨u, n, m, few, before, found, after⟩ := portReset_turn (p := p) inv mem
  have idle : ¬ inService r = true := fun h => (state_of_inService h).1 state
  rw [portResetRecord_of_found found, if_pos egress, if_neg idle, if_pos state] at after
  exact (after.record.trans (recordAt_releaseSlots found 0)).trans (by rw [before.slotsHeld])

theorem portReset_others (egress : r.egress = some p → r.state = .closed)
    (ingress : r.ingress ≠ .port p ∨ inService r = false) :
    recordAt (portResetStreams p s) r.index = some r ∧
      ∀ q, slotsNaming r.index ((portResetStreams p s).port q).slotMap = slotsNaming r.index (s.port q).slotMap := by
  obtain ⟨u, n, m, few, before, found, after⟩ := portReset_turn (p := p) inv mem
  have same : portResetRecord p r.index u = u := by
    rw [portResetRecord_of_found found]
    by_cases out : r.egress = some p
    · have closed := egress out
      have idle : ¬ inService r = true := fun h => (state_of_inService h).2 closed
      rw [if_pos out, if_neg idle, if_neg (by simp [closed])]
    · rw [if_neg out, if_neg]
      rintro ⟨here, service⟩
      rcases ingress with other | idle
      · exact other here
      · rw [idle] at service
        cases service
  rw [same] at after
  exact ⟨after.record.trans found, fun q => (after.slots q).trans (before.slots q)⟩

end Fold

theorem portResetStreams_mem {p q : PortId} {s : State} {m : Msg} (h : m ∈ (s.port q).protocolQueue) :
    m ∈ ((portResetStreams p s).port q).protocolQueue := by
  have fold (l : List Nat) (s : State) (h : m ∈ (s.port q).protocolQueue) :
      m ∈ ((l.foldl (fun s i => portResetRecord p i s) s).port q).protocolQueue := by
    induction l generalizing s with
    | nil => exact h
    | cons i l ih => exact ih _ ((onRecord_portReset p i s).mem h)
  exact fold _ s h

theorem capturesStand_portResetStreams (p : PortId) (s : State) : capturesStand s (portResetStreams p s) := by
  refine capturesStand.foldl (fun i s => ?_) _ s
  cases found : recordAt s i with
  | none =>
    rw [portResetRecord_of_none found]
    exact .refl s
  | some r =>
    rw [portResetRecord_of_found found]
    split
    · split
      · exact (capturesStand_suspend ..).trans (capturesStand_sendSide ..)
      · split
        · exact capturesStand_releaseSlots ..
        · exact .refl s
    · split
      · exact (capturesStand_suspend ..).trans (capturesStand_sendSide ..)
      · exact .refl s

theorem indices_portResetStreams (p : PortId) (s : State) : recordIndices (portResetStreams p s) = recordIndices s :=
  indices_foldl (onRecord_portReset p) _ s

/-! ### The blocks that react before the Stream Table -/

/-- The port's own state taken, with a PORT notice. -/
def resetBegun (p : PortId) (s : State) : State := raise .port (s.setPort p (resetOwnState (s.port p)))

/-- A port reset as it stands when the Stream Table reacts. -/
def resetTimed (p : PortId) (s : State) : State := closeDelay p (nextHopLost p (resetBegun p s))

theorem portReset_eq (p : PortId) (c : ErrorKind) (d : Detail) (s : State) :
    portReset p c d s = capturePort p c none none d ((portResetStreams p (resetTimed p s)).setSlotMap p []) := rfl

theorem still_setDelay (p : PortId) (x : DelayRecord) (s : State) : Still s (s.setPort p { s.port p with delay := x }) := by
  have port (q : PortId) : (s.setPort p { s.port p with delay := x }).port q =
      if q = p then { s.port q with delay := x } else s.port q := by
    rw [port_setPort]
    split
    · next e => subst e; rfl
    · rfl
  refine ⟨⟨rfl, fun q => ?_⟩, fun q => ?_, rfl⟩ <;> rw [port] <;> split
  exacts [⟨rfl, rfl⟩, ⟨rfl, rfl⟩, rfl, rfl]

theorem resetTimed_spares (p : PortId) {s : State} (inv : RecordsInv s.streams.records) :
    stillOrLost (resetBegun p s) (resetTimed p s) := by
  have first : stillOrLost (resetBegun p s) (nextHopLost p (resetBegun p s)) := nextHopLost_spares p inv
  have inv' := recordsInv_of_indices (s := resetBegun p s) inv first.indices
  have delay := still_setDelay p .closed (nextHopLost p (resetBegun p s))
  exact first.trans inv ((stillOrLost.of_still delay).trans inv' (timingPortLost_spares p (delay.streams.symm ▸ inv')))

/-! ### Records, whether time was lost or not -/

/-- A loss of time, seen from and after states alike for the records. -/
theorem TimeLost.of_still {s s' t' t : State} (h : TimeLost s' t') (before : Still s s') (after : Still t' t) :
    TimeLost s t := by
  have start := before.streams
  have same (i : Nat) : recordAt t i = recordAt t' i := recordAt_of_streams after.streams i
  have told {side : Option PortId} {m : Msg} (k : toldOn side m s' t') : toldOn side m s t := fun p here room => by
    rw [(after.ports p).2]
    refine k p here ?_
    rwa [roomFor, before.states, (before.ports p).2, start]
  refine ⟨?_, fun r mem service => ?_, fun r mem service => ?_, fun p => ?_⟩
  · rw [sameRecords, after.streams, h.records, start]
  · obtain ⟨stands, up, down⟩ := h.lost r (start ▸ mem) service
    exact ⟨(same _).trans stands, told up, told down⟩
  · exact (same _).trans (h.others r (start ▸ mem) service)
  · rw [(after.ports p).1, h.slots p, slotsWithout, (before.ports p).1, start]
    rfl

theorem stillOrLost.cases {s t : State} (inv : RecordsInv s.streams.records) (h : stillOrLost s t) :
    Still s t ∨ (s.req.config.holdoverLimit = 0 ∧ TimeLost s t) := by
  rcases h with h | ⟨zero, u, before, after⟩
  · exact .inl h
  · exact .inr ⟨zero, (loseTime_lost (before.streams.symm ▸ inv)).of_still before after⟩

/-- The slots of one record among those left. -/
theorem slotsNaming_slotsWithout {s : State} (inv : RecordsInv s.streams.records) {gone : StreamRecord → Bool}
    {r : StreamRecord} (mem : r ∈ s.streams.records) (p : PortId) :
    slotsNaming r.index (slotsWithout gone s p) =
      if r.egress = some p ∧ gone r = true then [] else slotsNaming r.index (s.port p).slotMap := by
  have own : (s.streams.records.any fun x => x.index == r.index && x.egress == some p && gone x) =
      (r.egress == some p && gone r) := by
    rw [Bool.eq_iff_iff, List.any_eq_true]
    constructor
    · rintro ⟨x, hx, h⟩
      simp only [Bool.and_eq_true, beq_iff_eq] at h
      obtain ⟨⟨index, egress⟩, out⟩ := h
      rw [← recordAt_unique inv (recordAt_of_mem inv mem) hx index]
      simp [egress, out]
    · intro h
      exact ⟨r, mem, by simpa using h⟩
  have filtered : (slotsWithout gone s p).filter (fun e => e.record == r.index) =
      ((s.port p).slotMap.filter fun e => e.record == r.index).filter fun _ => !(r.egress == some p && gone r) := by
    rw [slotsWithout, List.filter_filter, List.filter_filter]
    refine List.filter_congr fun e _ => ?_
    by_cases named : e.record = r.index
    · simp only [named, own, beq_self_eq_true, Bool.true_and, Bool.and_true]
    · have other : (e.record == r.index) = false := beq_eq_false_iff_ne.2 named
      simp only [other, Bool.false_and, Bool.and_false]
  rw [slotsNaming, filtered]
  by_cases out : r.egress = some p ∧ gone r = true
  · simp [out]
  · have stays : (r.egress == some p && gone r) = false := by
      rw [Bool.eq_false_iff]
      simpa using out
    rw [if_neg out, stays, slotsNaming]
    simp

/-- What a port reset makes of the records. -/
structure RecordsReset (p : PortId) (s t : State) : Prop where
  records : sameRecords s t
  outbound : ∀ r ∈ s.streams.records, r.egress = some p → inService r = true →
    ∃ c, resetReason s c ∧ standsSuspended c r t ∧ toldOn (upstream r) (breakOf r c .towardOrigin) s t
  inbound : ∀ r ∈ s.streams.records, r.ingress = .port p → r.egress ≠ some p → inService r = true →
    ∃ c, resetReason s c ∧ standsSuspended c r t ∧ toldOn (downstream r) (breakOf r c .towardTerminus) s t ∧
      ∀ q, r.egress = some q → slotsNaming r.index (t.port q).slotMap =
        if c = .timeLost then [] else (slotsNaming r.index (s.port q).slotMap).take r.cells
  resting : ∀ r ∈ s.streams.records, r.egress = some p → r.state = .suspended →
    recordAt t r.index = some { r with changed := r.changed || decide (0 < slotsHeld s r) }
  others : s.req.config.holdoverLimit ≠ 0 → ∀ r ∈ s.streams.records,
    (r.egress = some p → r.state = .closed) → (r.ingress ≠ .port p ∨ inService r = false) → recordAt t r.index = some r

/-- Records that stand until the Stream Table reacts. -/
theorem recordsReset_of_still {p : PortId} {s v : State} (inv : RecordsInv s.streams.records) (h : Still s v) :
    RecordsReset p s (portResetStreams p v) := by
  have inv' : RecordsInv v.streams.records := h.streams.symm ▸ inv
  have mem' {r : StreamRecord} (mem : r ∈ s.streams.records) : r ∈ v.streams.records := h.streams.symm ▸ mem
  have told {side : Option PortId} {m : Msg} {t : State} (k : toldOn side m v t) : toldOn side m s t := fun q here room => by
    refine k q here ?_
    rwa [roomFor, h.states, (h.ports q).2, h.streams]
  have held (r : StreamRecord) : slotsHeld v r = slotsHeld s r := by
    simp only [slotsHeld, slotList, (h.ports _).1]
  refine ⟨?_, fun r mem egress service => ?_, fun r mem ingress egress service => ?_, fun r mem egress state => ?_,
    fun _ r mem egress ingress => (portReset_others inv' (mem' mem) egress ingress).1⟩
  · rw [sameRecords, ← h.streams]
    exact indices_portResetStreams p v
  · obtain ⟨stands, up⟩ := portReset_outbound inv' (mem' mem) egress service
    exact ⟨.pathLost, .inl rfl, stands, told up⟩
  · obtain ⟨stands, down, slots⟩ := portReset_inbound inv' (mem' mem) ingress egress service
    refine ⟨.pathLost, .inl rfl, stands, told down, fun q out => ?_⟩
    rw [if_neg (by simp), slots q out, (h.ports q).1]
  · rw [portReset_resting inv' (mem' mem) egress state, held]

/-- Records that lost time before the Stream Table reacts. -/
theorem recordsReset_of_lost {p : PortId} {s v : State} (inv : RecordsInv s.streams.records)
    (zero : s.req.config.holdoverLimit = 0) (h : TimeLost s v) : RecordsReset p s (portResetStreams p v) := by
  have inv' : RecordsInv v.streams.records := recordsInv_of_indices inv h.records
  have told {side : Option PortId} {m : Msg} (k : toldOn side m s v) : toldOn side m s (portResetStreams p v) :=
    fun q here room => portResetStreams_mem (k q here room)
  have idle (r : StreamRecord) : inService { suspended .timeLost r with changed := true } = false := rfl
  refine ⟨?_, fun r mem egress service => ?_, fun r mem ingress egress service => ?_, fun r mem egress state => ?_,
    fun ne => absurd zero ne⟩
  · exact (indices_portResetStreams p v).trans h.records
  · obtain ⟨stands, up, -⟩ := h.lost r mem service
    have rests := portReset_resting (p := p) inv' (recordAt_mem stands) egress rfl
    exact ⟨.timeLost, .inr ⟨rfl, zero⟩, rests, told up⟩
  · obtain ⟨stands, -, down⟩ := h.lost r mem service
    obtain ⟨stays, slots⟩ := portReset_others (p := p) inv' (recordAt_mem stands) (fun e => absurd e egress) (.inr (idle r))
    refine ⟨.timeLost, .inr ⟨rfl, zero⟩, stays, told down, fun q out => ?_⟩
    rw [if_pos rfl]
    have none := slotsNaming_slotsWithout inv (gone := inService) mem q
    rw [if_pos ⟨out, service⟩, ← h.slots q] at none
    exact (slots q).trans none
  · have outside : inService r = false := Bool.eq_false_iff.2 fun service => (state_of_inService service).1 state
    have stands := h.others r mem outside
    have held : slotsHeld v r = slotsHeld s r := by
      simp only [slotsHeld, slotList, egress, h.slots p, slotsNaming_slotsWithout inv mem p, outside, and_false,
        Bool.false_eq_true, if_false]
    rw [portReset_resting inv' (recordAt_mem stands) egress state, held]

theorem recordsReset (p : PortId) {s : State} (inv : RecordsInv s.streams.records) :
    RecordsReset p (resetBegun p s) (portResetStreams p (resetTimed p s)) := by
  have inv' : RecordsInv (resetBegun p s).streams.records := inv
  rcases (resetTimed_spares p inv).cases inv' with still | ⟨zero, lost⟩
  · exact recordsReset_of_still inv' still
  · exact recordsReset_of_lost inv' zero lost

/-! ### The port that is reset, and the others -/

theorem port_resetBegun (p q : PortId) (s : State) :
    (resetBegun p s).port q = if q = p then resetOwnState (s.port q) else s.port q := by
  rw [resetBegun, port_raise, port_setPort]
  split
  · next e => subst e; rfl
  · rfl

theorem slotMap_resetBegun (p q : PortId) (s : State) : ((resetBegun p s).port q).slotMap = (s.port q).slotMap := by
  rw [port_resetBegun]
  split <;> rfl

/-- A port that takes no offers keeps all but its slot map. -/
theorem eq_of_link {x y : Port} (link : sameLink x y) (kept : queuesKept x y) (shut : takesOffers x.state = false) :
    y = { x with slotMap := y.slotMap } := by
  obtain ⟨protocol, flood⟩ := kept shut
  rw [sameLink, protocol, flood] at link
  exact link

theorem takesOffers_resetOwnState (x : Port) : takesOffers (resetOwnState x).state = false := by
  unfold resetOwnState
  dsimp only
  split <;> rfl

/-- What the reactions before and in the Stream Table leave of the ports. -/
theorem port_reacted (p : PortId) (s : State) :
    (∃ m, (portResetStreams p (resetTimed p s)).port p = { resetOwnState (s.port p) with delay := .closed, slotMap := m }) ∧
      ∀ q, q ≠ p → sameLink (s.port q) ((portResetStreams p (resetTimed p s)).port q) ∧
        queuesKept (s.port q) ((portResetStreams p (resetTimed p s)).port q) := by
  have hops : TimingEffects (hopsLost p (resetBegun p s)) (nextHopLost p (resetBegun p s)) := evaluate_effects _
  have ports : (hopsLost p (resetBegun p s)).ports = (resetBegun p s).ports := by
    unfold hopsLost
    rw [raiseIf_ports]
  have begun (q : PortId) : (hopsLost p (resetBegun p s)).port q = (resetBegun p s).port q := port_of_ports ports q
  have timing := timingPortLost_effects p
    ((nextHopLost p (resetBegun p s)).setPort p { (nextHopLost p (resetBegun p s)).port p with delay := .closed })
  have streams := portResetStreams_effects p (resetTimed p s)
  constructor
  · have first := eq_of_link (hops.links p) (hops.quiet p) (by
      rw [begun, port_resetBegun, if_pos rfl]; exact takesOffers_resetOwnState _)
    rw [begun, port_resetBegun, if_pos rfl] at first
    have closed : ((nextHopLost p (resetBegun p s)).setPort p
        { (nextHopLost p (resetBegun p s)).port p with delay := .closed }).port p =
          { resetOwnState (s.port p) with
            delay := .closed, slotMap := ((nextHopLost p (resetBegun p s)).port p).slotMap } := by
      rw [port_setPort_self, first]
    have second := eq_of_link (timing.links p) (timing.quiet p) (by rw [closed]; exact takesOffers_resetOwnState _)
    rw [closed] at second
    have second : (resetTimed p s).port p = _ := second
    have third := eq_of_link (streams.links p) (streams.quiet p) (by
      rw [second]; exact takesOffers_resetOwnState _)
    rw [second] at third
    exact ⟨_, third⟩
  · intro q ne
    have link := hops.links q
    have kept := hops.quiet q
    rw [begun, port_resetBegun, if_neg ne] at link kept
    have link' := timing.links q
    have kept' := timing.quiet q
    rw [port_setPort_of_ne _ ne] at link' kept'
    exact ⟨(link.trans link').trans (streams.links q), .trans (link.trans link') (.trans link kept kept') (streams.quiet q)⟩

theorem entries_resetTimed (p : PortId) (s : State) :
    (resetTimed p s).dir.entries =
      s.dir.entries.map fun e => if e.nextHop = p ∧ e.state ≠ .lost then { e with state := .lost } else e := by
  have hops : TimingEffects (hopsLost p (resetBegun p s)) (nextHopLost p (resetBegun p s)) := evaluate_effects _
  have timing := timingPortLost_effects p
    ((nextHopLost p (resetBegun p s)).setPort p { (nextHopLost p (resetBegun p s)).port p with delay := .closed })
  have lost : (hopsLost p (resetBegun p s)).dir.entries =
      s.dir.entries.map fun e => if hopHit p e then { e with state := .lost } else e := by
    unfold hopsLost
    rw [raiseIf_dir]
    rfl
  have last : (resetTimed p s).dir.entries = (nextHopLost p (resetBegun p s)).dir.entries := timing.entries
  rw [last, hops.entries, lost]
  refine List.map_congr_left fun e _ => ?_
  simp only [hopHit, Bool.and_eq_true, bne_iff_ne, beq_iff_eq, and_comm]

theorem resetTimed_notices (p : PortId) (s : State) : noticesOnly (resetBegun p s) (resetTimed p s) := by
  have hops : noticesOnly (resetBegun p s) (hopsLost p (resetBegun p s)) :=
    (noticesOnly.of_req (t := { resetBegun p s with dir := _ }) rfl).trans (noticesOnly.raiseIf _ _ _)
  exact (hops.trans (evaluate_effects _).notices).trans
    ((noticesOnly.of_req (t := State.setPort _ p _) rfl).trans (timingPortLost_effects p _).notices)

theorem resetTimed_frame (p : PortId) (s : State) :
    changesOnly [.ports, .time, .dir, .streams, .sinks, .captures, .req] s (resetTimed p s) := by
  have begun : changesOnly [.ports, .req] s (resetBegun p s) :=
    ((setPort_pieces p _ s).mono (by simp)).trans ((raise_frame .port _).mono (by simp))
  have hops : changesOnly [.dir, .req] (resetBegun p s) (hopsLost p (resetBegun p s)) := by
    refine changesOnly.trans (t := { resetBegun p s with dir := _ }) ?_ ((raiseIf_frame _ _ _).mono (by simp))
    rintro ⟨⟩ h <;> first | rfl | simp at h
  exact (((begun.mono (by simp)).trans (hops.mono (by simp))).trans (evaluate_effects _).pieces).trans
    (((setPort_pieces p _ _).mono (by simp)).trans (timingPortLost_effects p _).pieces)

theorem capturesStand_reacted (p : PortId) (s : State) : capturesStand s (portResetStreams p (resetTimed p s)) := by
  have begun : capturesStand s (resetBegun p s) := ⟨rfl, rfl⟩
  have closed : capturesStand (nextHopLost p (resetBegun p s)) ((nextHopLost p (resetBegun p s)).setPort p
      { (nextHopLost p (resetBegun p s)).port p with delay := .closed }) := ⟨rfl, rfl⟩
  exact (((begun.trans (capturesStand_nextHopLost p _)).trans closed).trans (capturesStand_timingPortLost p _)).trans
    (capturesStand_portResetStreams p _)

/-- What follows the Stream Table's reaction: the slot map is empty, and the error is captured. -/
theorem resetEnd_records (p : PortId) (c : ErrorKind) (d : Detail) (s : State) : (portReset p c d s).streams = (portResetStreams p (resetTimed p s)).streams := by
  rw [portReset_eq, capturePort_streams]
  rfl

theorem port_portReset (p : PortId) (c : ErrorKind) (d : Detail) (s : State) (q : PortId) :
    (portReset p c d s).port q =
      if q = p then { (portResetStreams p (resetTimed p s)).port q with slotMap := [] }
      else (portResetStreams p (resetTimed p s)).port q := by
  have captured : (portReset p c d s).port q = ((portResetStreams p (resetTimed p s)).setSlotMap p []).port q := by
    rw [portReset_eq, capturePort, port_raiseIf]
    rfl
  rw [captured, State.setSlotMap, port_setPort]
  split
  · next e => subst e; rfl
  · rfl

theorem portReset_effects (p : PortId) (c : ErrorKind) (d : Detail) (s : State) :
    PortResetEffects p c d s (portReset p c d s) := by
  obtain ⟨⟨m, own⟩, others⟩ := port_reacted p s
  have streams := portResetStreams_effects p (resetTimed p s)
  have frame : changesOnly [.ports, .time, .dir, .streams, .sinks, .captures, .req] s (portReset p c d s) := by
    rw [portReset_eq]
    exact (((resetTimed_frame p s).trans (streams.pieces.mono (by simp))).trans ((setPort_pieces p _ _).mono (by simp))).trans
      ((raiseIf_capture_frame _ _ _).mono (by simp))
  have records (i : Nat) : recordAt (portReset p c d s) i = recordAt (portResetStreams p (resetTimed p s)) i :=
    recordAt_of_streams (resetEnd_records p c d s) i
  have queue (q : PortId) : ((portReset p c d s).port q).protocolQueue =
      ((portResetStreams p (resetTimed p s)).port q).protocolQueue := by
    rw [port_portReset]
    split <;> rfl
  have told {q : PortId} (ne : q ≠ p) {side : Option PortId} {m : Msg} (here : side = some q)
      (k : toldOn side m (resetBegun p s) (portResetStreams p (resetTimed p s))) :
      toldOn (some q) m s (portReset p c d s) := fun a e room => by
    obtain rfl := Option.some.inj e
    rw [queue]
    refine k q here ?_
    rwa [roomFor, port_resetBegun, if_neg ne]
  have held (r : StreamRecord) : slotsHeld (resetBegun p s) r = slotsHeld s r := by
    simp only [slotsHeld, slotList, slotMap_resetBegun]
  have stands {r : StreamRecord} {c' : ReasonCode} (k : standsSuspended c' r (portResetStreams p (resetTimed p s))) :
      standsSuspended c' r (portReset p c d s) := (records _).trans k
  have captures := capturesStand_reacted p s
  have clock : (portResetStreams p (resetTimed p s)).clock = s.clock :=
    ((resetTimed_frame p s).trans (streams.pieces.mono (by simp))) .clock (by simp)
  have notices : noticesOnly (resetBegun p s) (portReset p c d s) := by
    rw [portReset_eq]
    exact ((resetTimed_notices p s).trans streams.notices).trans
      ((noticesOnly.of_req (t := State.setSlotMap _ p []) rfl).trans
        ((noticesOnly.of_req (t := { State.setSlotMap _ p [] with captures := _ }) rfl).trans (noticesOnly.raiseIf _ _ _)))
  have told_port : (resetBegun p s).req.pending.get .port = true := by simp [resetBegun, raise_flag]
  refine ⟨frame, ?_, fun q ne => ?_, ?_, fun inv => ?_, fun inv r mem egress service => ?_,
    fun inv r mem ingress egress service => ?_, fun inv r mem egress state => ?_, fun inv limit r mem egress ingress => ?_,
    ?_, ⟨fun q ne => ?_, ?_⟩, notices.2 _ told_port, (noticesOnly.raise .port (s.setPort p _)).trans notices⟩
  · rw [port_portReset, if_pos rfl, own]
    rfl
  · rw [port_portReset, if_neg ne]
    exact others q ne
  · rw [portReset_eq, capturePort, raiseIf_dir]
    have dir : (portResetStreams p (resetTimed p s)).dir = (resetTimed p s).dir := streams.pieces .dir (by simp)
    exact (congrArg (·.entries) dir).trans (entries_resetTimed p s)
  · rw [sameRecords, resetEnd_records]
    exact (recordsReset p inv).records
  · obtain ⟨c', reason, suspends, up⟩ := (recordsReset p inv).outbound r mem egress service
    exact ⟨c', reason, stands suspends, fun q ne side => told ne side up⟩
  · obtain ⟨c', reason, suspends, down, slots⟩ := (recordsReset p inv).inbound r mem ingress egress service
    refine ⟨c', reason, stands suspends, fun q out => told (fun e => egress (e ▸ out)) out down, fun q out => ?_⟩
    have ne : q ≠ p := fun e => egress (e ▸ out)
    rw [port_portReset, if_neg ne, slots q out, slotMap_resetBegun]
  · rw [records, (recordsReset p inv).resting r mem egress state, held]
  · exact (records _).trans ((recordsReset p inv).others limit r mem egress ingress)
  · rw [portReset_eq, capturePort, raiseIf_capture_captures, PerPort.get_set_self]
    change takeInto ((portResetStreams p (resetTimed p s)).captures.port.get p)
      ⟨c, (portResetStreams p (resetTimed p s)).clock.epoch, none, none, d⟩ = _
    rw [captures.1, clock]
  · rw [portReset_eq, capturePort, raiseIf_capture_captures]
    exact (PerPort.get_set_of_ne _ ne _).trans (congrArg (fun x => PerPort.get x q) captures.1)
  · rw [portReset_eq, capturePort, raiseIf_capture_captures]
    exact captures.2

end Sys2Proof.Machine
end

section
/-! SUPPORT. The five causes of a port reset (R30), each with the port as it finds it. -/

namespace Sys2Proof.Machine

open Sys2Proof

theorem takeCause_of_state {p : PortId} {c : ErrorKind} {s : State} (h : resetsIn c (s.port p).state = true) :
    takeCause p c s = portReset p c (.portState (s.port p).state) s := if_pos h

theorem takeCause_of_other {p : PortId} {c : ErrorKind} {s : State} (h : resetsIn c (s.port p).state = false) :
    takeCause p c s = s := if_neg (by simp [h])

/-- A port reset reads nothing of the port that it sets anew. -/
theorem portReset_setPort {p : PortId} {c : ErrorKind} {d : Detail} {s : State} {x : Port}
    (h : resetOwnState x = resetOwnState (s.port p)) : portReset p c d (s.setPort p x) = portReset p c d s := by
  have begun : resetBegun p (s.setPort p x) = resetBegun p s := by
    rw [resetBegun, resetBegun, port_setPort_self, State.setPort_setPort, h]
  rw [portReset_eq, portReset_eq, resetTimed, resetTimed, begun]

/-! ### RESET_PORT, PRESENCE_LOST, MARKER_LOSS -/

theorem exec_resetPort {s : State} (run : s.pins.reset = false) (b : Byte) :
    exec (.resetPort b) s = .next (match portOf b with
      | none => withAnswer s .badArgument .empty
      | some p =>
        if (s.port p).state = .down then withAnswer s .ok .empty
        else withAnswer (takeCause p .resetPort s) .ok (.portState ((takeCause p .resetPort s).port p).state)) := by
  have arm : exec (.resetPort b) s = execResetPort b s := rfl
  rw [arm, execResetPort, request_of_run _ _ run]
  cases portOf b <;> rfl

theorem exec_presenceLost {s : State} {p : PortId} (run : s.pins.reset = false) (state : (s.port p).state ≠ .down)
    (qualified : (s.port p).presence.qualified = true) (absent : 4 ≤ (s.port p).presence.absent) :
    exec (.presenceLost p) s = .next (portReset p .presenceLost (.portState (s.port p).state)
      (s.setPort p { s.port p with presence := ⟨false, 0, 0⟩ })) := by
  have arm : exec (.presenceLost p) s = execPresenceLost p s := rfl
  have gone : presenceGone (s.port p) = true := by simp [presenceGone, qualified, absent]
  rw [arm, execPresenceLost, event_of_run _ _ run, if_pos gone, takeCause_of_state]
  · rw [port_setPort_self]
  · rw [port_setPort_self]
    exact bne_iff_ne.2 state

section MarkerLoss

variable {s : State} {p : PortId} (run : s.pins.reset = false)

include run

theorem exec_markerLoss_of_due (state : (s.port p).state ∈ [PortState.probing, .up, .admitted, .draining])
    (due : (s.port p).lossDue = true) :
    exec (.markerLoss p) s = .next (portReset p .markerLoss (.portState (s.port p).state) s) := by
  have arm : exec (.markerLoss p) s = execMarkerLoss p s := rfl
  rw [arm, execMarkerLoss, event_of_run _ _ run, if_pos due, takeCause_of_state, port_setPort_self]
  · exact congrArg _ (portReset_setPort rfl)
  · rw [port_setPort_self]
    simp only [List.mem_cons, List.not_mem_nil, or_false] at state
    rcases state with e | e | e | e <;> (change resetsIn .markerLoss (s.port p).state = true; rw [e]; rfl)

theorem exec_markerLoss_of_none (h : (s.port p).state ∈ [PortState.down, .training, .fault] ∨ (s.port p).lossDue = false) :
    exec (.markerLoss p) s = .next (s.setPort p { s.port p with lossDue := false }) := by
  have arm : exec (.markerLoss p) s = execMarkerLoss p s := rfl
  rw [arm, execMarkerLoss, event_of_run _ _ run]
  by_cases due : (s.port p).lossDue = true
  · rcases h with state | none
    · rw [if_pos due, takeCause_of_other]
      rw [port_setPort_self]
      simp only [List.mem_cons, List.not_mem_nil, or_false] at state
      rcases state with e | e | e <;> (change resetsIn .markerLoss (s.port p).state = false; rw [e]; rfl)
    · exact absurd due (by simp [none])
  · have idle : (s.port p).lossDue = false := Bool.eq_false_iff.2 due
    have same : { s.port p with lossDue := false } = s.port p := by rw [← idle]
    rw [if_neg due, same, State.setPort_port]

end MarkerLoss

/-! ### SYMBOL_BURST -/

theorem countErrors_add (m n : Nat) (p : PortId) (s : State) :
    countErrors (m + n) p s = countErrors n p (countErrors m p s) := by
  induction m generalizing s with
  | zero => rw [Nat.zero_add]; rfl
  | succ m ih => rw [Nat.succ_add, countErrors, ih, countErrors]

theorem countError_resets {s : State} {p : PortId} (state : (s.port p).state ∈ [PortState.probing, .up, .admitted, .draining, .fault])
    (sixteenth : (s.port p).symbolErrors + 1 = 16) :
    countError p s = portReset p .symbolBurst (.portState (s.port p).state) s := by
  simp only [List.mem_cons, List.not_mem_nil, or_false] at state
  have lists : resetsIn .symbolBurst (s.port p).state = true := by rcases state with e | e | e | e | e <;> rw [e] <;> rfl
  have running : (s.port p).state ≠ .down ∧ (s.port p).state ≠ .training := by
    rcases state with e | e | e | e | e <;> rw [e] <;> exact ⟨nofun, nofun⟩
  have count : countError p s =
      takeCause p .symbolBurst (s.setPort p { s.port p with symbolErrors := (s.port p).symbolErrors + 1 }) := by
    simp only [countError, if_neg running.1, port_setPort_self, sixteenth, if_true, if_neg running.2]
  rw [count, takeCause_of_state (by rw [port_setPort_self]; exact lists), port_setPort_self]
  exact portReset_setPort rfl

/-- Symbol errors past the sixteenth at a port that was just reset. -/
theorem countErrors_of_fresh {s : State} {p : PortId} {x : Port} (fresh : s.port p = freshPort x) (m : Nat) :
    countErrors m p s =
      s.setPort p { s.port p with symbolErrors := if x.presence.qualified then m else 0 } := by
  by_cases qualified : x.presence.qualified = true
  · have state : (s.port p).state = .training := by rw [fresh]; exact if_pos qualified
    have zero : (s.port p).symbolErrors = 0 := by rw [fresh]; rfl
    rw [if_pos qualified]
    by_cases few : m < 16
    · rw [countErrors_of_counted m (by simp [state]) (.inl (by omega)), zero, Nat.zero_add]
    · rw [countErrors_of_lockTaken m state (by omega) (by omega), zero, Nat.zero_add, fresh]
      rfl
  · have state : (s.port p).state = .down := by rw [fresh]; exact if_neg qualified
    rw [countErrors_of_down m state, if_neg qualified]
    have same : { s.port p with symbolErrors := 0 } = s.port p := by
      rw [fresh]
      rfl
    rw [same, State.setPort_port]

theorem countErrors_resets {s : State} {p : PortId} {n : Nat}
    (state : (s.port p).state ∈ [PortState.probing, .up, .admitted, .draining, .fault]) (below : (s.port p).symbolErrors < 16)
    (reach : 16 ≤ (s.port p).symbolErrors + n) :
    countErrors n p s =
      countErrors ((s.port p).symbolErrors + n - 16) p (portReset p .symbolBurst (.portState (s.port p).state) s) := by
  have split : n = 15 - (s.port p).symbolErrors + (1 + ((s.port p).symbolErrors + n - 16)) := by omega
  have running : (s.port p).state ≠ .down := by
    intro e
    rw [e] at state
    simp at state
  have short := countErrors_of_counted (p := p) (15 - (s.port p).symbolErrors) running (.inl (by omega))
  have fifteen : (s.port p).symbolErrors + (15 - (s.port p).symbolErrors) = 15 := by omega
  rw [fifteen] at short
  conv_lhs => rw [split]
  rw [countErrors_add, short, countErrors_add]
  have one (s : State) : countErrors 1 p s = countError p s := rfl
  rw [one, countError_resets (by rw [port_setPort_self]; exact state) (by rw [port_setPort_self]), port_setPort_self]
  exact congrArg _ (portReset_setPort rfl)

/-! ### DELAY_JUMP -/

section DelayJump

variable {s : State} {p : PortId} {w : List Nat} {d16 n : Nat} (run : s.pins.reset = false)
  (valid : (s.port p).delay = .valid w d16 n) (full : 8 ≤ n)

include run valid full

theorem exec_delayJump :
    exec (.delayJump p) s = .next (
      if resetsIn .delayJump (s.port p).state && (s.port p).jumpStands then
        portReset p .delayJump (.jump (s.port p).state (reportedDelay d16)) s
      else if (s.port p).state = .draining then
        timingPortLost p (s.setPort p { s.port p with delay := .sampling [], jumpStands := false })
      else s.setPort p { s.port p with delay := .valid w d16 0, jumpStands := false }) := by
  have arm : exec (.delayJump p) s = execDelayJump p s := rfl
  have due : jumpDue (s.port p).delay = some (reportedDelay d16) := by rw [valid]; exact if_pos full
  have cleared : clearJumps (s.port p).delay = .valid w d16 0 := by rw [valid]; rfl
  rw [arm, execDelayJump, event_of_run _ _ run]
  simp only [due, cleared]

end DelayJump

/-- Settles O24: each cause is taken in its states alone, and then the port is reset. -/
theorem portResetCauses : Obligations.PortResetCauses := by
  intro s p run
  refine ⟨fun b is up => ⟨portReset p .resetPort (.portState (s.port p).state) s, ?_, portReset_effects ..⟩,
    fun b is down => ?_, fun b beyond => ?_,
    fun state qualified absent => ⟨_, exec_presenceLost run state qualified absent, portReset_effects ..⟩,
    fun state due => ⟨_, exec_markerLoss_of_due run state due, portReset_effects ..⟩, exec_markerLoss_of_none run,
    fun n state below reach => ⟨portReset p .symbolBurst (.portState (s.port p).state) s, ?_, portReset_effects ..⟩,
    fun w d16 n valid full => ⟨fun state stands => ⟨portReset p .delayJump (.jump (s.port p).state (reportedDelay d16)) s, ?_,
      portReset_effects ..⟩, fun state => ?_, fun ne none => ?_⟩⟩
  · have own := (portReset_effects p .resetPort (.portState (s.port p).state) s).own
    have taken : takeCause p .resetPort s = portReset p .resetPort (.portState (s.port p).state) s :=
      takeCause_of_state (bne_iff_ne.2 up)
    rw [exec_resetPort run, portOf_eq_some is]
    simp only [if_neg up, taken, own]
  · rw [exec_resetPort run, portOf_eq_some is]
    simp only [if_pos down]
  · rw [exec_resetPort run, portOf_eq_none beyond]
  · have arm : exec (.symbolBurst p n) s = execSymbolBurst p n s := rfl
    have own := (portReset_effects p .symbolBurst (.portState (s.port p).state) s).own
    rw [arm, execSymbolBurst, event_of_run _ _ run, countErrors_resets state below reach, countErrors_of_fresh own]
  · rw [exec_delayJump run valid full, if_pos]
    simp only [List.mem_cons, List.not_mem_nil, or_false] at state
    rcases state with e | e <;> rw [e, stands] <;> rfl
  · intro u
    have reply := exec_delayJump run valid full
    have stays : (resetsIn .delayJump (s.port p).state && (s.port p).jumpStands) = false := by rw [state]; rfl
    rw [stays, if_neg (by simp), if_pos state] at reply
    exact ⟨_, reply, timingPortLost_effects p u, fun other => if_neg other⟩
  · have stays : (resetsIn .delayJump (s.port p).state && (s.port p).jumpStands) = false := by
      rcases none with out | idle
      · simp only [List.mem_cons, List.not_mem_nil, or_false, not_or] at out
        have unlisted : resetsIn .delayJump (s.port p).state = false := by simp [resetsIn, out]
        rw [unlisted]
        rfl
      · rw [idle, Bool.and_false]
    rw [exec_delayJump run valid full, stays, if_neg (by simp), if_neg ne]

end Sys2Proof.Machine
end

section
/-! SUPPORT. A new own frame id (R29, R49, R173): each port examined against it, then the Frame Directory. -/

namespace Sys2Proof.Machine

open Sys2Proof

/-! ### Ports that other blocks leave -/

/-- A port is as it was but for its slot map and what its queues, where they take offers, were offered. -/
def linkKept (x y : Port) : Prop := sameLink x y ∧ queuesKept x y

theorem linkKept.refl (x : Port) : linkKept x x := ⟨rfl, .of_eq rfl rfl⟩

theorem linkKept.trans {x y z : Port} (h : linkKept x y) (k : linkKept y z) : linkKept x z :=
  ⟨h.1.trans k.1, .trans h.1 h.2 k.2⟩

theorem TimingEffects.kept {s t : State} (h : TimingEffects s t) (p : PortId) : linkKept (s.port p) (t.port p) :=
  ⟨h.links p, h.quiet p⟩

/-- An operation of one port: the others keep their links, and the Request Port changes by notices alone. -/
structure OnPort (p : PortId) (s t : State) : Prop where
  others : ∀ q, q ≠ p → linkKept (s.port q) (t.port q)
  notices : noticesOnly s t
  frame : changesOnly portPieces s t

theorem OnPort.refl (p : PortId) (s : State) : OnPort p s s :=
  ⟨fun _ _ => .refl _, .refl s, .refl _ s⟩

theorem OnPort.trans {p : PortId} {s t u : State} (h : OnPort p s t) (k : OnPort p t u) : OnPort p s u :=
  ⟨fun q ne => (h.others q ne).trans (k.others q ne), h.notices.trans k.notices, h.frame.trans k.frame⟩

theorem TimingEffects.onPort {s t : State} (h : TimingEffects s t) (p : PortId) : OnPort p s t :=
  ⟨fun q _ => h.kept q, h.notices, h.pieces⟩

theorem onPort_setPort (p : PortId) (x : Port) (s : State) : OnPort p s (s.setPort p x) :=
  ⟨fun q ne => by rw [port_setPort_of_ne _ ne]; exact .refl _, .of_req rfl, setPort_frame p x s⟩

theorem onPort_changePort (p : PortId) (x : PortState) (reason : Option PortReason) (s : State) :
    OnPort p s (changePort p x reason s) :=
  (onPort_setPort p _ s).trans ((raise_effects .port _).timing.onPort p)

/-! ### FAULT, UP, and the test of admission -/

theorem hopsLost_onPort (p : PortId) (s : State) : OnPort p s (nextHopLost p s) := by
  have lost : OnPort p s (hopsLost p s) := by
    refine ⟨fun q _ => ?_, ?_, ?_⟩
    · have ports : (hopsLost p s).ports = s.ports := by unfold hopsLost; rw [raiseIf_ports]
      rw [port_of_ports ports]
      exact .refl _
    · exact (noticesOnly.of_req (t := { s with dir := _ }) rfl).trans (noticesOnly.raiseIf _ _ _)
    · exact (dir_frame _ s).trans ((raiseIf_frame _ _ _).mono (by decide))
  exact lost.trans ((evaluate_effects _).onPort p)

theorem hopsLost_kept (p q : PortId) (s : State) : linkKept (s.port q) ((nextHopLost p s).port q) := by
  have ports : (hopsLost p s).ports = s.ports := by unfold hopsLost; rw [raiseIf_ports]
  have kept := (evaluate_effects (hopsLost p s)).kept q
  rwa [port_of_ports ports] at kept

/-- What FAULT calls for in the other blocks. -/
def faultTold (p : PortId) (before : PortState) (s : State) : State :=
  if before = .draining then
    timingPortLost p (if before = .up ∨ before = .draining then nextHopLost p s else s)
  else if before = .up ∨ before = .draining then nextHopLost p s else s

theorem enterFault_eq (p : PortId) (reason : PortReason) (s : State) :
    enterFault p reason s = faultTold p (s.port p).state (changePort p .fault (some reason) s) := rfl

theorem faultTold_onPort (p : PortId) (before : PortState) (s : State) :
    OnPort p s (faultTold p before s) ∧ linkKept (s.port p) ((faultTold p before s).port p) := by
  have told : OnPort p s (if before = .up ∨ before = .draining then nextHopLost p s else s) ∧
      linkKept (s.port p) ((if before = .up ∨ before = .draining then nextHopLost p s else s).port p) := by
    split
    · exact ⟨hopsLost_onPort p s, hopsLost_kept p p s⟩
    · exact ⟨.refl p s, .refl _⟩
  unfold faultTold
  split
  · have effects := timingPortLost_effects p (if before = .up ∨ before = .draining then nextHopLost p s else s)
    exact ⟨told.1.trans (effects.onPort p), told.2.trans (effects.kept p)⟩
  · exact told

theorem enterFault_port (p : PortId) (reason : PortReason) (s : State) :
    OnPort p s (enterFault p reason s) ∧
      linkKept (inState .fault (some reason) (s.port p)) ((enterFault p reason s).port p) := by
  obtain ⟨on, kept⟩ := faultTold_onPort p (s.port p).state (changePort p .fault (some reason) s)
  rw [port_changePort, if_pos rfl] at kept
  rw [enterFault_eq]
  exact ⟨(onPort_changePort ..).trans on, kept⟩

/-- A port whose neighbour has not announced itself is not admitted (R27). -/
theorem admitPort_of_unseen {p : PortId} {s : State} (h : (s.port p).announceSeen = false) : admitPort p s = s :=
  if_neg fun ⟨_, admits⟩ => by simp [admissible, h] at admits

theorem enterUp_port (p : PortId) (s : State) :
    OnPort p s (enterUp p s) ∧
      sameLink { inState .up (upReason s p) (s.port p) with announceSeen := false } ((enterUp p s).port p) := by
  have up : OnPort p s ((changePort p .up (upReason s p) s).setPort p
      { (changePort p .up (upReason s p) s).port p with announceSeen := false }) :=
    (onPort_changePort ..).trans (onPort_setPort ..)
  have port : ((changePort p .up (upReason s p) s).setPort p
      { (changePort p .up (upReason s p) s).port p with announceSeen := false }).port p =
        { inState .up (upReason s p) (s.port p) with announceSeen := false } := by
    rw [port_setPort_self, port_changePort, if_pos rfl]
  have told := announceRepeating_effects p ((changePort p .up (upReason s p) s).setPort p
    { (changePort p .up (upReason s p) s).port p with announceSeen := false }) |>.timing
  have link := told.links p
  rw [port] at link
  have whole : enterUp p s = announceRepeating p ((changePort p .up (upReason s p) s).setPort p
      { (changePort p .up (upReason s p) s).port p with announceSeen := false }) :=
    admitPort_of_unseen (by rw [link])
  rw [whole]
  exact ⟨up.trans (told.onPort p), link⟩

/-! ### One port examined (R29) -/

section Examined

variable {p : PortId} {s : State}

/-- The stored neighbour has this frame's own id. -/
def conflicts (s : State) (p : PortId) : Bool := ownFrame s != 0 && neighbourFrame s p == some (ownFrame s)

theorem reexamine_up (state : (s.port p).state = .up) :
    reexaminePort p s =
      if conflicts s p then enterFault p .idConflict (s.setPort p { s.port p with announceSeen := false })
      else s.setPort p { s.port p with announceSeen := false, reason := upReason s p } := by
  have neighbour : upReason (s.setPort p { s.port p with announceSeen := false }) p = upReason s p := by
    simp only [upReason, neighbourFrame, port_setPort_self]
    rfl
  have examined : reexaminePort p s =
      if conflicts s p then enterFault p .idConflict (s.setPort p { s.port p with announceSeen := false })
      else admitPort p ((s.setPort p { s.port p with announceSeen := false }).setPort p
        { (s.setPort p { s.port p with announceSeen := false }).port p with
          reason := upReason (s.setPort p { s.port p with announceSeen := false }) p }) := by
    unfold reexaminePort
    split <;> first | rfl | simp_all
  rw [examined, admitPort_of_unseen (by rw [port_setPort_self, port_setPort_self]), port_setPort_self, State.setPort_setPort,
    neighbour]

theorem reexamine_draining (state : (s.port p).state = .draining) :
    reexaminePort p s = if conflicts s p then enterFault p .idConflict s else s := by
  simp only [reexaminePort, state]
  rfl

theorem reexamine_fault (state : (s.port p).state = .fault) :
    reexaminePort p s =
      if (s.port p).reason = some .idConflict ∧ neighbourFrame s p ≠ some (ownFrame s) then enterUp p s else s := by
  simp only [reexaminePort, state]

theorem reexamine_others (state : (s.port p).state ∈ [PortState.down, .training, .probing, .admitted]) :
    reexaminePort p s = s := by
  simp only [List.mem_cons, List.not_mem_nil, or_false] at state
  rcases state with e | e | e | e <;> simp [reexaminePort, e]

theorem onPort_reexamine (p : PortId) (s : State) : OnPort p s (reexaminePort p s) := by
  cases state : (s.port p).state with
  | up =>
    rw [reexamine_up state]
    split
    · exact (onPort_setPort ..).trans (enterFault_port ..).1
    · exact onPort_setPort ..
  | draining =>
    rw [reexamine_draining state]
    split
    · exact (enterFault_port ..).1
    · exact .refl p s
  | fault =>
    rw [reexamine_fault state]
    split
    · exact (enterUp_port p s).1
    · exact .refl p s
  | down | training | probing | admitted =>
    rw [reexamine_others (by simp [state])]
    exact .refl p s

end Examined

/-! ### Every port examined -/

theorem reexamined_kept {ps : List PortId} {q : PortId} (out : q ∉ ps) (s : State) :
    linkKept (s.port q) ((ps.foldl (fun s p => reexaminePort p s) s).port q) := by
  induction ps generalizing s with
  | nil => exact .refl _
  | cons p ps ih =>
    exact ((onPort_reexamine p s).others q (List.ne_of_not_mem_cons out)).trans (ih (List.not_mem_of_not_mem_cons out) _)

theorem reexamined_notices (ps : List PortId) (s : State) :
    noticesOnly s (ps.foldl (fun s p => reexaminePort p s) s) ∧
      changesOnly portPieces s (ps.foldl (fun s p => reexaminePort p s) s) :=
  ⟨noticesOnly.foldl _ (fun s p => (onPort_reexamine p s).notices) ps s,
    changesOnly.foldl _ (fun s p => (onPort_reexamine p s).frame) ps s⟩

/-- The turn of a port: what was done before it, and after it, was done to others. -/
theorem reexamined_turn (q : PortId) (s : State) :
    ∃ u, linkKept (s.port q) (u.port q) ∧ u.req.config = s.req.config ∧
      linkKept ((reexaminePort q u).port q) ((allPorts.foldl (fun s p => reexaminePort p s) s).port q) := by
  obtain ⟨before, after, split⟩ := List.append_of_mem (mem_allPorts q)
  have nodup := nodup_allPorts
  rw [split] at nodup
  obtain ⟨-, nodup, apart⟩ := List.nodup_append.1 nodup
  refine ⟨before.foldl (fun s p => reexaminePort p s) s, reexamined_kept (fun h => apart q h q List.mem_cons_self rfl) s,
    congrArg (·.config) (reexamined_notices before s).1.1, ?_⟩
  rw [split, List.foldl_append, List.foldl_cons]
  exact reexamined_kept (List.nodup_cons.1 nodup).1 _

/-! ### FRAME_ID (R173) -/

/-- The part with a new own frame id, before its ports are examined. -/
def renamed (f : FrameId) (s : State) : State := { s with req := { s.req with config := { s.req.config with frameId := f } } }

/-- The Frame Directory without the entry of the own id, before the election is evaluated (R49). -/
def renumbered (s : State) : State :=
  announceAdvancing (raiseIf (s.dir.entries.any fun e => e.frame == ownFrame s) .directory
    { s with dir := { s.dir with entries := s.dir.entries.filter fun e => e.frame != ownFrame s, restartCount := 4 } })

theorem takeFrameId_eq (f : FrameId) (s : State) :
    takeFrameId f s = evaluate (renumbered (allPorts.foldl (fun s p => reexaminePort p s) (renamed f s))) := rfl

theorem entries_renumbered (s : State) :
    (renumbered s).dir.entries = s.dir.entries.filter fun e => e.frame != ownFrame s := by
  unfold renumbered
  rw [(announceAdvancing_effects _).entries, raiseIf_dir]

theorem onPort_renumbered (p : PortId) (s : State) :
    OnPort p s (renumbered s) ∧ linkKept (s.port p) ((renumbered s).port p) := by
  unfold renumbered
  generalize hb : (s.dir.entries.any fun e => e.frame == ownFrame s) = b
  generalize hu : raiseIf b .directory _ = u
  have ports : u.ports = s.ports := by rw [← hu, raiseIf_ports]
  have begun : OnPort p s u := by
    refine ⟨fun q _ => by rw [port_of_ports ports]; exact .refl _, ?_, ?_⟩
    · rw [← hu]
      exact (noticesOnly.of_req (t := { s with dir := _ }) rfl).trans (noticesOnly.raiseIf _ _ _)
    · rw [← hu]
      exact (dir_frame _ s).trans ((raiseIf_frame _ _ _).mono (by decide))
  have effects := announceAdvancing_effects u
  refine ⟨begun.trans (effects.onPort p), ?_⟩
  have kept := effects.kept p
  rwa [port_of_ports ports] at kept

/-- A port once FRAME_ID has a new value: examined in its turn, its link otherwise kept. -/
theorem takeFrameId_turn (f : FrameId) (s : State) (q : PortId) :
    ∃ u, linkKept (s.port q) (u.port q) ∧ ownFrame u = f ∧
      linkKept ((reexaminePort q u).port q) ((takeFrameId f s).port q) := by
  obtain ⟨u, before, config, after⟩ := reexamined_turn q (renamed f s)
  refine ⟨u, before, congrArg (·.frameId) config, ?_⟩
  rw [takeFrameId_eq]
  exact (after.trans (onPort_renumbered q _).2).trans ((evaluate_effects _).kept q)

theorem takeFrameId_req (f : FrameId) (s : State) :
    (takeFrameId f s).req =
        { s.req with config := { s.req.config with frameId := f }, pending := (takeFrameId f s).req.pending } ∧
      changesOnly portPieces s (takeFrameId f s) := by
  obtain ⟨notices, frame⟩ := reexamined_notices allPorts (renamed f s)
  have renumber := (onPort_renumbered 0 (allPorts.foldl (fun s p => reexaminePort p s) (renamed f s))).1
  have effects := evaluate_effects (renumbered (allPorts.foldl (fun s p => reexaminePort p s) (renamed f s)))
  have named : changesOnly portPieces s (renamed f s) := by rintro ⟨⟩ h <;> first | rfl | simp [portPieces] at h
  exact ⟨((notices.trans renumber.notices).trans effects.notices).1,
    ((named.trans frame).trans renumber.frame).trans effects.pieces⟩

theorem clampFrame_eq {v : BitVec 16} {f : FrameId} (h : f.val = min v.toNat 31) : clampFrame v = f := by
  apply Fin.ext
  rw [h]
  simp [clampFrame]

theorem exec_setConfigFrameId {s : State} {v : BitVec 16} {f : FrameId} (run : s.pins.reset = false)
    (is : f.val = min v.toNat 31) :
    exec (.setConfigFrameId v) s = .next (
      if (∃ p, (s.port p).state = .admitted) ∨ (f = 0 ∧ ∃ p, (s.port p).state = .draining) then withAnswer s .busy .empty
      else answerItem .frameId (if f = s.req.config.frameId then s else takeFrameId f s)) := by
  have arm : exec (.setConfigFrameId v) s = execSetConfigFrameId v s := rfl
  rw [arm, execSetConfigFrameId, request_of_run _ _ run]
  simp only [clampFrame_eq is, answer_eq, Bool.or_eq_true, Bool.and_eq_true, List.any_eq_true, beq_iff_eq, mem_allPorts, 
    true_and]
  rfl

/-! ### What the examination comes to at one port -/

section Taken

variable {f : FrameId} {s : State} {p : PortId}

theorem linkKept.neighbourFrame {s t : State} {p : PortId} (h : linkKept (s.port p) (t.port p)) :
    neighbourFrame t p = neighbourFrame s p := by
  unfold Machine.neighbourFrame
  rw [h.1]

theorem conflicts_iff : conflicts s p = true ↔ ownFrame s ≠ 0 ∧ neighbourFrame s p = some (ownFrame s) := by
  simp [conflicts]

theorem takeFrameId_conflict (state : (s.port p).state = .up ∨ (s.port p).state = .draining) (named : f ≠ 0)
    (same : neighbourFrame s p = some f) :
    ((takeFrameId f s).port p).state = .fault ∧ ((takeFrameId f s).port p).reason = some .idConflict := by
  obtain ⟨u, before, own, after⟩ := takeFrameId_turn f s p
  have conflict : conflicts u p = true := conflicts_iff.2 ⟨own ▸ named, by rw [before.neighbourFrame, own, same]⟩
  have kept : (u.port p).state = (s.port p).state := by rw [before.1]
  have fault : ((reexaminePort p u).port p).state = .fault ∧ ((reexaminePort p u).port p).reason = some .idConflict := by
    rcases state with up | draining
    · rw [reexamine_up (kept.trans up), if_pos conflict, (enterFault_port ..).2.1]
      exact ⟨rfl, rfl⟩
    · rw [reexamine_draining (kept.trans draining), if_pos conflict, (enterFault_port ..).2.1]
      exact ⟨rfl, rfl⟩
  rw [after.1]
  exact fault

theorem takeFrameId_up (state : (s.port p).state = .up) (apart : f = 0 ∨ neighbourFrame s p ≠ some f) :
    ((takeFrameId f s).port p).state = .up ∧ ((takeFrameId f s).port p).announceSeen = false ∧
      ((takeFrameId f s).port p).reason = if f = 0 ∨ (neighbourFrame s p).getD 0 = 0 then some .noId else none := by
  obtain ⟨u, before, own, after⟩ := takeFrameId_turn f s p
  have neighbour := before.neighbourFrame
  have kept : (u.port p).state = .up := by rw [before.1]; exact state
  have clear : ¬ conflicts u p = true := by
    rw [conflicts_iff, own, neighbour]
    exact fun ⟨named, same⟩ => apart.elim named (absurd same)
  rw [after.1, reexamine_up kept, if_neg clear, port_setPort_self, ← own, ← neighbour]
  exact ⟨kept, rfl, rfl⟩

theorem takeFrameId_fault (state : (s.port p).state = .fault) (reason : (s.port p).reason = some .idConflict)
    (apart : neighbourFrame s p ≠ some f) :
    ((takeFrameId f s).port p).state = .up ∧ ((takeFrameId f s).port p).announceSeen = false := by
  obtain ⟨u, before, own, after⟩ := takeFrameId_turn f s p
  have kept : (u.port p).state = .fault ∧ (u.port p).reason = some .idConflict := by
    rw [before.1]; exact ⟨state, reason⟩
  rw [after.1, reexamine_fault kept.1, if_pos ⟨kept.2, by rw [before.neighbourFrame, own]; exact apart⟩,
    (enterUp_port p u).2]
  exact ⟨rfl, rfl⟩

theorem takeFrameId_others (state : (s.port p).state ∈ [PortState.down, .training, .probing]) :
    linkKept (s.port p) ((takeFrameId f s).port p) := by
  obtain ⟨u, before, -, after⟩ := takeFrameId_turn f s p
  have kept : (u.port p).state = (s.port p).state := by rw [before.1]
  rw [reexamine_others (by rw [kept]; exact List.mem_append_left [PortState.admitted] state)] at after
  exact before.trans after

/-- No entry of the own id is left (R49). -/
theorem takeFrameId_entries (e : DirEntry) (mem : e ∈ (takeFrameId f s).dir.entries) : e.frame ≠ f := by
  obtain ⟨notices, -⟩ := reexamined_notices allPorts (renamed f s)
  have own : ownFrame (allPorts.foldl (fun s p => reexaminePort p s) (renamed f s)) = f :=
    congrArg (·.config.frameId) notices.1
  rw [takeFrameId_eq, (evaluate_effects _).entries, entries_renumbered, own] at mem
  simpa using (List.mem_filter.1 mem).2

end Taken

/-- Settles O26: each port has its own turn, before and after which the examination keeps its link. -/
theorem frameIdTaken : Obligations.FrameIdTaken := by
  intro s v f run is
  have arm := exec_setConfigFrameId run is
  refine ⟨fun busy => ?_, fun notAdmitted notDraining same => ?_, fun notAdmitted notDraining new => ?_⟩
  · rw [arm, if_pos busy]
  · have idle : ¬ ((∃ p, (s.port p).state = .admitted) ∨ (f = 0 ∧ ∃ p, (s.port p).state = .draining)) :=
      fun h => h.elim (fun ⟨p, e⟩ => notAdmitted p e) fun ⟨zero, p, e⟩ => notDraining zero p e
    rw [arm, if_neg idle, if_pos same, answerItem_of_value]
    rw [same]
    rfl
  · have idle : ¬ ((∃ p, (s.port p).state = .admitted) ∨ (f = 0 ∧ ∃ p, (s.port p).state = .draining)) :=
      fun h => h.elim (fun ⟨p, e⟩ => notAdmitted p e) fun ⟨zero, p, e⟩ => notDraining zero p e
    obtain ⟨req, frame⟩ := takeFrameId_req f s
    refine ⟨takeFrameId f s, ?_, ?_, req, takeFrameId_entries, fun p => takeFrameId_conflict, fun p => takeFrameId_up,
      fun p => takeFrameId_fault, fun p => takeFrameId_others, frame⟩
    · rw [arm, if_neg idle, if_neg new, answerItem_of_value]
      rw [req]
      rfl
    · rw [takeFrameId_eq]
      exact evaluate_settles _

end Sys2Proof.Machine
end

section
/-! SUPPORT. What an operation makes of one stream record, of the ports and of the notices, as one relation that composes (R96, R102,
R107, R113, R114, R127 to R133). -/

namespace Sys2Proof.Machine

open Sys2Proof

/-! ### The relation -/

/-- An operation leaves `o` at a record's index and the other records as they were but for their sinks, makes of each port what `f`
says, changes pieces of `xs` alone, and where `told` is set has raised STREAM. -/
structure Makes (i : Nat) (o : Option StreamRecord) (f : PortId → Port → Port) (told : Bool) (xs : List Piece) (s t : State) :
    Prop where
  record : recordAt t i = o
  others : otherRecordsKept i s t
  port : ∀ p, t.port p = f p (s.port p)
  flag : told = true → t.req.pending.get .stream = true
  effects : StreamEffects s t
  frame : changesOnly xs s t

/-- Each port as it was. -/
def portsStand (_ : PortId) (x : Port) : Port := x

section Composing

variable {i : Nat} {o o' : Option StreamRecord} {f g : PortId → Port → Port} {b b' : Bool} {xs ys : List Piece} {s t u : State}

theorem Makes.trans (h : Makes i o f b xs s t) (k : Makes i o' g b' ys t u) :
    Makes i o' (fun p x => g p (f p x)) (b || b') (xs ++ ys) s u := by
  refine ⟨k.record, h.others.trans k.others, fun p => by rw [k.port, h.port], fun told => ?_, h.effects.trans k.effects,
    (h.frame.mono fun _ => List.mem_append_left ys).trans (k.frame.mono fun _ => List.mem_append_right xs)⟩
  rcases Bool.or_eq_true _ _ ▸ told with first | second
  · exact k.effects.notices.2 _ (h.flag first)
  · exact k.flag second

theorem Makes.mono (h : Makes i o f b xs s t) (sub : ∀ x ∈ xs, x ∈ ys) : Makes i o f b ys s t :=
  { h with frame := h.frame.mono sub }

/-- What an operation does that leaves records and ports. -/
theorem Makes.of_quiet (found : recordAt s i = o) (streams : t.streams = s.streams) (ports : t.ports = s.ports)
    (effects : StreamEffects s t) (frame : changesOnly xs s t) : Makes i o portsStand false xs s t :=
  ⟨(recordAt_of_streams streams i).trans found, .of_streams streams, fun p => port_of_ports ports p, nofun, effects, frame⟩

theorem Makes.refl (found : recordAt s i = o) : Makes i o portsStand false [] s s :=
  .of_quiet found rfl rfl (.refl s) (.refl _ s)

theorem Makes.notices (h : Makes i o f b xs s t) : noticesOnly s t := h.effects.notices

/-- Ports that no step concerns stand. -/
theorem Makes.otherPorts {p : PortId} (h : Makes i o f b xs s t) (stand : ∀ q, q ≠ p → ∀ x, f q x = x) : otherPortsKept p s t :=
  fun q ne => (h.port q).trans (stand q ne _)

theorem Makes.ports (h : Makes i o f b xs s t) (stand : ∀ p x, f p x = x) : t.ports = s.ports :=
  PerPort.ext_get fun p => (h.port p).trans (stand p _)

/-- The message that a part took is out of its inbox. -/
theorem Makes.inbox {q : PortId} {m : Msg} (h : Makes i o f b xs (takeMessage q m s) t) (out : .inbox ∉ xs) :
    t.inbox = s.inbox.erase ⟨q, m⟩ ∧ changesOnly (.inbox :: xs) s t :=
  ⟨h.frame .inbox out, ((takeMessage_frame q m s).mono (by simp)).trans (h.frame.mono fun _ => List.mem_cons_of_mem _)⟩

theorem Makes.port_taken {q : PortId} {m : Msg} (h : Makes i o f b xs (takeMessage q m s) t) (p : PortId) :
    t.port p = f p (s.port p) := h.port p

end Composing

/-! ### Changes of the record -/

section Changing

variable {s : State} {i : Nat} {r : StreamRecord} (found : recordAt s i = some r)

include found

theorem makes_editRecord {f : StreamRecord → StreamRecord} (keeps : ∀ r, (f r).index = r.index) :
    Makes i (some (f r)) portsStand false [.streams] s (editRecord i f s) := by
  refine ⟨?_, (editRecord_touches i keeps s).others, fun _ => rfl, nofun, (editRecord_effects i f s),
    editRecord_frame i f s⟩
  rw [recordAt_editRecord i i keeps, found]
  simp

theorem makes_changeRecord {f : StreamRecord → StreamRecord} (keeps : ∀ r, (f r).index = r.index) :
    Makes i (some { f r with changed := true }) portsStand true [.streams, .req] s (changeRecord i f s) :=
  ⟨recordAt_changeRecord_self keeps found, (changeRecord_touches i keeps s).others, fun _ => rfl,
    fun _ => by rw [changeRecord, raise_flag]; simp, (changeRecord_effects i f s), changeRecord_frame i f s⟩

theorem makes_releaseSlots (k : Nat) :
    Makes i (some { r with changed := r.changed || decide (k < slotsHeld s r) }) (slotsCut k i r.egress) false
      [.ports, .streams, .req] s (releaseSlots i k s) :=
  ⟨recordAt_releaseSlots found k, (releaseSlots_touches i k s).others, port_releaseSlots found k, nofun,
    (releaseSlots_effects i k s), releaseSlots_frame i k s⟩

/-- Released slots of a record that is marked already. -/
theorem makes_releaseSlots_of_changed (k : Nat) (changed : r.changed = true) :
    Makes i (some r) (slotsCut k i r.egress) false [.ports, .streams, .req] s (releaseSlots i k s) := by
  have same : ({ r with changed := r.changed || decide (k < slotsHeld s r) } : StreamRecord) = r := by
    rw [changed, Bool.true_or, ← changed]
  have cut := makes_releaseSlots found k
  rwa [same] at cut

theorem makes_reserveSinks (x : StreamRecord) (cells : Nat) :
    Makes i (some r) portsStand false [.sinks, .req] s (reserveSinks x cells s) :=
  .of_quiet found (reserveSinks_streams x cells s) (reserveSinks_frame x cells s .ports (by simp))
    (reserveSinks_effects x cells s) (reserveSinks_frame x cells s)

theorem makes_setSettle (x : StreamRecord) (e : Option Epoch) :
    Makes i (some r) portsStand false [.sinks, .req] s (setSettle x e s) :=
  .of_quiet found (setSettle_streams x e s) (setSettle_frame x e s .ports (by simp)) (setSettle_effects x e s)
    (setSettle_frame x e s)

end Changing

/-! ### Offers and slots -/

/-- A port once a message was offered on a side that may not exist. -/
def offeredOn (side : Option PortId) (m : Msg) (p : PortId) (x : Port) : Port := if side = some p then offered m x else x

/-- A port once slots were assigned to a record with an egress. -/
def slotsAdded (n i : Nat) (egress : Option PortId) (p : PortId) (x : Port) : Port :=
  if egress = some p then { x with slotMap := assignIn n i (usableCount x.delay) x.slotMap } else x

theorem assignSlots_frame (i n : Nat) (s : State) : changesOnly [.ports] s (assignSlots i n s) := by
  unfold assignSlots
  split
  · exact setPort_pieces _ _ s
  · exact .refl _ s

section Offering

variable {s : State} {i : Nat} {o : Option StreamRecord} (found : recordAt s i = o)

include found

theorem makes_sendSide (side : Option PortId) (m : Msg) :
    Makes i o (offeredOn side m) false [.ports, .captures, .req] s (sendSide side m s) :=
  ⟨(recordAt_of_streams (sendSide_streams side m s) i).trans found, .of_streams (sendSide_streams side m s),
    port_sendSide side m s, nofun, (sendSide_effects side m s), sendSide_frame side m s⟩

/-- An offer that a queue with room takes makes no capture. -/
theorem makes_send_of_room {p : PortId} {m : Msg} (takes : takesOffers (s.port p).state = true)
    (room : (s.port p).protocolQueue.length < protocolRoom m) :
    Makes i o (offeredOn (some p) m) false [.ports] s (send p m s) := by
  have joins : send p m s = s.setPort p { s.port p with protocolQueue := (s.port p).protocolQueue ++ [m] } :=
    send_of_taken (protocolAnswer_taken_iff.2 ⟨takes, room⟩)
  refine { makes_sendSide found (some p) m with frame := ?_ }
  rw [joins]
  exact setPort_pieces _ _ s

theorem makes_joinProtocol (p : PortId) (m : Msg) :
    Makes i o (offeredOn (some p) m) false [.ports] s (joinProtocol p m s) := by
  have effects := joinProtocol_effects p m s
  rw [joinProtocol_eq] at effects ⊢
  refine ⟨found, .of_streams rfl, fun q => ?_, nofun, effects, setPort_pieces _ _ s⟩
  rw [port_setPort, offeredOn]
  by_cases e : q = p
  · subst e
    simp
  · simp [e, Ne.symm e]

end Offering

theorem makes_assignSlots {s : State} {i : Nat} {r : StreamRecord} (found : recordAt s i = some r) (n : Nat) :
    Makes i (some r) (slotsAdded n i r.egress) false [.ports] s (assignSlots i n s) := by
  refine ⟨(recordAt_of_streams (assignSlots_streams i n s) i).trans found, .of_streams (assignSlots_streams i n s), fun q => ?_,
    nofun, (assignSlots_effects i n s), assignSlots_frame i n s⟩
  rcases Option.eq_none_or_eq_some r.egress with egress | ⟨p, egress⟩
  · have same : assignSlots i n s = s := by simp [assignSlots, found, egress]
    simp [same, slotsAdded, egress]
  · have added : assignSlots i n s = s.setSlotMap p (assignIn n i (usableCount (s.port p).delay) (s.port p).slotMap) := by
      simp only [assignSlots, found, Option.bind_some, egress]
    rw [added, State.setSlotMap, port_setPort, slotsAdded, egress]
    by_cases e : q = p
    · subst e
      simp
    · simp [e, Ne.symm e]

/-! ### Closing, activation, retunes -/

/-- The fields of an origin that becomes CLOSED (R107, R122, R125). -/
def closed (reason : StreamReason) (refusing : Option FrameId) (r : StreamRecord) : StreamRecord :=
  { r with
    state := .closed, reason := some reason, refusing := refusing, retuneCause := none
    setupTimer := none, retuneTimer := none, suspendTimer := none, rerouteTimer := none, queue := [] }

/-- The fields of a record that becomes ACTIVE (R113, R121). -/
def activated (order : Epoch) (pathLength : Option Nat) (r : StreamRecord) : StreamRecord :=
  { r with
    state := .active, activation := some order, pathLength := pathLength
    setupTimer := none, suspendTimer := none, rerouteTimer := none, queue := [] }

/-- The fields of a record whose retune reverts (R132, R133). -/
def reverted (r : StreamRecord) : StreamRecord :=
  { r with state := .active, staged := none, switchEpoch := none, retuneTimer := none }

/-- The fields of a record that stages a demand (R127, R128). -/
def stagedFor (d : Staged) (timer : Option Nat) (r : StreamRecord) : StreamRecord :=
  { r with state := .retuning, staged := some d, switchEpoch := none, retuneTimer := timer }

section Operations

variable {s : State} {i : Nat} {r : StreamRecord} (found : recordAt s i = some r)

include found

theorem makes_closeRecord (reason : StreamReason) (refusing : Option FrameId) :
    Makes i (some { closed reason refusing r with changed := true }) (slotsCut 0 i r.egress) true [.streams, .ports, .req] s
      (closeRecord i reason refusing s) := by
  have change := makes_changeRecord found (f := closed reason refusing) fun _ => rfl
  exact (change.trans (makes_releaseSlots_of_changed change.record 0 rfl)).mono (by decide)

theorem makes_activate (pathLength : Option Nat) :
    Makes i (some { activated s.streams.activations pathLength r with changed := true }) portsStand true [.streams, .req] s
      (activate i pathLength s) := by
  have change := makes_changeRecord found (f := activated s.streams.activations pathLength) fun _ => rfl
  refine ⟨change.record, change.others, change.port, change.flag, activate_effects i pathLength s, ?_⟩
  exact change.frame.trans (by rintro ⟨⟩ h <;> first | rfl | simp at h)

theorem makes_suspend (c : ReasonCode) (free : Bool) (state : r.state ≠ .suspended) :
    Makes i (some { suspended c r with changed := true }) (slotsCut (if free then 0 else r.cells) i r.egress) true
      [.ports, .streams, .sinks, .req] s (suspend i c free s) := by
  refine ⟨recordAt_suspend found c free state, (suspend_touches i c free s).others, port_suspend found c free state, fun _ => ?_,
    (suspend_effects i c free s), suspend_frame i c free s⟩
  have change := makes_changeRecord found (f := suspended c) fun _ => rfl
  have released := change.trans (makes_releaseSlots_of_changed change.record (if free then 0 else r.cells) rfl)
  rw [suspend_eq found c free state]
  split
  · exact (((makes_reserveSinks released.record r r.cells).trans
      (makes_setSettle (makes_reserveSinks released.record r r.cells).record r none)).notices).2 _ (released.flag rfl)
  · exact released.flag rfl

theorem makes_revertRetune :
    Makes i (some { reverted r with changed := true }) (slotsCut r.cells i r.egress) true [.streams, .ports, .sinks, .req] s
      (revertRetune i s) := by
  have change := makes_changeRecord found (f := reverted) fun _ => rfl
  have released := change.trans (makes_releaseSlots_of_changed change.record r.cells rfl)
  have whole : revertRetune i s = reserveSinks r r.cells (releaseSlots i r.cells (changeRecord i reverted s)) := by
    rw [revertRetune, found]
    rfl
  rw [whole]
  exact (released.trans (makes_reserveSinks released.record r r.cells)).mono (by decide)

theorem makes_refuseRetune (c : ReasonCode) :
    Makes i (some { reverted r with
        reason := some .retuneRefused, refusing := none, retuneCause := some c, changed := true })
      (slotsCut r.cells i r.egress) true [.streams, .ports, .sinks, .req] s (refuseRetune i c s) := by
  have back := makes_revertRetune found
  have mark := makes_changeRecord back.record
    (f := fun r => { r with reason := some .retuneRefused, refusing := none, retuneCause := some c }) fun _ => rfl
  exact (back.trans mark).mono (by decide)

theorem makes_stageRetune (d : Staged) (timer : Option Nat) :
    Makes i (some { stagedFor d timer r with changed := true }) (slotsAdded (d.cells - r.cells) i r.egress) true
      [.streams, .ports, .sinks, .req] s (stageRetune i d timer s) := by
  have change := makes_changeRecord found (f := stagedFor d timer) fun _ => rfl
  have added := change.trans (makes_assignSlots change.record (d.cells - r.cells))
  have whole : stageRetune i d timer s =
      reserveSinks r (max r.cells d.cells) (assignSlots i (d.cells - r.cells) (changeRecord i (stagedFor d timer) s)) := by
    rw [stageRetune, found]
    rfl
  rw [whole]
  exact (added.trans (makes_reserveSinks added.record r (max r.cells d.cells))).mono (by decide)

theorem makes_takeSwitchEpoch (e : Epoch) :
    Makes i (some { r with switchEpoch := some e, retuneTimer := none }) portsStand false [.streams, .sinks, .req] s
      (takeSwitchEpoch i e s) := by
  have edit := makes_editRecord found (f := fun r => { r with switchEpoch := some e, retuneTimer := none }) fun _ => rfl
  have whole : takeSwitchEpoch i e s = setSettle r (some (e + BitVec.ofNat 48 r.budget))
      (editRecord i (fun r => { r with switchEpoch := some e, retuneTimer := none }) s) := by
    rw [takeSwitchEpoch, found]
  rw [whole]
  exact (edit.trans (makes_setSettle edit.record r _)).mono (by decide)

end Operations

/-! ### Sinks that go with their record, and a record that goes -/

/-- The list of sinks without those that go. -/
def withoutSinks (ks : List Nat) (r : StreamRecord) : StreamRecord :=
  { r with sinks := r.sinks.filter fun k => !ks.contains k }

/-- Sinks detached one after another. -/
def detachAll (ks : List Nat) (s : State) : State := ks.foldl (fun s k => detachSink k s) s

theorem detachAll_frame (ks : List Nat) (s : State) : changesOnly [.streams, .sinks, .req] s (detachAll ks s) :=
  changesOnly.foldl _ (fun s k => by rintro ⟨⟩ h <;> first | rfl | simp at h) ks s

theorem detachAll_tables (ks : List Nat) (s : State) :
    (detachAll ks s).sinks = s.sinks.filter (fun x => !ks.contains x.index) ∧
      (detachAll ks s).streams.records = s.streams.records.map (withoutSinks ks) := by
  induction ks generalizing s with
  | nil =>
    have same : withoutSinks [] = id := by
      funext r
      simp [withoutSinks]
    rw [same, List.map_id]
    simp [detachAll]
  | cons k ks ih =>
    obtain ⟨sinks, records⟩ := ih (detachSink k s)
    have dropped : (detachSink k s).sinks = s.sinks.filter (fun x => x.index != k) ∧
        (detachSink k s).streams.records = s.streams.records.map (withoutSinks [k]) := by
      refine ⟨rfl, List.map_congr_left fun r _ => ?_⟩
      simp only [withoutSinks, List.contains_cons, List.contains_nil, Bool.or_false]
      rfl
    constructor
    · rw [detachAll, List.foldl_cons, ← detachAll, sinks, dropped.1, List.filter_filter]
      refine List.filter_congr fun x _ => ?_
      rw [List.contains_cons, Bool.not_or, Bool.and_comm]
      rfl
    · rw [detachAll, List.foldl_cons, ← detachAll, records, dropped.2, List.map_map]
      refine List.map_congr_left fun r _ => ?_
      simp only [Function.comp_apply, withoutSinks, List.filter_filter, List.contains_cons, List.contains_nil, Bool.or_false,
        Bool.not_or, Bool.and_comm]

theorem recordAt_detachAll (ks : List Nat) (s : State) (j : Nat) :
    recordAt (detachAll ks s) j = (recordAt s j).map (withoutSinks ks) := by
  rw [recordAt, (detachAll_tables ks s).2, List.find?_map]
  rfl

theorem otherRecordsKept_detachAll (i : Nat) (ks : List Nat) (s : State) : otherRecordsKept i s (detachAll ks s) := fun j _ => by
  rw [recordAt_detachAll, Option.map_map]
  rfl

theorem makes_detachAll {s : State} {i : Nat} {r : StreamRecord} (found : recordAt s i = some r) (ks : List Nat) :
    Makes i (some (withoutSinks ks r)) portsStand false [.streams, .sinks, .req] s (detachAll ks s) :=
  ⟨by rw [recordAt_detachAll, found]; rfl, otherRecordsKept_detachAll i ks s,
    fun p => port_of_ports (detachAll_frame ks s .ports (by simp)) p, nofun, (detachAll_effects ks s),
    detachAll_frame ks s⟩

/-- The slots of a record freed on its egress, where it has one. -/
def freeEgress (r : StreamRecord) (s : State) : State :=
  match r.egress with
  | some p => s.setSlotMap p (keepSlots 0 r.index (s.port p).slotMap)
  | none => s

/-- The table without a record, whose sinks are gone. -/
def dropRecord (i : Nat) (s : State) : State := raise .stream (s.setRecords (s.streams.records.filter fun r => r.index != i))

theorem makes_freeEgress {s : State} {r : StreamRecord} {o : Option StreamRecord} (found : recordAt s r.index = o) :
    Makes r.index o (slotsCut 0 r.index r.egress) false [.ports] s (freeEgress r s) := by
  rcases Option.eq_none_or_eq_some r.egress with egress | ⟨p, egress⟩
  · have same : freeEgress r s = s := by simp [freeEgress, egress]
    have stand : slotsCut 0 r.index r.egress = portsStand := by
      funext p x
      simp [slotsCut, egress, portsStand]
    rw [same, stand]
    exact (Makes.refl found).mono (by simp)
  · have cut : freeEgress r s = s.setSlotMap p (keepSlots 0 r.index (s.port p).slotMap) := by simp [freeEgress, egress]
    rw [cut]
    refine ⟨found, .of_streams rfl, fun q => ?_, nofun, setSlotMap_effects _ _ s, setPort_pieces _ _ s⟩
    rw [State.setSlotMap, port_setPort, slotsCut, egress]
    by_cases e : q = p
    · subst e
      simp
    · simp [e, Ne.symm e]

theorem makes_dropRecord (i : Nat) (s : State) : Makes i none portsStand true [.streams, .req] s (dropRecord i s) := by
  refine ⟨?_, fun j ne => ?_, fun _ => rfl, fun _ => ?_, ?_, ?_⟩
  · have absent : ∀ r ∈ s.streams.records.filter (fun r => r.index != i), ¬ (r.index == i) = true := fun r mem => by
      simpa using (List.mem_filter.1 mem).2
    exact List.find?_eq_none.2 absent
  · have same : recordAt (dropRecord i s) j = recordAt s j := by
      refine (List.find?_filter).trans (List.find?_congr fun r _ => ?_)
      by_cases e : r.index = j <;> simp [e, ne]
    rw [same]
  · rw [dropRecord, raise_flag]
    simp
  · exact ((setRecords_effects _ s).trans (raise_effects .stream _))
  · rintro ⟨⟩ h <;> first | rfl | simp at h

theorem makes_removeRecord {s : State} {i : Nat} {r : StreamRecord} (found : recordAt s i = some r) :
    Makes i none (slotsCut 0 i r.egress) true [.ports, .streams, .sinks, .req] s (removeRecord i s) ∧
      (removeRecord i s).sinks = s.sinks.filter (fun x => !r.sinks.contains x.index) := by
  have index := recordAt_index found
  subst index
  have whole : removeRecord r.index s = dropRecord r.index (detachAll r.sinks (freeEgress r s)) := by
    rw [removeRecord, found]
    rfl
  have free := makes_freeEgress found
  have detach := free.trans (makes_detachAll free.record r.sinks)
  rw [whole]
  refine ⟨(detach.trans (makes_dropRecord r.index _)).mono (by decide), ?_⟩
  have sinks : (freeEgress r s).sinks = s.sinks := free.frame .sinks (by simp)
  exact (detachAll_tables r.sinks _).1.trans (by rw [sinks])

/-! ### Matching (R114) -/

section Matching

variable {s : State} {q : PortId} {id : StreamId} {gen : Gen} {d : Direction} {r : StreamRecord}

theorem matchMessage_of (found : recordOf s id = some r) (live : r.state ≠ .closed) (same : r.gen = gen)
    (facing : (match d with | .towardOrigin => downstream r | .towardTerminus => upstream r) = some q) :
    matchMessage s q id gen d = .matched r := by
  rw [matchMessage, found]
  simp only [if_neg live, if_neg (not_not.2 same)]
  exact if_pos facing

theorem whenMatched_of (found : recordOf s id = some r) (live : r.state ≠ .closed) (same : r.gen = gen)
    (facing : (match d with | .towardOrigin => downstream r | .towardTerminus => upstream r) = some q) (m : Msg)
    (handle : StreamRecord → State → State) : whenMatched q m id gen d handle s = handle r s := by
  rw [whenMatched, matchMessage_of found live same facing]

end Matching

end Sys2Proof.Machine
end

section
/-! SUPPORT. CONFIRM, REFUSE, RELEASE and BREAK at the record they match (R121 to R124). -/

namespace Sys2Proof.Machine

open Sys2Proof

/-! ### Ports that a record's messages and slots concern -/

section Ports

variable {p q : PortId} {m : Msg} {k i : Nat} {x : Port}

theorem offeredOn_of_room (takes : takesOffers x.state = true) (room : x.protocolQueue.length < protocolRoom m) :
    offeredOn (some p) m p x = { x with protocolQueue := x.protocolQueue ++ [m] } := by
  rw [offeredOn, if_pos rfl, offered_of_room takes room]

/-- An offer after a cut of slots. -/
theorem queue_offeredOn_cut {egress : Option PortId} (takes : takesOffers x.state = true)
    (room : x.protocolQueue.length < protocolRoom m) :
    (offeredOn (some p) m p (slotsCut k i egress p x)).protocolQueue = x.protocolQueue ++ [m] := by
  have kept := (slotsCut_link k i egress p x).state
  have queue := (slotsCut_queues k i egress p x).1
  rw [offeredOn_of_room (by rw [kept]; exact takes) (by rw [queue]; exact room)]
  exact congrArg (· ++ [m]) queue

theorem offeredOn_of_ne {side : Option PortId} (ne : side ≠ some p) : offeredOn side m p x = x := if_neg ne

theorem slotsCut_of_ne {egress : Option PortId} (ne : egress ≠ some p) : slotsCut k i egress p x = x := if_neg ne

theorem slotsCut_self : slotsCut k i (some p) p x = { x with slotMap := keepSlots k i x.slotMap } := if_pos rfl

theorem slotsCut_none : slotsCut k i none p x = x := if_neg (by simp)

theorem offeredOn_none : offeredOn none m p x = x := if_neg (by simp)

theorem ne_some_of_ne (ne : q ≠ p) : some p ≠ some q := by simpa using ne.symm

/-- What an offer leaves of a port. -/
theorem offeredOn_fields (side : Option PortId) (m : Msg) (p : PortId) (x : Port) :
    (offeredOn side m p x).slotMap = x.slotMap ∧ (offeredOn side m p x).floodQueue = x.floodQueue ∧
      (offeredOn side m p x).state = x.state ∧ (offeredOn side m p x).delay = x.delay ∧
      sameLink x (offeredOn side m p x) := by
  unfold offeredOn offered
  split <;> (try split) <;> exact ⟨rfl, rfl, rfl, rfl, rfl⟩

end Ports

/-! ### The arms -/

section Arms

variable {s : State} (run : s.pins.reset = false)

include run

theorem exec_confirm (q : PortId) (id : StreamId) (gen : Gen) (n : Nat) :
    exec (.confirm q id gen n) s = .next (match matchMessage s q id gen .towardOrigin with
      | .unmatched | .stale => send q (.release id gen) (takeMessage q (.confirm id gen n) s)
      | .misdirected => protocolError .misdirected (.confirm id gen n) q (takeMessage q (.confirm id gen n) s)
      | .matched r => confirmRecord q (.confirm id gen n) n r (takeMessage q (.confirm id gen n) s)) := by
  have arm : exec (.confirm q id gen n) s = execConfirm q id gen n s := rfl
  rw [arm, execConfirm, event_of_run _ _ run] <;> rfl

theorem exec_refuse (q : PortId) (id : StreamId) (gen : Gen) (c : ReasonCode) (x : FrameId) :
    exec (.refuse q id gen c x) s = .next (whenMatched q (.refuse id gen c x) id gen .towardOrigin
      (refuseRecord q (.refuse id gen c x) c x) (takeMessage q (.refuse id gen c x) s)) := by
  have arm : exec (.refuse q id gen c x) s = execRefuse q id gen c x s := rfl
  rw [arm, execRefuse, event_of_run _ _ run]

theorem exec_release (q : PortId) (id : StreamId) (gen : Gen) :
    exec (.release q id gen) s = .next (whenMatched q (.release id gen) id gen .towardTerminus
      (fun r s => removeRecord r.index (sendSide (downstream r) (.release id gen) s)) (takeMessage q (.release id gen) s)) := by
  have arm : exec (.release q id gen) s = execRelease q id gen s := rfl
  rw [arm, execRelease, event_of_run _ _ run]

theorem exec_break (q : PortId) (id : StreamId) (gen : Gen) (c : ReasonCode) (d : Direction) :
    exec (.break_ q id gen c d) s = .next (whenMatched q (.break_ id gen c d) id gen d
      (breakRecord (.break_ id gen c d) c d) (takeMessage q (.break_ id gen c d) s)) := by
  have arm : exec (.break_ q id gen c d) s = execBreak q id gen c d s := rfl
  rw [arm, execBreak, event_of_run _ _ run]

end Arms

section Taken

variable {s : State} {q : PortId} {id : StreamId} {gen : Gen} {r : StreamRecord} (found : recordOf s id = some r)
  (live : r.state ≠ .closed) (same : r.gen = gen)

include found live same

theorem whenMatched_toward_origin (way : r.egress = some q) (m : Msg) (handle : StreamRecord → State → State) :
    whenMatched q m id gen .towardOrigin handle (takeMessage q m s) = handle r (takeMessage q m s) :=
  whenMatched_of (s := takeMessage q m s) (d := .towardOrigin) found live same way m handle

theorem whenMatched_toward_terminus (side : r.ingress = .port q) (m : Msg) (handle : StreamRecord → State → State) :
    whenMatched q m id gen .towardTerminus handle (takeMessage q m s) = handle r (takeMessage q m s) :=
  whenMatched_of (s := takeMessage q m s) (d := .towardTerminus) found live same (by rw [upstream, side]) m handle

end Taken

/-! ### CONFIRM -/

theorem matchMessage_dead {s : State} {q : PortId} {id : StreamId} {gen : Gen} {d : Direction}
    (dead : ∀ r, recordOf s id = some r → r.state = .closed ∨ r.gen ≠ gen) :
    matchMessage s q id gen d = .unmatched ∨ matchMessage s q id gen d = .stale := by
  unfold matchMessage
  cases found : recordOf s id with
  | none => exact .inl rfl
  | some r =>
    by_cases shut : r.state = .closed
    · exact .inl (if_pos shut)
    · exact .inr ((if_neg shut).trans (if_pos ((dead r found).resolve_left shut)))

theorem activate_streams (i : Nat) (n : Option Nat) (s : State) :
    (activate i n s).streams = { s.streams with
      records := s.streams.records.map fun x =>
        if x.index = i then { activated s.streams.activations n x with changed := true } else x
      activations := s.streams.activations + 1 } := rfl

/-- A CONFIRM that meets its PENDING record. -/
def confirmed (m : Msg) (n : Nat) (r : StreamRecord) (s : State) : State :=
  if r.role = .transit then sendSide (upstream r) m (activate r.index (some n) s) else activate r.index (some n) s

theorem confirmRecord_of_pending {q : PortId} {m : Msg} {n : Nat} {r : StreamRecord} {s : State} (pending : r.state = .pending) :
    confirmRecord q m n r s = confirmed m n r s := by
  simp only [confirmRecord, pending, confirmed]

theorem confirmed_streams (m : Msg) (n : Nat) (r : StreamRecord) (s : State) :
    (confirmed m n r s).streams = (activate r.index (some n) s).streams := by
  unfold confirmed
  split
  · exact sendSide_streams ..
  · rfl

theorem makes_confirmed {s : State} {r : StreamRecord} (found : recordAt s r.index = some r) (m : Msg) (n : Nat) :
    Makes r.index (some { activated s.streams.activations (some n) r with changed := true })
      (offeredOn (if r.role = .transit then upstream r else none) m) true [.ports, .streams, .captures, .req] s
      (confirmed m n r s) := by
  have active := makes_activate found (some n)
  unfold confirmed
  split
  · exact (active.trans (makes_sendSide active.record (upstream r) m)).mono (by decide)
  · have stand : offeredOn none m = portsStand := by
      funext p x
      exact offeredOn_none
    rw [stand]
    exact active.mono (by decide)

/-! ### Where a record's messages go -/

section Sides

variable {r : StreamRecord} {p : PortId}

theorem upstream_of_ingress (h : r.ingress = .port p) : upstream r = some p := by rw [upstream, h]

theorem ingress_iff : upstream r = some p ↔ r.ingress = .port p := by
  unfold upstream
  cases r.ingress <;> simp

end Sides

/-- Settles O45: what CONFIRM and REFUSE make of the record they match, and of the ports on its two sides. -/
theorem repliesTaken : Obligations.RepliesTaken := by
  refine ⟨fun s q id gen n run => ⟨fun r inv found same way pending => ?_, fun dead takes room => ?_⟩,
    fun s q id gen c x r run inv found same way pending => ⟨fun origin first => ?_, fun p hop side ne takes room => ?_⟩⟩
  · have matched : matchMessage s q id gen .towardOrigin = .matched r :=
      matchMessage_of found (by rw [pending]; decide) same way
    have makes := makes_confirmed (s := takeMessage q (.confirm id gen n) s) (recordAt_of_recordOf inv found)
      (.confirm id gen n) n
    obtain ⟨inbox, frame⟩ := makes.inbox (by decide)
    refine ⟨confirmed (.confirm id gen n) n r (takeMessage q (.confirm id gen n) s), ?_, ?_, inbox, fun role => ?_,
      fun p role side takes room => ?_, makes.flag rfl, makes.notices, frame⟩
    · rw [exec_confirm run, matched, ← confirmRecord_of_pending pending]
    · rw [confirmed_streams, activate_streams]
      rfl
    · have quiet : confirmed (.confirm id gen n) n r (takeMessage q (.confirm id gen n) s) =
          activate r.index (some n) (takeMessage q (.confirm id gen n) s) := by
        rw [confirmed, if_neg (by rw [role]; decide)]
      rw [quiet]
      exact ⟨rfl, rfl⟩
    · rw [if_pos role, upstream_of_ingress side] at makes
      exact ⟨(makes.port p).trans (offeredOn_of_room takes room),
        makes.otherPorts fun o apart x => offeredOn_of_ne (ne_some_of_ne apart)⟩
  · have answered : send q (.release id gen) (takeMessage q (.confirm id gen n) s) =
        (takeMessage q (.confirm id gen n) s).setPort q
          { s.port q with protocolQueue := (s.port q).protocolQueue ++ [.release id gen] } :=
      send_of_taken (protocolAnswer_taken_iff.2 ⟨takes, room⟩)
    rw [exec_confirm run, ← answered]
    rcases matchMessage_dead (q := q) (d := .towardOrigin) dead with unmatched | stale
    · rw [unmatched]
    · rw [stale]
  · have makes := makes_closeRecord (s := takeMessage q (.refuse id gen c x) s) (recordAt_of_recordOf inv found) (.code c)
      (some x)
    obtain ⟨inbox, frame⟩ := makes.inbox (by decide)
    refine ⟨closeRecord r.index (.code c) (some x) (takeMessage q (.refuse id gen c x) s), ?_, ?_, makes.others, ?_,
      makes.otherPorts fun o apart y => ?_, makes.flag rfl, inbox, frame.mono (by decide)⟩
    · have at_ : recordAt (takeMessage q (.refuse id gen c x) s) r.index = some r := recordAt_of_recordOf inv found
      rw [exec_refuse run, whenMatched_toward_origin found (by rw [pending]; decide) same way]
      simp only [refuseRecord, pending, origin, if_true, refuseOrigin, at_, first, Option.isNone_none]
    · rw [makes.record, closed, ← first]
    · rw [makes.port, way, slotsCut_self, keepSlots_zero]
      rfl
    · rw [way]
      exact slotsCut_of_ne (ne_some_of_ne apart)
  · have offer := makes_send_of_room (s := takeMessage q (.refuse id gen c x) s) (m := .refuse id gen c x)
      (recordAt_of_recordOf inv found) takes room
    obtain ⟨removed, sinks⟩ := makes_removeRecord offer.record
    have makes := offer.trans removed
    obtain ⟨inbox, frame⟩ := makes.inbox (by decide)
    refine ⟨removeRecord r.index (send p (.refuse id gen c x) (takeMessage q (.refuse id gen c x) s)), ?_, makes.record,
      makes.others, ?_, ?_, ?_, makes.flag rfl, inbox, frame.mono (by decide)⟩
    · rw [exec_refuse run, whenMatched_toward_origin found (by rw [pending]; decide) same way]
      simp only [refuseRecord, pending, hop, upstream_of_ingress side]
      rfl
    · rw [makes.port, way, slotsCut_of_ne (ne_some_of_ne ne)]
      exact offeredOn_of_room takes room
    · rw [makes.port, way, offeredOn_of_ne (ne_some_of_ne ne.symm), slotsCut_self, keepSlots_zero]
      rfl
    · rw [sinks, offer.frame .sinks (by decide)]
      rfl

/-! ### RELEASE and BREAK -/

/-- The way on of a message of a record. -/
def wayOn (d : Direction) (r : StreamRecord) : Option PortId :=
  match d with
  | .towardOrigin => upstream r
  | .towardTerminus => downstream r

theorem breakRecord_eq (m : Msg) (c : ReasonCode) (d : Direction) (r : StreamRecord) (s : State) :
    breakRecord m c d r s = sendSide (wayOn d r) m (suspend r.index c (freesSlots c) s) := by
  cases d <;> rfl

theorem freesSlots_iff (c : ReasonCode) : freesSlots c = true ↔ c = .capacity ∨ c = .timeLost ∨ c = .departing := by
  simp [freesSlots, or_assoc]

theorem makes_released {s : State} {r : StreamRecord} (found : recordAt s r.index = some r) (m : Msg) :
    Makes r.index none (fun p x => slotsCut 0 r.index r.egress p (offeredOn (downstream r) m p x)) true
        [.ports, .captures, .req, .streams, .sinks] s (removeRecord r.index (sendSide (downstream r) m s)) ∧
      (removeRecord r.index (sendSide (downstream r) m s)).sinks = s.sinks.filter (fun x => !r.sinks.contains x.index) := by
  have offer := makes_sendSide found (downstream r) m
  obtain ⟨removed, sinks⟩ := makes_removeRecord offer.record
  exact ⟨(offer.trans removed).mono (by decide), by rw [sinks, offer.frame .sinks (by decide)]⟩

theorem makes_broken {s : State} {r : StreamRecord} (found : recordAt s r.index = some r) (state : r.state ≠ .suspended)
    (m : Msg) (c : ReasonCode) (d : Direction) :
    Makes r.index (some { suspended c r with changed := true })
      (fun p x => offeredOn (wayOn d r) m p (slotsCut (if freesSlots c then 0 else r.cells) r.index r.egress p x)) true
      [.ports, .streams, .sinks, .req, .captures] s (breakRecord m c d r s) := by
  have left := makes_suspend found c (freesSlots c) state
  rw [breakRecord_eq]
  exact (left.trans (makes_sendSide left.record (wayOn d r) m)).mono (by decide)

/-- Settles O46: RELEASE removes the record it matches, BREAK suspends it, and each goes on where there is a way. -/
theorem teardownTaken : Obligations.TeardownTaken := by
  refine ⟨fun s q id gen r run inv found same side live => ?_, fun s q id gen c d r run inv found same facing service => ?_⟩
  · obtain ⟨makes, sinks⟩ := makes_released (s := takeMessage q (.release id gen) s) (recordAt_of_recordOf inv found)
      (.release id gen)
    obtain ⟨inbox, frame⟩ := makes.inbox (by decide)
    refine ⟨_, ?_, makes.record, makes.others, sinks, makes.flag rfl, inbox, fun none => ?_, fun p way takes room => ⟨?_, ?_⟩,
      frame.mono (by decide)⟩
    · rw [exec_release run, whenMatched_toward_terminus found live same side]
    · exact makes.ports fun p x => by rw [downstream, none, offeredOn_none, slotsCut_none]
    · rw [makes.port_taken, downstream, way, slotsCut_self, keepSlots_zero, offeredOn_of_room (m := .release id gen) takes room]
    · exact makes.otherPorts fun o apart x => by
        rw [downstream, way, offeredOn_of_ne (ne_some_of_ne apart), slotsCut_of_ne (ne_some_of_ne apart)]
  · obtain ⟨live, state⟩ : r.state ≠ .closed ∧ r.state ≠ .suspended := by
      constructor <;> intro e <;> simp [inService, e] at service
    have makes := makes_broken (s := takeMessage q (.break_ id gen c d) s) (recordAt_of_recordOf inv found) state
      (.break_ id gen c d) c d
    obtain ⟨inbox, frame⟩ := makes.inbox (by decide)
    refine ⟨_, ?_, makes.record, makes.others, rfl, rfl, rfl, rfl, fun p way => ?_, fun p on takes room => ?_, makes.flag rfl,
      inbox, fun p => ?_, frame.mono (by decide)⟩
    · rw [exec_break run, whenMatched_of (s := takeMessage q (.break_ id gen c d) s) found live same facing]
    · rw [makes.port, (offeredOn_fields ..).1, way, slotsCut_self]
      simp only [freesSlots_iff]
      rfl
    · have here : wayOn d r = some p := by cases d <;> exact on
      rw [makes.port_taken, here]
      exact queue_offeredOn_cut takes room
    · rw [makes.port]
      exact (slotsCut_link ..).trans (offeredOn_fields ..).2.2.2.2

end Sys2Proof.Machine
end

section
/-! SUPPORT. The messages of a retune at the record they match, and the origin's retune timeout (R128 to R130, R132, R133). -/

namespace Sys2Proof.Machine

open Sys2Proof

/-! ### The arms -/

section Arms

variable {s : State} (run : s.pins.reset = false)

include run

theorem exec_retune (q : PortId) (id : StreamId) (gen : Gen) (rate : BitVec 32) (cells : Byte) :
    exec (.retune q id gen rate cells) s = .next (whenMatched q (.retune id gen rate cells) id gen .towardTerminus
      (retuneRecord q (.retune id gen rate cells) rate.toNat cells.toNat) (takeMessage q (.retune id gen rate cells) s)) := by
  have arm : exec (.retune q id gen rate cells) s = execRetune q id gen rate cells s := rfl
  rw [arm, execRetune, event_of_run _ _ run]

theorem exec_retuneOk (q : PortId) (id : StreamId) (gen : Gen) :
    exec (.retuneOk q id gen) s = .next (whenMatched q (.retuneOk id gen) id gen .towardOrigin
      (retuneOkRecord q (.retuneOk id gen)) (takeMessage q (.retuneOk id gen) s)) := by
  have arm : exec (.retuneOk q id gen) s = execRetuneOk q id gen s := rfl
  rw [arm, execRetuneOk, event_of_run _ _ run]

theorem exec_retuneRefuse (q : PortId) (id : StreamId) (gen : Gen) (c : ReasonCode) :
    exec (.retuneRefuse q id gen c) s = .next (whenMatched q (.retuneRefuse id gen c) id gen .towardOrigin
      (retuneRefuseRecord q (.retuneRefuse id gen c) c) (takeMessage q (.retuneRefuse id gen c) s)) := by
  have arm : exec (.retuneRefuse q id gen c) s = execRetuneRefuse q id gen c s := rfl
  rw [arm, execRetuneRefuse, event_of_run _ _ run]

theorem exec_retuneCommit (q : PortId) (id : StreamId) (gen : Gen) (e : Epoch) :
    exec (.retuneCommit q id gen e) s = .next (whenMatched q (.retuneCommit id gen e) id gen .towardTerminus
      (commitRecord q (.retuneCommit id gen e) e) (takeMessage q (.retuneCommit id gen e) s)) := by
  have arm : exec (.retuneCommit q id gen e) s = execRetuneCommit q id gen e s := rfl
  rw [arm, execRetuneCommit, event_of_run _ _ run]

theorem exec_retuneAbort (q : PortId) (id : StreamId) (gen : Gen) :
    exec (.retuneAbort q id gen) s = .next (whenMatched q (.retuneAbort id gen) id gen .towardTerminus
      (abortRecord q (.retuneAbort id gen)) (takeMessage q (.retuneAbort id gen) s)) := by
  have arm : exec (.retuneAbort q id gen) s = execRetuneAbort q id gen s := rfl
  rw [arm, execRetuneAbort, event_of_run _ _ run]

end Arms

theorem recordOf_id {s : State} {id : StreamId} {r : StreamRecord} (found : recordOf s id = some r) : r.id = id := by
  simpa using List.find?_some found

theorem proposing_of {r : StreamRecord} (state : r.state = .retuning) (waits : r.switchEpoch = none) : proposing r = true := by
  simp [proposing, state, waits]

theorem slotsAdded_self {n i : Nat} {p : PortId} {x : Port} :
    slotsAdded n i (some p) p x = { x with slotMap := assignIn n i (usableCount x.delay) x.slotMap } := if_pos rfl

theorem slotsAdded_of_ne {n i : Nat} {egress : Option PortId} {p : PortId} {x : Port} (ne : egress ≠ some p) :
    slotsAdded n i egress p x = x := if_neg ne

/-- Nothing offered. -/
theorem makes_unsent {s : State} {i : Nat} {o : Option StreamRecord} (found : recordAt s i = o) (m : Msg) :
    Makes i o (offeredOn none m) false [] s s := by
  have stand : offeredOn none m = portsStand := by
    funext p x
    exact offeredOn_none
  rw [stand]
  exact .refl found

/-! ### RETUNE -/

/-- A RETUNE accepted: passed on where there is an egress, then staged. -/
def retuneStaged (m : Msg) (d : Staged) (r : StreamRecord) (s : State) : State :=
  stageRetune r.index d (some Figures.hopRetuneEpochs) (match r.egress with | some e => joinProtocol e m s | none => s)

theorem retuneRecord_of_accepted {q : PortId} {m : Msg} {rate cells : Nat} {r : StreamRecord} {s : State}
    (state : r.state = .active) (settled : settlePending s r = false) (formed : 1 ≤ rate ∧ rate ≤ 1000000000)
    (few : 1 ≤ cells ∧ cells ≤ 60) (accepted : hopRetuneRefusal s m r cells = none) :
    retuneRecord q m rate cells r s =
      if r.role = .terminus then sendSide (upstream r) (.retuneOk r.id r.gen) (retuneStaged m ⟨cells, rate⟩ r s)
      else retuneStaged m ⟨cells, rate⟩ r s := by
  have ready : ¬ (r.state ≠ .active ∨ settlePending s r = true) := by simp [state, settled]
  have wellFormed : ¬ (rate = 0 ∨ Figures.maxRate < rate ∨ cells = 0 ∨ Figures.maxCells < cells) := by
    simp only [Figures.maxRate, Figures.maxCells]
    omega
  rw [retuneRecord, if_neg ready, if_neg wellFormed, accepted]
  rfl

theorem hopRetuneRefusal_none {s : State} {m : Msg} {r : StreamRecord} {cells : Nat} (inService : s.swap.departure = .inService)
    (pool : poolAdmits s r (max r.cells cells) = true)
    (way : ∀ p, r.egress = some p → cells - r.cells ≤ freeUsable s p ∧ protocolAnswer s p m = .taken) :
    hopRetuneRefusal s m r cells = none := by
  have narrow : r.egress.any (fun p => decide (freeUsable s p < cells - r.cells)) = false := by
    rcases Option.eq_none_or_eq_some r.egress with absent | ⟨p, here⟩
    · rw [absent]; rfl
    · rw [here, Option.any_some, decide_eq_false (Nat.not_lt.2 (way p here).1)]
  have full : r.egress.any (fun p => protocolAnswer s p m == .full) = false := by
    rcases Option.eq_none_or_eq_some r.egress with absent | ⟨p, here⟩
    · rw [absent]; rfl
    · rw [here, Option.any_some, (way p here).2]; rfl
  simp [hopRetuneRefusal, departing_of_inService inService, narrow, full, pool]

/-- Settles O47: a terminus stages the demand and answers, a transit hop passes the RETUNE on and stages it. -/
theorem retuneTaken : Obligations.RetuneTaken := by
  intro s q id gen rate cells r run inv found same side active settled inService least most few many pool
  have named := recordOf_id found
  have at_ : recordAt (takeMessage q (.retune id gen rate cells) s) r.index = some r := recordAt_of_recordOf inv found
  have whole := exec_retune run q id gen rate cells
  rw [whenMatched_toward_terminus found (by rw [active]; decide) same side] at whole
  have taken := retuneRecord_of_accepted (q := q) (m := .retune id gen rate cells)
    (s := takeMessage q (.retune id gen rate cells) s) active settled ⟨least, most⟩ ⟨few, many⟩
  refine ⟨fun role absent takes room => ?_, fun p role way fits takes room => ?_⟩
  · have accepted : hopRetuneRefusal (takeMessage q (.retune id gen rate cells) s) (.retune id gen rate cells) r cells.toNat =
        none := hopRetuneRefusal_none inService pool (by simp [absent])
    have staged := makes_stageRetune at_ ⟨cells.toNat, rate.toNat⟩ (some Figures.hopRetuneEpochs)
    have stands : ∀ p x, slotsAdded (cells.toNat - r.cells) r.index r.egress p x = x := fun p x =>
      slotsAdded_of_ne (by simp [absent])
    have port := (staged.port_taken q).trans (stands q _)
    have makes := staged.trans (makes_send_of_room staged.record (p := q) (m := .retuneOk id gen) (by rw [port]; exact takes)
      (by rw [port]; exact room))
    obtain ⟨inbox, frame⟩ := makes.inbox (by decide)
    refine ⟨_, ?_, makes.record, makes.others, ?_, makes.otherPorts fun o apart x => ?_, makes.flag rfl, inbox,
      frame.mono (by decide)⟩
    · rw [whole, taken accepted, if_pos role, upstream_of_ingress side, retuneStaged, absent, named, same]
      rfl
    · rw [makes.port_taken, stands, offeredOn_of_room (m := .retuneOk id gen) takes room]
    · rw [stands, offeredOn_of_ne (ne_some_of_ne apart)]
  · have answer : protocolAnswer (takeMessage q (.retune id gen rate cells) s) p (.retune id gen rate cells) = .taken :=
      protocolAnswer_taken_iff.2 ⟨takes, room⟩
    have free : cells.toNat - r.cells ≤ freeUsable (takeMessage q (.retune id gen rate cells) s) p := by
      simp only [freeUsable]
      exact Nat.le_sub_of_add_le fits
    have accepted : hopRetuneRefusal (takeMessage q (.retune id gen rate cells) s) (.retune id gen rate cells) r cells.toNat =
        none := hopRetuneRefusal_none inService pool fun e here => by
        rw [Option.some.inj (here.symm.trans way)]
        exact ⟨free, answer⟩
    have joined := makes_joinProtocol at_ p (.retune id gen rate cells)
    have makes := joined.trans (makes_stageRetune joined.record ⟨cells.toNat, rate.toNat⟩ (some Figures.hopRetuneEpochs))
    obtain ⟨inbox, frame⟩ := makes.inbox (by decide)
    refine ⟨_, ?_, makes.record, makes.others, ?_, makes.otherPorts fun o apart x => ?_, makes.flag rfl, inbox,
      frame.mono (by decide)⟩
    · rw [whole, taken accepted, if_neg (by rw [role]; decide), retuneStaged, way]
    · rw [makes.port_taken, way, slotsAdded_self, offeredOn_of_room (m := .retune id gen rate cells) takes room]
    · rw [way, offeredOn_of_ne (ne_some_of_ne apart), slotsAdded_of_ne (ne_some_of_ne apart)]

/-! ### RETUNE_OK and RETUNE_COMMIT -/

/-- A RETUNE_COMMIT taken while the hop's own switch epoch is ahead. -/
theorem commitRecord_of_ahead {q : PortId} {m : Msg} {e : Epoch} {r : StreamRecord} {s : State} (waits : proposing r = true)
    (time : ahead (e + BitVec.ofNat 48 (r.hop + 1)) s.clock.epoch = true) :
    commitRecord q m e r s = sendSide (downstream r) m (takeSwitchEpoch r.index e s) := by
  have clock : (sendSide (downstream r) m (takeSwitchEpoch r.index e s)).clock = s.clock :=
    ((sendSide_effects _ _ _).pieces .clock (by simp)).trans ((takeSwitchEpoch_effects _ _ _).pieces .clock (by simp))
  have proposed : ¬ (!proposing r) = true := by simp [waits]
  have later : ahead (hopSwitch r e) (sendSide (downstream r) m (takeSwitchEpoch r.index e s)).clock.epoch = true := by
    rw [clock]
    exact time
  rw [commitRecord, if_neg proposed]
  exact if_pos later

/-- Settles O48: the origin and the hops take the switch epoch, and the message goes on. -/
theorem retuneAgreed : Obligations.RetuneAgreed := by
  intro s q id gen r run inv found same state waits
  have named := recordOf_id found
  have live : r.state ≠ .closed := by rw [state]; decide
  have proposes := proposing_of state waits
  refine ⟨fun way origin takes room => ?_, fun p way hop side takes room => ?_, fun e side time => ?_⟩
  · have taken := makes_takeSwitchEpoch (s := takeMessage q (.retuneOk id gen) s) (recordAt_of_recordOf inv found)
      (s.clock.epoch + 2)
    have port := taken.port_taken q
    have makes := taken.trans (makes_send_of_room taken.record (p := q) (m := .retuneCommit id gen (s.clock.epoch + 2))
      (by rw [port]; exact takes) (by rw [port]; exact room))
    obtain ⟨inbox, frame⟩ := makes.inbox (by decide)
    refine ⟨_, ?_, makes.record, makes.others, makes.otherPorts fun o apart x => offeredOn_of_ne (ne_some_of_ne apart), ?_,
      inbox, frame.mono (by decide)⟩
    · rw [exec_retuneOk run, whenMatched_toward_origin found live same way]
      simp only [retuneOkRecord, proposes, origin, downstream, way, named, same]
      rfl
    · rw [makes.port_taken]
      exact offeredOn_of_room (m := .retuneCommit id gen (s.clock.epoch + 2)) takes room
  · have passed : send p (.retuneOk id gen) (takeMessage q (.retuneOk id gen) s) =
        (takeMessage q (.retuneOk id gen) s).setPort p
          { s.port p with protocolQueue := (s.port p).protocolQueue ++ [.retuneOk id gen] } :=
      send_of_taken (protocolAnswer_taken_iff.2 ⟨takes, room⟩)
    rw [exec_retuneOk run, whenMatched_toward_origin found live same way, ← passed]
    simp only [retuneOkRecord, proposes, hop, upstream_of_ingress side]
    rfl
  · have taken := makes_takeSwitchEpoch (s := takeMessage q (.retuneCommit id gen e) s) (recordAt_of_recordOf inv found) e
    have makes := taken.trans (makes_sendSide taken.record (downstream r) (.retuneCommit id gen e))
    obtain ⟨inbox, frame⟩ := makes.inbox (by decide)
    refine ⟨_, ?_, makes.record, makes.others, fun p way takes room => ⟨?_, ?_⟩, fun absent => ?_, inbox, frame.mono (by decide)⟩
    · rw [exec_retuneCommit run, whenMatched_toward_terminus found live same side]
      exact congrArg _ (commitRecord_of_ahead (s := takeMessage q (.retuneCommit id gen e) s) proposes time)
    · rw [makes.port_taken, downstream, way]
      exact offeredOn_of_room (m := .retuneCommit id gen e) takes room
    · exact makes.otherPorts fun o apart x => by
        rw [downstream, way, offeredOn_of_ne (ne_some_of_ne apart)]
        rfl
    · exact makes.ports fun p x => by
        rw [downstream, absent, offeredOn_none]
        rfl

/-! ### RETUNE_REFUSE, RETUNE_ABORT and the origin's timeout -/

/-- What a retune that reverts leaves besides its record: the other records, the links, and on the egress the slots down to C. -/
theorem Makes.ports_reverted {s t : State} {r : StreamRecord} {o : Option StreamRecord} {side : Option PortId} {m : Msg}
    {xs : List Piece}
    (h : Makes r.index o (fun p x => offeredOn side m p (slotsCut r.cells r.index r.egress p x)) true xs s t) :
    otherRecordsKept r.index s t ∧ t.req.pending.get .stream = true ∧ (∀ p, sameLink (s.port p) (t.port p)) ∧
      ∀ p, r.egress = some p → (t.port p).slotMap = keepSlots r.cells r.index (s.port p).slotMap := by
  refine ⟨h.others, h.flag rfl, fun p => ?_, fun p way => ?_⟩
  · rw [h.port]
    exact (slotsCut_link ..).trans (offeredOn_fields ..).2.2.2.2
  · rw [h.port, (offeredOn_fields ..).1, way, slotsCut_self]

section Reverting

variable {s : State} {r : StreamRecord} (found : recordAt s r.index = some r)

include found

/-- The retune of a hop ends as refused, and the RETUNE_REFUSE goes on. -/
theorem makes_refuseRetuneHop {c : ReasonCode} {p : PortId} {m : Msg} (takes : takesOffers (s.port p).state = true)
    (room : (s.port p).protocolQueue.length < protocolRoom m) :
    Makes r.index (some { reverted r with reason := some (.code c), changed := true })
      (fun q x => offeredOn (some p) m q (slotsCut r.cells r.index r.egress q x)) true [.streams, .ports, .sinks, .req] s
      (send p m (refuseRetuneHop r.index c s)) := by
  have back := makes_revertRetune found
  have marked := back.trans (makes_changeRecord back.record (f := fun r => { r with reason := some (.code c) }) fun _ => rfl)
  have port := marked.port p
  have kept := slotsCut_link r.cells r.index r.egress p (s.port p)
  have queue := (slotsCut_queues r.cells r.index r.egress p (s.port p)).1
  have sent := makes_send_of_room (p := p) (m := m) marked.record (by rw [port]; exact kept.state ▸ takes)
    (by rw [port]; exact queue ▸ room)
  exact (marked.trans sent).mono (by decide)

/-- The retune reverts, and a RETUNE_ABORT goes on. -/
theorem makes_abort (m : Msg) :
    Makes r.index (some { reverted r with changed := true })
      (fun q x => offeredOn (downstream r) m q (slotsCut r.cells r.index r.egress q x)) true
      [.streams, .ports, .sinks, .req, .captures] s (sendSide (downstream r) m (revertRetune r.index s)) := by
  have back := makes_revertRetune found
  exact (back.trans (makes_sendSide back.record (downstream r) m)).mono (by decide)

end Reverting

theorem exec_originRetuneTimeout {s : State} (run : s.pins.reset = false) {r : StreamRecord}
    (found : recordAt s r.index = some r) (origin : isOrigin r = true) (state : r.state = .retuning)
    (over_ : r.retuneTimer = some 0) :
    exec (.originRetuneTimeout r.index) s =
      .next (sendSide (downstream r) (.retuneAbort r.id r.gen) (revertRetune r.index s)) := by
  have arm : exec (.originRetuneTimeout r.index) s = execOriginRetuneTimeout r.index s := rfl
  rw [arm, execOriginRetuneTimeout, event_of_run _ _ run, whenDue, found]
  simp [origin, retuneExpired, state, over_]

/-- Settles O49: the retune reverts, with the reason where it was refused, and the message goes on. -/
theorem retuneReverted : Obligations.RetuneReverted := by
  intro s q id gen r run inv found same state waits
  have named := recordOf_id found
  have live : r.state ≠ .closed := by rw [state]; decide
  have proposes := proposing_of state waits
  refine ⟨fun c way origin => ?_, fun c p way hop side takes room => ?_, fun side => ?_, fun origin over_ => ?_⟩
  · have back := makes_refuseRetune (s := takeMessage q (.retuneRefuse id gen c) s) (recordAt_of_recordOf inv found) c
    have makes := back.trans (makes_unsent back.record (.retuneRefuse id gen c))
    obtain ⟨inbox, frame⟩ := makes.inbox (by decide)
    refine ⟨_, ?_, makes.ports_reverted, makes.record, inbox, frame.mono (by decide)⟩
    rw [exec_retuneRefuse run, whenMatched_toward_origin found live same way]
    simp [retuneRefuseRecord, state, waits, origin]
  · have makes := makes_refuseRetuneHop (s := takeMessage q (.retuneRefuse id gen c) s) (c := c) (m := .retuneRefuse id gen c)
      (recordAt_of_recordOf inv found) takes room
    obtain ⟨inbox, frame⟩ := makes.inbox (by decide)
    refine ⟨_, ?_, makes.ports_reverted, makes.record, ?_, inbox, frame.mono (by decide)⟩
    · rw [exec_retuneRefuse run, whenMatched_toward_origin found live same way]
      simp [retuneRefuseRecord, state, waits, hop, upstream_of_ingress side, sendSide]
    · rw [makes.port_taken]
      exact queue_offeredOn_cut takes room
  · have makes := makes_abort (s := takeMessage q (.retuneAbort id gen) s) (recordAt_of_recordOf inv found) (.retuneAbort id gen)
    obtain ⟨inbox, frame⟩ := makes.inbox (by decide)
    refine ⟨_, ?_, makes.ports_reverted, makes.record, fun p way takes room => ?_, inbox, frame.mono (by decide)⟩
    · rw [exec_retuneAbort run, whenMatched_toward_terminus found live same side]
      simp [abortRecord, state, proposes]
    · rw [makes.port_taken, downstream, way]
      exact queue_offeredOn_cut takes room
  · have makes := makes_abort (recordAt_of_recordOf inv found) (.retuneAbort r.id r.gen)
    refine ⟨_, exec_originRetuneTimeout run (recordAt_of_recordOf inv found) origin state over_, makes.ports_reverted,
      makes.record, fun p way takes room => ?_, makes.frame.mono (by decide)⟩
    rw [makes.port, downstream, way, named, same]
    exact queue_offeredOn_cut takes room

end Sys2Proof.Machine
end

section
/-! SUPPORT. The timers of a record at 0: setup, suspension, reroute retry and a hop's retune (R107, R125, R126, R134). -/

namespace Sys2Proof.Machine

open Sys2Proof

/-! ### Several messages on the two sides of a record -/

/-- A port once messages were offered on a side one after another. -/
def offeredAll (side : Option PortId) (ms : List Msg) (p : PortId) (x : Port) : Port :=
  ms.foldl (fun x m => offeredOn side m p x) x

section Messages

variable {side : Option PortId} {p : PortId} {x : Port} {k i : Nat} {egress : Option PortId} {m : Msg}

/-- A queue with room for all messages that tear down takes them all. -/
theorem offeredAll_of_room {ms : List Msg} (teardown : ∀ m ∈ ms, protocolRoom m = 20) (takes : takesOffers x.state = true)
    (room : x.protocolQueue.length + ms.length ≤ 20) :
    offeredAll side ms p x = { x with protocolQueue := x.protocolQueue ++ if side = some p then ms else [] } := by
  by_cases here : side = some p
  · subst here
    rw [if_pos rfl]
    induction ms generalizing x with
    | nil => rw [List.append_nil]; rfl
    | cons m ms ih =>
      obtain ⟨first, rest⟩ := List.forall_mem_cons.1 teardown
      rw [List.length_cons] at room
      have taken : offeredOn (some p) m p x = { x with protocolQueue := x.protocolQueue ++ [m] } :=
        offeredOn_of_room takes (by rw [first]; omega)
      rw [offeredAll, List.foldl_cons, ← offeredAll, taken,
        ih (x := { x with protocolQueue := x.protocolQueue ++ [m] }) rest takes
          (by rw [List.length_append, List.length_singleton]; omega),
        List.append_assoc, List.singleton_append]
  · rw [if_neg here, List.append_nil]
    induction ms generalizing x with
    | nil => rfl
    | cons m ms ih =>
      rw [List.length_cons] at room
      rw [offeredAll, List.foldl_cons, ← offeredAll, offeredOn_of_ne here]
      exact ih (fun m mem => teardown m (List.mem_cons_of_mem _ mem)) takes (by omega)

theorem offeredAll_of_ne {ms : List Msg} (ne : side ≠ some p) : offeredAll side ms p x = x := by
  induction ms generalizing x with
  | nil => rfl
  | cons m ms ih => rw [offeredAll, List.foldl_cons, ← offeredAll, offeredOn_of_ne ne, ih]

/-- Slots and offers are different parts of a port. -/
theorem slotsCut_offeredOn : slotsCut k i egress p (offeredOn side m p x) = offeredOn side m p (slotsCut k i egress p x) := by
  unfold slotsCut offeredOn offered
  by_cases cut : egress = some p <;> by_cases here : side = some p <;> simp only [cut, here, if_true, if_false]
  split <;> rfl

end Messages

/-- A port once a record's slots were cut and messages were offered toward its origin and then toward its terminus. -/
def leftBy (k : Nat) (r : StreamRecord) (up down : List Msg) (p : PortId) (x : Port) : Port :=
  slotsCut k r.index r.egress p (offeredAll (downstream r) down p (offeredAll (upstream r) up p x))

theorem leftBy_eq {k : Nat} {r : StreamRecord} {up down : List Msg} {p : PortId} {x : Port} (few : up.length + down.length ≤ 2)
    (teardown : (∀ m ∈ up, protocolRoom m = 20) ∧ ∀ m ∈ down, protocolRoom m = 20)
    (room : (takesOffers x.state = true ∧ x.protocolQueue.length < 19) ∨ (r.ingress ≠ .port p ∧ r.egress ≠ some p)) :
    leftBy k r up down p x = { x with
      slotMap := if r.egress = some p then keepSlots k r.index x.slotMap else x.slotMap
      protocolQueue :=
        x.protocolQueue ++ (if r.ingress = .port p then up else []) ++ if r.egress = some p then down else [] } := by
  unfold leftBy
  rcases room with ⟨takes, room⟩ | ⟨notIn, notOut⟩
  · rw [offeredAll_of_room (ms := up) teardown.1 takes (by omega)]
    have shorter : (x.protocolQueue ++ if upstream r = some p then up else []).length + down.length ≤ 20 := by
      rw [List.length_append]
      split
      · omega
      · rw [List.length_nil]; omega
    rw [downstream, offeredAll_of_room (ms := down)
      (x := { x with protocolQueue := x.protocolQueue ++ if upstream r = some p then up else [] }) teardown.2 takes shorter,
      slotsCut]
    simp only [ingress_iff]
    by_cases way : r.egress = some p
    · simp only [way, if_true]
    · simp only [way, if_false]
  · rw [downstream, offeredAll_of_ne (mt ingress_iff.1 notIn), offeredAll_of_ne notOut, slotsCut_of_ne notOut]
    simp only [if_neg notIn, if_neg notOut, List.append_nil]

/-! ### Due events -/

theorem whenDue_of {s : State} {i : Nat} {r : StreamRecord} {due : StreamRecord → Bool} (found : recordAt s i = some r)
    (now_ : due r = true) (act : StreamRecord → State → State) : whenDue i due act s = act r s := by
  simp [whenDue, found, now_]

section Arms

variable {s : State} {r : StreamRecord} (run : s.pins.reset = false) (found : recordAt s r.index = some r)

include run found

theorem exec_setupTimerExpiry (pending : r.state = .pending) (expired : r.setupTimer = some 0) :
    exec (.setupTimerExpiry r.index) s = .next (expireSetup r s) := by
  have arm : exec (.setupTimerExpiry r.index) s = execSetupTimerExpiry r.index s := rfl
  rw [arm, execSetupTimerExpiry, event_of_run _ _ run, whenDue_of found (by simp [setupExpired, pending, expired])]

theorem exec_suspendTimerExpiry (expired : suspendExpired r = true) :
    exec (.suspendTimerExpiry r.index) s = .next (expireSuspend r s) := by
  have arm : exec (.suspendTimerExpiry r.index) s = execSuspendTimerExpiry r.index s := rfl
  rw [arm, execSuspendTimerExpiry, event_of_run _ _ run, whenDue_of found expired]

theorem exec_hopRetuneTimeout (hop : isOrigin r = false) (state : r.state = .retuning) (expired : r.retuneTimer = some 0) :
    exec (.hopRetuneTimeout r.index) s =
      .next (breakDown r .retuneTimeout (breakUp r .retuneTimeout (suspend r.index .retuneTimeout false s))) := by
  have arm : exec (.hopRetuneTimeout r.index) s = execHopRetuneTimeout r.index s := rfl
  rw [arm, execHopRetuneTimeout, event_of_run _ _ run, whenDue_of found (by simp [hop, retuneExpired, state, expired])]

theorem exec_rerouteRetryExpiry (origin : isOrigin r = true) (state : r.state = .suspended)
    (expired : r.rerouteTimer = some 0) : exec (.rerouteRetryExpiry r.index) s = .next (retryRoute r s) := by
  have arm : exec (.rerouteRetryExpiry r.index) s = execRerouteRetryExpiry r.index s := rfl
  rw [arm, execRerouteRetryExpiry, event_of_run _ _ run, whenDue_of found (by simp [rerouteExpired, origin, state, expired])]

end Arms

/-! ### Setup and suspend timers -/

section Timers

variable {s : State} {r : StreamRecord} (found : recordAt s r.index = some r)

include found

theorem makes_releaseDown :
    Makes r.index (some r) (offeredAll (downstream r) [.release r.id r.gen]) false [.ports, .captures, .req] s
      (releaseDown r s) := makes_sendSide found (downstream r) (.release r.id r.gen)

/-- An origin's first attempt that timed out (R125). -/
theorem makes_setup_closed :
    Makes r.index (some { closed .setupTimeout none r with changed := true }) (leftBy 0 r [] [.release r.id r.gen]) true
      [.ports, .captures, .req, .streams] s (closeRecord r.index .setupTimeout none (releaseDown r s)) := by
  have told := makes_releaseDown found
  exact (told.trans (makes_closeRecord told.record .setupTimeout none)).mono (by decide)

/-- A re-route attempt that timed out (R125). -/
theorem makes_setup_suspended (pending : r.state = .pending) :
    Makes r.index (some { suspended .timeout r with changed := true }) (leftBy r.cells r [] [.release r.id r.gen]) true
      [.ports, .captures, .req, .streams, .sinks] s (suspend r.index .timeout false (releaseDown r s)) := by
  have told := makes_releaseDown found
  exact (told.trans (makes_suspend told.record .timeout false (by rw [pending]; decide))).mono (by decide)

/-- A hop whose setup timed out (R125). -/
theorem makes_setup_removed (m : Msg) :
    Makes r.index none (leftBy 0 r [m] [.release r.id r.gen]) true [.ports, .captures, .req, .streams, .sinks] s
        (removeRecord r.index (releaseDown r (sendSide (upstream r) m s))) ∧
      (removeRecord r.index (releaseDown r (sendSide (upstream r) m s))).sinks =
        s.sinks.filter (fun x => !r.sinks.contains x.index) := by
  have refused := makes_sendSide found (upstream r) m
  have told := refused.trans (makes_releaseDown refused.record)
  obtain ⟨removed, sinks⟩ := makes_removeRecord told.record
  exact ⟨(told.trans removed).mono (by decide), by rw [sinks, told.frame .sinks (by decide)]⟩

/-- An origin whose suspension expired (R107). -/
theorem makes_suspension_closed :
    Makes r.index (some (withoutSinks r.sinks { closed .expired none r with changed := true }))
        (leftBy 0 r [] [.release r.id r.gen]) true [.ports, .captures, .req, .streams, .sinks] s
        (detachAll r.sinks (closeRecord r.index .expired none (releaseDown r s))) ∧
      (detachAll r.sinks (closeRecord r.index .expired none (releaseDown r s))).sinks =
        s.sinks.filter (fun x => !r.sinks.contains x.index) := by
  have told := makes_releaseDown found
  have shut := told.trans (makes_closeRecord told.record .expired none)
  exact ⟨(shut.trans (makes_detachAll shut.record r.sinks)).mono (by decide),
    by rw [(detachAll_tables r.sinks _).1, shut.frame .sinks (by decide)]⟩

/-- A hop whose retune timed out (R134). -/
theorem makes_hop_suspended (state : r.state = .retuning) :
    Makes r.index (some { suspended .retuneTimeout r with changed := true })
      (leftBy r.cells r [breakOf r .retuneTimeout .towardOrigin] [breakOf r .retuneTimeout .towardTerminus]) true
      [.ports, .streams, .sinks, .req, .captures] s
      (breakDown r .retuneTimeout (breakUp r .retuneTimeout (suspend r.index .retuneTimeout false s))) := by
  have left := makes_suspend found .retuneTimeout false (by rw [state]; decide)
  have up := left.trans (makes_sendSide left.record (upstream r) (breakOf r .retuneTimeout .towardOrigin))
  have both := (up.trans (makes_sendSide up.record (downstream r) (breakOf r .retuneTimeout .towardTerminus))).mono
    (ys := [.ports, .streams, .sinks, .req, .captures]) (by decide)
  refine { both with port := fun p => (both.port p).trans ?_ }
  rw [leftBy, offeredAll, offeredAll, List.foldl_cons, List.foldl_cons, List.foldl_nil, List.foldl_nil, slotsCut_offeredOn,
    slotsCut_offeredOn]
  rfl

end Timers

theorem withoutSinks_own {ks : List Nat} {r : StreamRecord} (own : r.sinks = ks) :
    withoutSinks ks r = { r with sinks := [] } := by
  subst own
  have gone : r.sinks.filter (fun k => !r.sinks.contains k) = [] := by simp
  rw [withoutSinks, gone]

/-! ### Re-route (R126) -/

theorem routeTo_admitted {s : State} {x : FrameId} {p : PortId} {d : Nat} (route : routeTo s x = .route p d) :
    (s.port p).state = .admitted := by
  unfold routeTo at route
  split at route
  · cases route
  · split at route
    · cases route
    · split at route
      · cases route
      · split at route
        · cases route
        · cases route
        · split at route
          · next admitted =>
            cases route
            exact admitted
          · cases route

theorem takesOffers_of_admitted {x : Port} (h : x.state = .admitted) : takesOffers x.state = true := by rw [h]; rfl

/-- Of 2..U + 1 all but the slots taken are free. -/
theorem length_freeSlots (u : Nat) (m : List SlotEntry) : u ≤ (freeSlots u m).length + m.length := by
  have taken : ((List.range' 2 u).filter fun n => !(m.all fun e => e.slot != n)).Subperm (m.map (·.slot)) := by
    refine List.Nodup.subperm ((List.nodup_range' ..).filter _) fun n mem => ?_
    simpa using (List.mem_filter.1 mem).2
  have whole := List.length_eq_length_filter_add (l := List.range' 2 u) fun n => m.all fun e => e.slot != n
  have most := taken.length_le
  rw [List.length_map] at most
  rw [List.length_range'] at whole
  unfold freeSlots
  omega

theorem length_filter_others (i : Nat) (m : List SlotEntry) :
    (m.filter fun e => e.record != i).length + (slotsNaming i m).length = m.length := by
  rw [slotsNaming, List.length_map, List.length_eq_length_filter_add (l := m) fun e => e.record == i, Nat.add_comm]
  rfl

/-- A record's slots freed on the port where it then takes C slots: there is room, and it holds those C. -/
theorem slots_of_reroute {s : State} {r : StreamRecord} {p : PortId}
    (fits : (s.port p).slotMap.length ≤ usableCount (s.port p).delay)
    (free : r.cells ≤ freeUsable s p + (if r.egress = some p then slotsHeld s r else 0))
    (own : r.egress = some p ∨ slotsNaming r.index (s.port p).slotMap = []) :
    (slotsNaming r.index (slotsAdded r.cells r.index (some p) p (slotsCut 0 r.index r.egress p (s.port p))).slotMap).length =
      r.cells := by
  have kept := (slotsCut_link 0 r.index r.egress p (s.port p)).delay
  have cleared : slotsNaming r.index (slotsCut 0 r.index r.egress p (s.port p)).slotMap = [] := by
    rcases own with here | absent
    · rw [here, slotsCut_self, slotsNaming_keepSlots, List.take_zero]
    · by_cases here : r.egress = some p
      · rw [here, slotsCut_self, slotsNaming_keepSlots, List.take_zero]
      · rw [slotsCut_of_ne here, absent]
  have room : r.cells + (slotsCut 0 r.index r.egress p (s.port p)).slotMap.length ≤ usableCount (s.port p).delay := by
    unfold freeUsable at free
    by_cases here : r.egress = some p
    · have held : slotsHeld s r = (slotsNaming r.index (s.port p).slotMap).length := by simp [slotsHeld, slotList, here]
      have count := length_filter_others r.index (s.port p).slotMap
      rw [if_pos here, held] at free
      rw [here, slotsCut_self, keepSlots_zero]
      dsimp only
      omega
    · rw [if_neg here] at free
      rw [slotsCut_of_ne here]
      omega
  have enough := length_freeSlots (usableCount (s.port p).delay) (slotsCut 0 r.index r.egress p (s.port p)).slotMap
  have assigned := (slotsAssignedAndKept.1 r.cells r.index (usableCount (s.port p).delay)
    (slotsCut 0 r.index r.egress p (s.port p)).slotMap (by omega)).2.1
  rw [slotsAdded_self, kept]
  rw [cleared] at assigned
  simpa using assigned

/-- A SETUP that the queue of the egress has room for. -/
theorem makes_offerSetup {s : State} {i : Nat} {r : StreamRecord} {p : PortId} (found : recordAt s i = some r)
    (way : r.egress = some p) (takes : takesOffers (s.port p).state = true) (room : (s.port p).protocolQueue.length < 16) :
    Makes i (some r) (offeredOn (some p) (setupOf r)) false [.ports] s (offerSetup i s) := by
  have answer : protocolAnswer s p (setupOf r) = .taken := protocolAnswer_taken_iff.2 ⟨takes, room⟩
  have joins : offerSetup i s = joinProtocol p (setupOf r) s := by simp only [offerSetup, found, way, answer]
  rw [joins]
  exact makes_joinProtocol found p (setupOf r)

/-- The fields of an origin that tries another path (R126). -/
def retried (p : PortId) (r : StreamRecord) : StreamRecord :=
  { r with
    gen := r.gen + 1, egress := some p, state := .pending, setupTimer := some Figures.setupEpochs, rerouteTimer := none }

theorem makes_rerouteOver {s : State} {r : StreamRecord} {p : PortId} (found : recordAt s r.index = some r)
    (takes : takesOffers (s.port p).state = true) (room : (s.port p).protocolQueue.length < 16) :
    Makes r.index (some { retried p r with changed := true })
      (fun q x => offeredOn (some p) (setupOf (retried p r)) q
        (slotsAdded r.cells r.index (some p) q (slotsCut 0 r.index r.egress q x))) true [.ports, .streams, .req] s
      (rerouteOver r.index r.cells p s) := by
  have freed := makes_releaseSlots found 0
  have tried := freed.trans (makes_changeRecord freed.record (f := retried p) fun _ => rfl)
  have added := tried.trans (makes_assignSlots tried.record r.cells)
  have kept := slotsCut_link 0 r.index r.egress p (s.port p)
  have queue := (slotsCut_queues 0 r.index r.egress p (s.port p)).1
  have port := (added.port p).trans slotsAdded_self
  refine (added.trans (makes_offerSetup added.record (p := p) rfl ?_ ?_)).mono (by decide)
  · rw [port]
    exact kept.state ▸ takes
  · rw [port]
    exact queue ▸ room

theorem judgeAttempt_waits {s : State} {r : StreamRecord} (h : timed s = false ∨ s.swap.departure ≠ .inService) :
    judgeAttempt s r = .waits := by
  have idle : (!timed s || departing s) = true := by
    rcases h with untimed | leaving
    · simp [untimed]
    · simp [departing_of_ne leaving]
  exact if_pos idle

theorem judgeAttempt_ready {s : State} {r : StreamRecord} (time : timed s = true) (service : s.swap.departure = .inService) :
    judgeAttempt s r =
      if r.role = .loopback then .loopback
      else match routeTo s r.terminal with
        | .route p d =>
          if d + 1 ≤ r.budget ∧ r.cells ≤ freeUsable s p + (if r.egress = some p then slotsHeld s r else 0) then .over p
          else .waits
        | .here | .unknownFrame | .departing _ _ | .notAdmitted _ _ => .waits := by
  have ready : ¬ (!timed s || departing s) = true := by simp [time, departing_of_inService service]
  cases route : routeTo s r.terminal <;> simp only [judgeAttempt, if_neg ready, route]

theorem makes_loopback {s : State} {r : StreamRecord} (found : recordAt s r.index = some r) :
    Makes r.index (some { activated s.streams.activations r.pathLength { r with gen := r.gen + 1 } with changed := true })
      (fun _ x => x) true [.streams, .req] s
      (activate r.index r.pathLength (editRecord r.index (fun r => { r with gen := r.gen + 1 }) s)) := by
  have next_ := makes_editRecord found (f := fun r => { r with gen := r.gen + 1 }) fun _ => rfl
  exact (next_.trans (makes_activate next_.record r.pathLength)).mono (by decide)

/-- Settles O56: each timer's end as the record, the slots and the messages of its rule. -/
theorem recordTimers : Obligations.RecordTimers := by
  have teardown (m : Msg) (h : protocolRoom m = 20) : ∀ x ∈ [m], protocolRoom x = 20 := by simpa using h
  have nothing : ∀ x ∈ ([] : List Msg), protocolRoom x = 20 := by simp
  refine ⟨fun s i r run inv found => ?_, fun s i r run inv found origin state expired => ?_⟩
  · have index := recordAt_index found
    subst index
    refine ⟨fun pending expired origin first => ?_, fun n pending expired origin again => ?_, fun pending expired hop => ?_,
      fun state expired origin => ?_, fun state expired hop => ?_, fun state expired hop => ?_⟩
    · have makes := makes_setup_closed found
      refine ⟨_, ?_, makes.others, makes.effects, ?_, fun p room => (makes.port p).trans ?_⟩
      · rw [exec_setupTimerExpiry run found pending expired, expireSetup, if_pos origin]
        simp only [first, Option.isNone_none, if_true]
      · rw [makes.record, closed, ← first]
      · rw [leftBy_eq (by simp) ⟨nothing, teardown _ rfl⟩ room, keepSlots_zero]
    · have makes := makes_setup_suspended found pending
      refine ⟨_, ?_, makes.others, makes.effects, makes.record, fun p room => (makes.port p).trans ?_⟩
      · rw [exec_setupTimerExpiry run found pending expired, expireSetup, if_pos origin]
        simp only [again, Option.isNone_some]
        rfl
      · exact leftBy_eq (by simp) ⟨nothing, teardown _ rfl⟩ room
    · obtain ⟨makes, sinks⟩ := makes_setup_removed found (.refuse r.id r.gen .timeout (ownFrame s))
      refine ⟨_, ?_, makes.others, makes.effects, makes.record, sinks, fun p room => (makes.port p).trans ?_⟩
      · rw [exec_setupTimerExpiry run found pending expired, expireSetup, hop]
        rfl
      · rw [leftBy_eq (by simp) ⟨teardown _ rfl, teardown _ rfl⟩ room, keepSlots_zero]
        rfl
    · obtain ⟨makes, sinks⟩ := makes_suspension_closed found
      refine ⟨_, ?_, makes.others, makes.effects, ?_, sinks, fun p room => (makes.port p).trans ?_⟩
      · have due : suspendExpired r = true := by
          rcases state with e | e <;> simp [suspendExpired, expired, e, origin]
        rw [exec_suspendTimerExpiry run found due, expireSuspend, if_pos origin]
        rfl
      · exact makes.record.trans (congrArg some (withoutSinks_own rfl))
      · rw [leftBy_eq (by simp) ⟨nothing, teardown _ rfl⟩ room, keepSlots_zero]
    · obtain ⟨makes, sinks⟩ := makes_removeRecord found
      refine ⟨_, ?_, makes.others, makes.effects, makes.record, sinks, fun p room => (makes.port p).trans ?_⟩
      · rw [exec_suspendTimerExpiry run found (by simp [suspendExpired, expired, state]), expireSuspend, hop]
        rfl
      · have left := leftBy_eq (k := 0) (up := []) (down := []) (by simp) ⟨nothing, nothing⟩ room
        rw [keepSlots_zero] at left
        exact left
    · have makes := makes_hop_suspended found state
      refine ⟨_, exec_hopRetuneTimeout run found hop state expired, makes.others, makes.effects, makes.record,
        fun p room => (makes.port p).trans ?_⟩
      exact leftBy_eq (by simp) ⟨teardown _ rfl, teardown _ rfl⟩ room
  · have index := recordAt_index found
    subst index
    have arm := exec_rerouteRetryExpiry run found origin state expired
    refine ⟨fun idle => ?_, fun time service loopback => ?_, fun p d time service role route short fits free own room => ?_⟩
    · rw [retryRoute, judgeAttempt_waits idle] at arm
      exact ⟨_, arm, rfl, (makes_editRecord found (f := fun r => { r with rerouteTimer := some 64 }) fun _ => rfl).frame⟩
    · have makes := makes_loopback found
      rw [retryRoute, judgeAttempt_ready time service, if_pos loopback] at arm
      exact ⟨_, arm, makes.record, rfl, makes.others, changeRecord_notices .., makes.frame⟩
    · have takes := takesOffers_of_admitted (routeTo_admitted route)
      have makes := makes_rerouteOver found takes room
      rw [retryRoute, judgeAttempt_ready time service, if_neg (by rw [role]; decide), route] at arm
      simp only [if_pos (And.intro short free)] at arm
      refine ⟨_, arm, makes.record, makes.others, ?_, ?_, makes.effects, makes.flag rfl⟩
      · rw [makes.port, (offeredOn_fields ..).1]
        exact slots_of_reroute fits free own
      · have kept := slotsCut_link 0 r.index r.egress p (s.port p)
        have queue := (slotsCut_queues 0 r.index r.egress p (s.port p)).1
        rw [makes.port, slotsAdded_self, offeredOn_of_room (kept.state ▸ takes) (queue ▸ room)]
        exact congrArg (· ++ _) queue

end Sys2Proof.Machine
end

section
/-! SUPPORT. OPEN_STREAM, CLOSE_STREAM, CLEAR_STREAMS and RETUNE_STREAM (R111, R112, R115, R116, R127). -/

namespace Sys2Proof.Machine

open Sys2Proof

/-! ### A record put in the table -/

theorem find?_insertRecord_self {r : StreamRecord} {rs : List StreamRecord} (free : ∀ x ∈ rs, x.index ≠ r.index) :
    (insertRecord r rs).find? (fun x => x.index == r.index) = some r := by
  induction rs with
  | nil => simp [insertRecord]
  | cons y rs ih =>
    obtain ⟨apart, rest⟩ := List.forall_mem_cons.1 free
    rw [insertRecord]
    split
    · simp
    · have miss : (y.index == r.index) = false := by simpa using apart
      rw [List.find?_cons, miss]
      exact ih rest

theorem find?_insertRecord_of_ne {r : StreamRecord} {j : Nat} (ne : r.index ≠ j) (rs : List StreamRecord) :
    (insertRecord r rs).find? (fun x => x.index == j) = rs.find? fun x => x.index == j := by
  have miss : (r.index == j) = false := by simpa using ne
  induction rs with
  | nil => simp [insertRecord, miss]
  | cons y rs ih =>
    rw [insertRecord]
    split
    · rw [List.find?_cons, miss]
    · rw [List.find?_cons, List.find?_cons, ih]

/-! ### OPEN_STREAM -/

section Opening

variable {s : State} {lane terminal : Byte} {rate : BitVec 32} {size budget : Byte} {limit : Option (BitVec 16)}
  {reroute : Byte} {l : LaneId} {f : FrameId} {i : Nat}

/-- The suspend limit that OPEN_STREAM gives. -/
def limitOf (s : State) (limit : Option (BitVec 16)) : Nat :=
  match limit with
  | some n => n.toNat
  | none => s.req.config.suspendDefault

theorem limitOf_eq (s : State) (limit : Option (BitVec 16)) :
    (limit.map (·.toNat)).getD s.req.config.suspendDefault = limitOf s limit := by cases limit <;> rfl

theorem rerouteOf_eq (h : reroute.toNat ≤ 1) : rerouteOf reroute = some (decide (reroute = 1)) := by
  have bit : reroute = 0 ∨ reroute = 1 := by
    rcases Nat.le_one_iff_eq_zero_or_eq_one.1 h with e | e
    · exact .inl (BitVec.eq_of_toNat_eq e)
    · exact .inr (BitVec.eq_of_toNat_eq e)
  rcases bit with rfl | rfl <;> rfl

theorem openArguments_eq (onLane : lane.toNat = l.val) (toward : terminal.toNat = f.val) (named : f ≠ 0)
    (most : rate.toNat ≤ 1000000000) (least : 2 ≤ budget.toNat) (highest : budget.toNat ≤ 32) (limited : limit ≠ some 0)
    (choice : reroute.toNat ≤ 1) :
    openArguments s lane terminal rate budget limit reroute = some (l, f, limitOf s limit, decide (reroute = 1)) := by
  have inRange : ¬ (f = 0 ∨ Figures.maxRate < rate.toNat ∨ budget.toNat < 2 ∨ 32 < budget.toNat ∨ limit = some 0) := by
    simp only [Figures.maxRate, named, limited, false_or, or_false]
    omega
  rw [openArguments, laneOf_eq_some onLane, frameOf_eq_some toward, rerouteOf_eq choice]
  simp only [if_neg inRange, limitOf_eq]

/-- A route that OPEN_STREAM takes. -/
def routeServes (s : State) (cells budget : Nat) (x : Route) : Prop :=
  x = .here ∨ ∃ p d, x = .route p d ∧ d + 1 ≤ budget ∧ cells ≤ freeUsable s p

theorem openRefusal_none (least : 1 ≤ rate.toNat) (sampled : size.toNat ∈ sampleSizes) (few : (laneOrigins s l).length < 8)
    (free : freeIndex s = some i) (time : timed s = true) (service : s.swap.departure = .inService)
    (slow : demand rate.toNat size.toNat ≤ 60)
    (serves : routeServes s (demand rate.toNat size.toNat) budget.toNat (routeTo s f)) :
    openRefusal s l f rate.toNat size.toNat budget.toNat = none := by
  have formed : ¬ (rate.toNat = 0 ∨ size.toNat ∉ sampleSizes) := by
    rintro (zero | bad)
    · omega
    · exact bad sampled
  have laneFree : ¬ Figures.originsPerLane ≤ (laneOrigins s l).length := Nat.not_le.2 few
  have fast : decide (Figures.maxCells < demand rate.toNat size.toNat) = false := decide_eq_false (Nat.not_lt.2 slow)
  rw [openRefusal, if_neg formed, if_neg laneFree, if_neg (by simp [free]), if_neg (by simp [time]),
    if_neg (by simp [departing_of_inService service])]
  rcases serves with here | ⟨p, d, way, short, room⟩
  · simp only [here, fast]
    rfl
  · simp only [way, fast]
    rw [if_neg (by simp), if_neg (Nat.not_lt.2 short), if_neg (Nat.not_lt.2 room)]

/-- The record as OPEN_STREAM puts it in the table, before its slots and its SETUP. -/
def placed (r : StreamRecord) (loops : Bool) (s : State) : State :=
  { s with
    streams :=
      { records := insertRecord r s.streams.records, serial := nextStreamSerial s
        activations := if loops then s.streams.activations + 1 else s.streams.activations } }

theorem recordAt_placed {r : StreamRecord} {loops : Bool} (free : freeIndex s = some r.index) :
    recordAt (placed r loops s) r.index = some r :=
  find?_insertRecord_self (freeIndex_spec free).2

theorem openRecord_here {n : Nat} {again : Bool} (way : routeTo s f = .here) :
    openRecord i l f rate.toNat size.toNat budget.toNat n again s =
      placed (originRecord i (streamIdOf (ownFrame s) (nextStreamSerial s)) l f rate.toNat size.toNat budget.toNat n again none
        s.streams.activations) true s := by
  simp only [openRecord, way]
  rfl

theorem openRecord_route {n : Nat} {again : Bool} {p : PortId} {d : Nat} (way : routeTo s f = .route p d) :
    openRecord i l f rate.toNat size.toNat budget.toNat n again s =
      offerSetup i (assignSlots i (demand rate.toNat size.toNat)
        (placed (originRecord i (streamIdOf (ownFrame s) (nextStreamSerial s)) l f rate.toNat size.toNat budget.toNat n again
          (some p) s.streams.activations) false s)) := by
  simp only [openRecord, way]
  rfl

section Opened

variable (run : s.pins.reset = false) (onLane : lane.toNat = l.val) (toward : terminal.toNat = f.val) (named : f ≠ 0)
  (least : 1 ≤ rate.toNat) (most : rate.toNat ≤ 1000000000) (sampled : size.toNat ∈ sampleSizes) (low : 2 ≤ budget.toNat)
  (high : budget.toNat ≤ 32) (limited : limit ≠ some 0) (choice : reroute.toNat ≤ 1) (few : (laneOrigins s l).length < 8)
  (free : freeIndex s = some i) (time : timed s = true) (service : s.swap.departure = .inService)
  (slow : demand rate.toNat size.toNat ≤ 60)

include run onLane toward named least most sampled low high limited choice few free time service slow

/-- OPEN_STREAM past its checks: the record as it then stands is reported. -/
theorem exec_openStream (serves : routeServes s (demand rate.toNat size.toNat) budget.toNat (routeTo s f)) {t : State}
    {r : StreamRecord}
    (opened : openRecord i l f rate.toNat size.toNat budget.toNat (limitOf s limit) (decide (reroute = 1)) s = t)
    (found : recordAt t i = some r) :
    exec (.openStream lane terminal rate size budget limit reroute) s =
      .next (withAnswer t .ok (.opened r.id i r.cells r.state r.reason)) := by
  have arm : exec (.openStream lane terminal rate size budget limit reroute) s =
      execOpenStream lane terminal rate size budget limit reroute s := rfl
  have args := openArguments_eq (s := s) onLane toward named most low high limited choice
  have accepted := openRefusal_none (l := l) (f := f) least sampled few free time service slow serves
  rw [arm, execOpenStream, request_of_run _ _ run, args]
  simp only [accepted, free, opened, found, answer_eq]

theorem openStream_loopback (own : f = s.req.config.frameId) :
    let made := originRecord i (streamIdOf s.req.config.frameId (nextStreamSerial s)) l f rate.toNat size.toNat budget.toNat
      (limitOf s limit) (decide (reroute = 1)) none s.streams.activations
    ∃ t, exec (.openStream lane terminal rate size budget limit reroute) s =
        .next (withAnswer t .ok (.opened made.id i made.cells .active none)) ∧
      t.streams = ⟨insertRecord made s.streams.records, nextStreamSerial s, s.streams.activations + 1⟩ ∧
      recordAt t i = some made ∧ changesOnly [.streams] s t := by
  intro made
  have here : routeTo s f = .here := (if_neg named).trans (if_pos own)
  have found : recordAt (placed made true s) i = some made := recordAt_placed (r := made) free
  refine ⟨placed made true s, ?_, rfl, found, by rintro ⟨⟩ h <;> first | rfl | simp at h⟩
  exact exec_openStream run onLane toward named least most sampled low high limited choice few free time service slow
    (.inl here) (openRecord_here here) found

theorem openStream_route {p : PortId} {d : Nat} (way : routeTo s f = .route p d) (short : d + 1 ≤ budget.toNat)
    (fits : demand rate.toNat size.toNat + (s.port p).slotMap.length ≤ usableCount (s.port p).delay)
    (room : (s.port p).protocolQueue.length < 16) :
    let made := originRecord i (streamIdOf s.req.config.frameId (nextStreamSerial s)) l f rate.toNat size.toNat budget.toNat
      (limitOf s limit) (decide (reroute = 1)) (some p) s.streams.activations
    ∃ t, exec (.openStream lane terminal rate size budget limit reroute) s =
        .next (withAnswer t .ok (.opened made.id i made.cells .pending none)) ∧
      t.streams = ⟨insertRecord made s.streams.records, nextStreamSerial s, s.streams.activations⟩ ∧
      recordAt t i = some made ∧
      t.port p = { s.port p with
        slotMap := assignIn made.cells i (usableCount (s.port p).delay) (s.port p).slotMap
        protocolQueue := (s.port p).protocolQueue ++ [setupOf made] } ∧
      otherPortsKept p s t ∧ changesOnly [.ports, .streams] s t := by
  intro made
  have found : recordAt (placed made false s) i = some made := recordAt_placed (r := made) free
  have added := makes_assignSlots found made.cells
  have port : (assignSlots i made.cells (placed made false s)).port p =
      { s.port p with slotMap := assignIn made.cells i (usableCount (s.port p).delay) (s.port p).slotMap } :=
    (added.port p).trans slotsAdded_self
  have takes := takesOffers_of_admitted (routeTo_admitted way)
  have offer := makes_offerSetup added.record (p := p) rfl (by rw [port]; exact takes) (by rw [port]; exact room)
  have makes := added.trans offer
  have streams : (offerSetup i (assignSlots i made.cells (placed made false s))).streams = (placed made false s).streams :=
    makes.frame .streams (by decide)
  refine ⟨offerSetup i (assignSlots i made.cells (placed made false s)), exec_openStream run onLane toward named least most sampled low high limited choice few free time service slow
    (.inr ⟨p, d, way, short, Nat.le_sub_of_add_le fits⟩) (openRecord_route way) makes.record, streams, makes.record, ?_, ?_, ?_⟩
  · exact (makes.port p).trans ((congrArg _ slotsAdded_self).trans (offeredOn_of_room (m := setupOf made) takes room))
  · exact fun q ne => (makes.port q).trans
      ((offeredOn_of_ne (ne_some_of_ne ne)).trans (slotsAdded_of_ne (ne_some_of_ne ne)))
  · have begun : changesOnly [.ports, .streams] s (placed made false s) := by
      rintro ⟨⟩ h <;> first | rfl | simp at h
    exact begun.trans (makes.frame.mono (by decide))

end Opened

/-- The numbers of a SETUP are those of the request. -/
theorem setupOf_origin (id : StreamId) (p : PortId) (n : Nat) (again : Bool) (order : Epoch) :
    setupOf (originRecord i id l f rate.toNat size.toNat budget.toNat n again (some p) order) =
      .setup { id := id, gen := 0, terminal := f, hop := 0, rate := rate, sampleBytes := size
               cells := BitVec.ofNat 8 (demand rate.toNat size.toNat), budget := budget } := by
  simp [setupOf, originRecord]

end Opening

/-- Settles O29: the record stands at the free index, and over a route it has its slots and has offered its SETUP. -/
theorem streamOpens : Obligations.StreamOpens := by
  intro s lane terminal rate size budget limit reroute l f i run onLane toward named least most sampled low high limited choice
    few free time service slow id c made
  have limits : ∀ egress, made egress = originRecord i id l f rate.toNat size.toNat budget.toNat (limitOf s limit)
      (decide (reroute = 1)) egress s.streams.activations := fun egress => by cases limit <;> rfl
  refine ⟨fun own => ?_, fun p d way short fits room => ?_⟩
  · rw [limits]
    obtain ⟨t, arm, streams, found, frame⟩ := openStream_loopback run onLane toward named least most sampled low high limited
      choice few free time service slow own
    exact ⟨t, arm, streams, found, rfl, rfl, rfl, rfl, frame⟩
  · rw [limits, ← setupOf_origin id p (limitOf s limit) (decide (reroute = 1)) s.streams.activations]
    obtain ⟨t, arm, streams, found, port, others, frame⟩ := openStream_route run onLane toward named least most sampled low high
      limited choice few free time service slow way short fits room
    exact ⟨t, arm, streams, found, rfl, rfl, rfl, rfl, port, others, frame⟩

/-! ### CLOSE_STREAM and CLEAR_STREAMS -/

theorem exec_closeStream {s : State} (run : s.pins.reset = false) (id : StreamId) :
    exec (.closeStream id) s = .next (match recordOf s id with
      | none => withAnswer s .notFound .empty
      | some r =>
        if isOrigin r = true then
          withAnswer (removeRecord r.index (if r.state = .closed then s else releaseDown r s)) .ok .empty
        else refuseWith .notOrigin s) := by
  have arm : exec (.closeStream id) s = execCloseStream id s := rfl
  rw [arm, execCloseStream, request_of_run _ _ run]
  cases recordOf s id with
  | none => rfl
  | some r =>
    cases origin : isOrigin r <;> simp only [origin] <;> rfl

/-- A record that is closed on request: its RELEASE unless it is CLOSED, then its removal. -/
theorem makes_closed {s : State} {r : StreamRecord} (found : recordAt s r.index = some r) :
    Makes r.index none
        (fun p x => slotsCut 0 r.index r.egress p
          (offeredOn (if r.state = .closed then none else downstream r) (.release r.id r.gen) p x)) true
        [.ports, .captures, .req, .streams, .sinks] s (removeRecord r.index (if r.state = .closed then s else releaseDown r s)) ∧
      (removeRecord r.index (if r.state = .closed then s else releaseDown r s)).sinks =
        s.sinks.filter (fun x => !r.sinks.contains x.index) := by
  have told : Makes r.index (some r) (offeredOn (if r.state = .closed then none else downstream r) (.release r.id r.gen)) false
      [.ports, .captures, .req] s (if r.state = .closed then s else releaseDown r s) := by
    split
    · exact (makes_unsent found _).mono (by simp)
    · exact makes_sendSide found (downstream r) (.release r.id r.gen)
  obtain ⟨removed, sinks⟩ := makes_removeRecord told.record
  exact ⟨(told.trans removed).mono (by decide), by rw [sinks, told.frame .sinks (by decide)]⟩

theorem onRecord_clearMessages (r : StreamRecord) (s : State) : OnRecord r.index 2 s (clearMessages r s) := by
  have none_ : OnRecord r.index 2 s s := (OnRecord.refl r.index s).mono (by decide)
  unfold clearMessages
  split
  · exact none_
  · split
    · exact (onRecord_sendSide r.index _ _ s).mono (by decide)
    · exact (onRecord_sendSide r.index _ _ s).trans (onRecord_sendSide r.index _ _ _)
    · exact (onRecord_sendSide r.index _ _ s).mono (by decide)
    · exact none_

theorem clearMessages_streams (r : StreamRecord) (s : State) : (clearMessages r s).streams = s.streams := by
  unfold clearMessages
  split
  · rfl
  · split <;> simp

/-- The messages of CLEAR_STREAMS, of one record after another. -/
def clearAllMessages (rs : List StreamRecord) (s : State) : State := rs.foldl (fun s r => clearMessages r s) s

theorem clearAllMessages_spec (rs : List StreamRecord) (s : State) :
    StreamEffects s (clearAllMessages rs s) ∧ (clearAllMessages rs s).streams = s.streams ∧
      (∀ p, ((clearAllMessages rs s).port p).floodQueue = (s.port p).floodQueue) ∧ (clearAllMessages rs s).sinks = s.sinks := by
  refine ⟨StreamEffects.foldl _ (fun s r => clearMessages_effects r s) rs s, foldl_streams _ (fun s r => clearMessages_streams r s) rs s,
    fun p => ?_, ?_⟩
  · induction rs generalizing s with
    | nil => rfl
    | cons r rs ih => exact (ih (clearMessages r s)).trans ((onRecord_clearMessages r s).floods p)
  · have frame (r : StreamRecord) (s : State) : changesOnly [.ports, .captures, .req] s (clearMessages r s) := by
      unfold clearMessages
      split
      · exact .refl _ s
      · split
        · exact sendSide_frame _ _ s
        · exact (sendSide_frame _ _ s).trans (sendSide_frame _ _ _)
        · exact sendSide_frame _ _ s
        · exact .refl _ s
    exact changesOnly.foldl _ (fun s r => frame r s) rs s .sinks (by decide)

/-- The tables without entries, before the notices. -/
def cleared (s : State) : State :=
  { s with
    streams := { s.streams with records := [] }, sinks := []
    ports := s.ports.map fun x => { x with slotMap := [] } }

theorem port_cleared (s : State) (p : PortId) : (cleared s).port p = { s.port p with slotMap := [] } := by
  simp only [State.port, cleared, PerPort.get_map]

theorem cleared_effects (s : State) : StreamEffects s (cleared s) := by
  refine ⟨?_, fun p => ?_, fun p _ => ?_, .of_req rfl⟩
  · rintro ⟨⟩ h <;> first | rfl | simp at h
  · rw [port_cleared]
    rfl
  · rw [port_cleared]
    exact ⟨rfl, rfl⟩

theorem clearTable_eq (s : State) : clearTable s = raiseIf (!s.sinks.isEmpty) .sink (raise .stream (cleared s)) := rfl

/-- Settles O30: the record goes with its slots, sinks and RELEASE; and all records go at once. -/
theorem streamsCloseAndClear : Obligations.StreamsCloseAndClear := by
  refine ⟨fun s id run => ⟨fun absent => ?_, fun r found hop => ?_, fun r inv found origin => ?_⟩, fun s run => ?_⟩
  · rw [exec_closeStream run, absent]
  · rw [exec_closeStream run, found]
    simp only [hop]
    rfl
  · obtain ⟨makes, sinks⟩ := makes_closed (recordAt_of_recordOf inv found)
    refine ⟨_, ?_, makes.record, makes.others, sinks, makes.flag rfl, makes.effects, fun q ne => ?_, fun p way => ?_⟩
    · rw [exec_closeStream run, found]
      simp only [origin, if_true]
    · have quiet : (if r.state = .closed then none else downstream r) ≠ some q := by
        split
        · simp
        · exact ne
      rw [makes.port, offeredOn_of_ne quiet, slotsCut_of_ne ne]
    · rw [makes.port, way, slotsCut_self, keepSlots_zero]
      refine ⟨by rw [(offeredOn_fields ..).1], (offeredOn_fields ..).2.1, ?_⟩
      dsimp only
      by_cases shut : r.state = .closed
      · rw [if_pos shut, offeredOn_none, if_neg (by simp [shut])]
      · rw [if_neg shut, downstream, way, offeredOn, if_pos rfl, offered]
        by_cases room : takesOffers (s.port p).state = true ∧ 
            (s.port p).protocolQueue.length < protocolRoom (.release r.id r.gen)
        · rw [if_pos room, if_pos ⟨shut, room⟩]
        · rw [if_neg room, if_neg fun h => room h.2]
  · obtain ⟨effects, streams, floods, sinks⟩ := clearAllMessages_spec s.streams.records s
    have arm : exec .clearStreams s = execClearStreams s := rfl
    have noticed := (raise_effects .stream (cleared (clearAllMessages s.streams.records s))).trans
      (raiseIf_effects (!(clearAllMessages s.streams.records s).sinks.isEmpty) .sink _)
    have port (p : PortId) : (clearTable (clearAllMessages s.streams.records s)).port p =
        { (clearAllMessages s.streams.records s).port p with slotMap := [] } := by
      rw [clearTable_eq, port_raiseIf]
      exact port_cleared ..
    refine ⟨clearTable (clearAllMessages s.streams.records s), ?_, ?_, ?_, fun p => ?_, fun p => ?_, ?_, fun held => ?_, ?_⟩
    · rw [arm, execClearStreams, request_of_run _ _ run]
      rfl
    · have emptied : (clearTable (clearAllMessages s.streams.records s)).streams =
          { (clearAllMessages s.streams.records s).streams with records := [] } := by
        rw [clearTable_eq, raiseIf_streams]
        rfl
      rw [emptied, streams]
    · rw [clearTable_eq, raiseIf_sinks]
      rfl
    · rw [port]
    · rw [port, ← floods p]
    · rw [clearTable_eq, raiseIf_flag, raise_flag]
      simp
    · rw [clearTable_eq, raiseIf_flag, sinks]
      simp [held]
    · rw [clearTable_eq]
      exact (effects.trans (cleared_effects _)).trans noticed

/-! ### RETUNE_STREAM -/

section Retuning

variable {s : State} {r : StreamRecord} {rate : Nat}

theorem retuneRefusal_none (service : s.swap.departure = .inService) (least : 1 ≤ rate)
    (slow : demand rate r.sampleBytes ≤ 60) (pool : poolAdmits s r (max r.cells (demand rate r.sampleBytes)) = true)
    (way : ∀ p, r.egress = some p → demand rate r.sampleBytes - r.cells ≤ freeUsable s p) :
    retuneRefusal s r rate = none := by
  have positive : ¬ rate = 0 := Nat.pos_iff_ne_zero.1 least
  have slots : ¬ (r.cells < demand rate r.sampleBytes ∧
      r.egress.any (fun p => decide (freeUsable s p < demand rate r.sampleBytes - r.cells)) = true) := by
    rintro ⟨-, narrow⟩
    obtain ⟨isSome, less⟩ := (Option.any_eq_true_iff_get _ _).1 narrow
    exact absurd (of_decide_eq_true less) (Nat.not_lt.2 (way _ (Option.some_get isSome).symm))
  have fast : ¬ Figures.maxCells < demand rate r.sampleBytes := Nat.not_lt.2 slow
  rw [retuneRefusal, if_neg (by simp [departing_of_inService service]), if_neg positive, if_neg fast, if_neg slots,
    if_neg (by rw [pool]; decide)]

theorem exec_retuneStream {id : StreamId} {rate : BitVec 32} {t : State} {r' : StreamRecord} (run : s.pins.reset = false)
    (found : recordOf s id = some r) (origin : isOrigin r = true) (active : r.state = .active)
    (settled : settlePending s r = false) (most : rate.toNat ≤ 1000000000) (accepted : retuneRefusal s r rate.toNat = none)
    (begun : beginRetune r ⟨demand rate.toNat r.sampleBytes, rate.toNat⟩ s = t) (after : recordAt t r.index = some r') :
    exec (.retuneStream id rate) s = .next (withAnswer t .ok (.retuned (demand rate.toNat r.sampleBytes) r'.state)) := by
  have arm : exec (.retuneStream id rate) s = execRetuneStream id rate s := rfl
  have inRange : ¬ Figures.maxRate < rate.toNat := Nat.not_lt.2 most
  rw [arm, execRetuneStream, request_of_run _ _ run, if_neg inRange, found]
  simp only [origin, active, settled, accepted, begun, after, answer_eq]
  rfl

theorem makes_beginRetune_loopback (found : recordAt s r.index = some r) (absent : r.egress = none) (d : Staged) :
    Makes r.index (some { stagedFor d none r with changed := true, switchEpoch := some (s.clock.epoch + 2) })
      portsStand true [.streams, .ports, .sinks, .req] s (beginRetune r d s) := by
  have staged := makes_stageRetune found d none
  have whole : beginRetune r d s = takeSwitchEpoch r.index (s.clock.epoch + 2) (stageRetune r.index d none s) := by
    simp only [beginRetune, absent]
  have stand : slotsAdded (d.cells - r.cells) r.index none = portsStand := by
    funext p x
    exact slotsAdded_of_ne (by simp)
  rw [absent, stand] at staged
  rw [whole]
  exact (staged.trans (makes_takeSwitchEpoch staged.record (s.clock.epoch + 2))).mono (by decide)

theorem makes_beginRetune {p : PortId} (found : recordAt s r.index = some r) (way : r.egress = some p) (d : Staged)
    (takes : takesOffers (s.port p).state = true) (room : (s.port p).protocolQueue.length < 16) :
    Makes r.index (some { stagedFor d (some 512) r with changed := true })
      (fun q x => offeredOn (some p) (.retune r.id r.gen (BitVec.ofNat 32 d.rate) (BitVec.ofNat 8 d.cells)) q
        (slotsAdded (d.cells - r.cells) r.index (some p) q x)) true [.streams, .ports, .sinks, .req] s (beginRetune r d s) := by
  have staged := makes_stageRetune found d (some 512)
  rw [way] at staged
  have port := (staged.port p).trans slotsAdded_self
  have answer : protocolAnswer (stageRetune r.index d (some 512) s) p
      (.retune r.id r.gen (BitVec.ofNat 32 d.rate) (BitVec.ofNat 8 d.cells)) = .taken :=
    protocolAnswer_taken_iff.2 ⟨by rw [port]; exact takes, by rw [port]; exact room⟩
  have whole : beginRetune r d s = joinProtocol p (.retune r.id r.gen (BitVec.ofNat 32 d.rate) (BitVec.ofNat 8 d.cells))
      (stageRetune r.index d (some 512) s) := by
    simp only [beginRetune, way, Figures.originRetuneEpochs, answer]
  rw [whole]
  exact (staged.trans (makes_joinProtocol staged.record p _)).mono (by decide)

end Retuning

/-- Settles O31: the demand is staged; a loopback takes its switch epoch, any other origin its slots, and offers its RETUNE. -/
theorem retuneBegins : Obligations.RetuneBegins := by
  intro s id rate r run inv found origin active settled service least most slow pool c
  have at_ := recordAt_of_recordOf inv found
  refine ⟨fun absent => ?_, fun p way fits takes room => ?_⟩
  · have accepted := retuneRefusal_none service least slow pool (by simp [absent])
    have makes := makes_beginRetune_loopback at_ absent ⟨c, rate.toNat⟩
    exact ⟨_, exec_retuneStream run found origin active settled most accepted rfl makes.record, makes.record, makes.others,
      makes.ports fun _ _ => rfl, makes.effects, makes.flag rfl⟩
  · have accepted := retuneRefusal_none service least slow pool fun q here => by
      rw [Option.some.inj (here.symm.trans way)]
      exact Nat.le_sub_of_add_le fits
    have makes := makes_beginRetune at_ way ⟨c, rate.toNat⟩ takes room
    refine ⟨_, exec_retuneStream run found origin active settled most accepted rfl makes.record, makes.record, makes.others,
      makes.otherPorts fun q ne x => ?_, makes.effects, makes.flag rfl, ?_⟩
    · rw [offeredOn_of_ne (ne_some_of_ne ne), slotsAdded_of_ne (ne_some_of_ne ne)]
    · have named : BitVec.ofNat 32 rate.toNat = rate := by simp
      rw [named] at makes
      exact (makes.port p).trans ((congrArg _ slotsAdded_self).trans
        (offeredOn_of_room (m := .retune r.id r.gen rate (BitVec.ofNat 8 c)) takes room))

end Sys2Proof.Machine
end

section
/-! SUPPORT. SETUP at a hop: a record put in the table, in place of one of an older generation or at a free index (R117 to R120). -/

namespace Sys2Proof.Machine

open Sys2Proof

/-! ### Sinks carried over to a newer generation (R150) -/

/-- A sink with the hop index and the reservation of the record that supersedes its own. -/
def carried (n hop : Nat) (x : Sink) : Sink := withReservation n { x with hop := hop, settle := none }

theorem discardCell_settle (c : SinkCell) (x : Sink) : (discardCell c x).hop = x.hop ∧ (discardCell c x).settle = x.settle := by
  unfold discardCell
  split <;> exact ⟨rfl, rfl⟩

theorem trimCells_settle (n : Nat) (x : Sink) : (trimCells n x).hop = x.hop ∧ (trimCells n x).settle = x.settle := by
  induction n generalizing x with
  | zero => exact ⟨rfl, rfl⟩
  | succ n ih =>
    unfold trimCells
    split
    · exact ⟨rfl, rfl⟩
    · next c _ => exact ⟨(ih _).1.trans (discardCell_settle c x).1, (ih _).2.trans (discardCell_settle c x).2⟩

theorem withReservation_fields (n : Nat) (x : Sink) :
    (withReservation n x).hop = x.hop ∧ (withReservation n x).settle = x.settle ∧ (withReservation n x).reservation = n := by
  unfold withReservation
  dsimp only
  split
  · exact ⟨(trimCells_settle _ _).1, (trimCells_settle _ _).2, (trimCells_index _ _).2⟩
  · exact ⟨rfl, rfl, rfl⟩

theorem carried_index (n hop : Nat) (x : Sink) : (carried n hop x).index = x.index := withReservation_index ..

theorem sink_standing {x : Sink} {n hop : Nat} (sameHop : x.hop = hop) (settled : x.settle = none)
    (reservation : x.reservation = n) : ({ x with hop := hop, settle := none, reservation := n } : Sink) = x := by
  subst sameHop reservation
  rw [← settled]

/-- Carried twice is carried once: what the first left fits the reservation. -/
theorem carried_carried (n hop : Nat) (x : Sink) : carried n hop (carried n hop x) = carried n hop x := by
  obtain ⟨sameHop, settled, reservation⟩ := withReservation_fields n { x with hop := hop, settle := none }
  have room : occupied (carried n hop x) ≤ n := by
    have := withReservation_room n { x with hop := hop, settle := none }
    unfold sinkRoom at this
    rw [reservation] at this
    exact this
  have same : ({ carried n hop x with hop := hop, settle := none, reservation := n } : Sink) = carried n hop x :=
    sink_standing sameHop settled reservation
  have fits : ¬ n < occupied (carried n hop x) := Nat.not_lt.2 room
  rw [carried, withReservation]
  simp only [same, if_neg fits]

theorem reservedBy_edit {k n : Nat} {f : Sink → Sink} (gives : ∀ x, (f x).reservation = n) {ks : List Sink}
    (nodup : (ks.map (·.index)).Nodup) :
    reservedBy (ks.map fun x => if x.index = k then f x else x) ≤ reservedBy ks + n := by
  induction ks with
  | nil => exact Nat.zero_le _
  | cons x ks ih =>
    obtain ⟨out, nodup⟩ := List.nodup_cons.1 nodup
    simp only [reservedBy, List.map_cons, List.sum_cons] at ih ⊢
    by_cases here : x.index = k
    · have others : (ks.map fun x => if x.index = k then f x else x) = ks := by
        refine (List.map_congr_left fun y mem => if_neg fun e => out ?_).trans (List.map_id ks)
        exact List.mem_map.2 ⟨y, mem, e.trans here.symm⟩
      rw [if_pos here, gives, others]
      omega
    · rw [if_neg here]
      have := ih nodup
      omega

theorem sinkAt_eq_none {s : State} {k : Nat} (h : sinkAt s k = none) : ∀ x ∈ s.sinks, x.index ≠ k := fun x mem => by
  simpa using List.find?_eq_none.1 h x mem

/-- The sinks of a record, one after another. -/
def carryAll (hop cells budget : Nat) (ks : List Nat) (s : State) : State := ks.foldl (carrySink hop cells budget) s

/-- What a sink carried over, or dropped, leaves. -/
theorem carrySink_leaves (hop cells budget : Nat) (s : State) (k : Nat) (i : Nat) :
    changesOnly [.streams, .sinks, .req] s (carrySink hop cells budget s k) ∧
      otherRecordsKept i s (carrySink hop cells budget s k) ∧
      (carrySink hop cells budget s k).streams.serial = s.streams.serial ∧
      (carrySink hop cells budget s k).streams.activations = s.streams.activations := by
  unfold carrySink
  split
  · exact ⟨.refl _ s, fun _ _ => rfl, rfl, rfl⟩
  · dsimp only
    split
    · refine ⟨(changeSink_frame k _ s).mono (by simp), .of_streams (changeSink_streams k _ s), ?_, ?_⟩
      · rw [changeSink_streams]
      · rw [changeSink_streams]
    · exact ⟨detachAll_frame [k] s, otherRecordsKept_detachAll i [k] s, rfl, rfl⟩

theorem carryAll_leaves (hop cells budget : Nat) (ks : List Nat) (s : State) (i : Nat) :
    StreamEffects s (carryAll hop cells budget ks s) ∧ changesOnly [.streams, .sinks, .req] s (carryAll hop cells budget ks s) ∧
      otherRecordsKept i s (carryAll hop cells budget ks s) ∧
      (carryAll hop cells budget ks s).streams.serial = s.streams.serial ∧
      (carryAll hop cells budget ks s).streams.activations = s.streams.activations := by
  refine ⟨StreamEffects.foldl _ (carrySink_effects hop cells budget) ks s,
    changesOnly.foldl _ (fun s k => (carrySink_leaves hop cells budget s k i).1) ks s, ?_⟩
  induction ks generalizing s with
  | nil => exact ⟨fun _ _ => rfl, rfl, rfl⟩
  | cons k ks ih =>
    obtain ⟨-, others, serial, order⟩ := carrySink_leaves hop cells budget s k i
    obtain ⟨others', serial', order'⟩ := ih (carrySink hop cells budget s k)
    exact ⟨others.trans others', serial'.trans serial, order'.trans order⟩

theorem makes_carryAll {s : State} (hop cells budget : Nat) (ks : List Nat) (i : Nat) :
    Makes i (recordAt (carryAll hop cells budget ks s) i) portsStand false [.streams, .sinks, .req] s
      (carryAll hop cells budget ks s) := by
  obtain ⟨effects, frame, others, -⟩ := carryAll_leaves hop cells budget ks s i
  exact ⟨rfl, others, fun p => port_of_ports (frame .ports (by decide)) p, nofun, effects, frame⟩

/-- With room in the pool for all of them every sink is carried over. -/
theorem carryAll_fits {hop cells budget : Nat} {ks : List Nat} {s : State} (nodup : (s.sinks.map (·.index)).Nodup)
    (room : reservedCells s + ks.length * reservationFor cells budget hop ≤ 4096) :
    (carryAll hop cells budget ks s).streams = s.streams ∧
      (carryAll hop cells budget ks s).sinks = s.sinks.map fun x =>
        if x.index ∈ ks then carried (reservationFor cells budget hop) hop x else x := by
  induction ks generalizing s with
  | nil => exact ⟨rfl, by simp [carryAll]⟩
  | cons k ks ih =>
    rw [List.length_cons, Nat.succ_mul] at room
    have first : (carrySink hop cells budget s k).streams = s.streams ∧
        (carrySink hop cells budget s k).sinks =
          s.sinks.map fun x => if x.index = k then carried (reservationFor cells budget hop) hop x else x := by
      unfold carrySink
      cases found : sinkAt s k with
      | none =>
        refine ⟨rfl, ?_⟩
        exact ((List.map_congr_left fun x mem => if_neg (sinkAt_eq_none found x mem)).trans (List.map_id _)).symm
      | some x =>
        dsimp only
        rw [if_pos (.inr (by simp only [Figures.poolCells]; omega))]
        exact ⟨changeSink_streams .., changeSink_sinks ..⟩
    have nodup' : ((carrySink hop cells budget s k).sinks.map (·.index)).Nodup := by
      have same : (carrySink hop cells budget s k).sinks.map (·.index) = s.sinks.map (·.index) := by
        rw [first.2, List.map_map]
        refine List.map_congr_left fun x _ => ?_
        by_cases here : x.index = k
        · simp only [Function.comp_apply, if_pos here, carried_index]
        · simp only [Function.comp_apply, if_neg here]
      rwa [same]
    have most : reservedCells (carrySink hop cells budget s k) ≤ reservedCells s + reservationFor cells budget hop := by
      rw [reservedCells, first.2]
      exact reservedBy_edit (fun x => (withReservation_fields ..).2.2) nodup
    obtain ⟨streams, sinks⟩ := ih nodup' (by omega)
    rw [carryAll, List.foldl_cons, ← carryAll]
    refine ⟨streams.trans first.1, ?_⟩
    rw [sinks, first.2, List.map_map]
    refine List.map_congr_left fun x _ => ?_
    by_cases here : x.index = k
    · simp only [Function.comp_apply, carried_carried, carried_index, here, List.mem_cons_self, if_true]
      split <;> rfl
    · have rest : x.index ∈ k :: ks ↔ x.index ∈ ks := by simp [here]
      simp only [Function.comp_apply, if_neg here, rest]

/-- A lone sink for which the pool has no room is detached. -/
theorem carryAll_full {hop cells budget k : Nat} {s : State} {x : Sink} (found : sinkAt s k = some x)
    (larger : x.reservation < reservationFor cells budget hop)
    (full : 4096 < reservedCells s - x.reservation + reservationFor cells budget hop) :
    carryAll hop cells budget [k] s = detachAll [k] s := by
  have over_ : ¬ (reservationFor cells budget hop ≤ x.reservation ∨
      reservedCells s - x.reservation + reservationFor cells budget hop ≤ Figures.poolCells) := by
    simp only [Figures.poolCells]
    omega
  rw [carryAll, List.foldl_cons, List.foldl_nil, carrySink, found]
  exact if_neg over_

/-! ### A port with messages at the tail of its protocol queue -/

/-- A port with more messages in its protocol queue. -/
def joined (ms : List Msg) (x : Port) : Port := { x with protocolQueue := x.protocolQueue ++ ms }

theorem offeredOn_joined {side : Option PortId} {m : Msg} {p : PortId} {x : Port}
    (room : side = some p → takesOffers x.state = true ∧ x.protocolQueue.length < protocolRoom m) :
    offeredOn side m p x = joined (if side = some p then [m] else []) x := by
  by_cases here : side = some p
  · rw [if_pos here, offeredOn, if_pos here, offered_of_room (room here).1 (room here).2]
    rfl
  · rw [if_neg here, offeredOn_of_ne here, joined, List.append_nil]

/-! ### The record of a SETUP -/

theorem hopRecord_congr {s t : State} (streams : t.streams = s.streams) (req : t.req = s.req) (i : Nat)
    (old : Option StreamRecord) (q : PortId) (m : SetupMsg) (egress : Option PortId) :
    hopRecord t i old q m egress = hopRecord s i old q m egress := by
  unfold hopRecord
  rw [streams, req]

theorem makes_putRecord (r : StreamRecord) (s : State) :
    Makes r.index (some r) portsStand false [.streams] s (putRecord r s) := by
  refine ⟨find?_insertRecord_self fun x mem => by simpa using (List.mem_filter.1 mem).2, fun j ne => ?_, fun _ => rfl, nofun,
    putRecord_effects r s, by rintro ⟨⟩ h <;> first | rfl | simp at h⟩
  have same : recordAt (putRecord r s) j = recordAt s j := by
    refine ((find?_insertRecord_of_ne ne.symm _).trans List.find?_filter).trans (List.find?_congr fun x _ => ?_)
    by_cases e : x.index = j <;> simp [e, ne]
  rw [same]

theorem breakOld_eq (r : StreamRecord) (s : State) :
    breakOld r s = freeEgress r (if inService r then breakDown r .pathLost s else s) := by
  rcases Option.eq_none_or_eq_some r.egress with absent | ⟨p, here⟩
  · have quiet : breakDown r .pathLost s = s := by simp [breakDown, downstream, absent, sendSide]
    simp [breakOld, freeEgress, absent, quiet]
  · simp [breakOld, freeEgress, here]

/-- A record's BREAK of its old generation where it was in service, and its slots freed. -/
theorem makes_breakOld {s : State} {r : StreamRecord} (found : recordAt s r.index = some r)
    (room : ∀ p, r.egress = some p → takesOffers (s.port p).state = true ∧ (s.port p).protocolQueue.length < 20) :
    Makes r.index (some r)
      (fun p x => slotsCut 0 r.index r.egress p
        (offeredOn (if inService r then r.egress else none) (breakOf r .pathLost .towardTerminus) p x)) false [.ports] s
      (breakOld r s) := by
  have told : Makes r.index (some r)
      (offeredOn (if inService r then r.egress else none) (breakOf r .pathLost .towardTerminus)) false [.ports] s
      (if inService r then breakDown r .pathLost s else s) := by
    rcases Option.eq_none_or_eq_some r.egress with absent | ⟨p, here⟩
    · have quiet : breakDown r .pathLost s = s := by simp [breakDown, downstream, absent, sendSide]
      rw [quiet, absent, ite_self, ite_self]
      exact (makes_unsent found _).mono (by simp)
    · split
      · rw [breakDown, downstream, here]
        exact makes_send_of_room found (room p here).1 (room p here).2
      · exact (makes_unsent found _).mono (by simp)
  rw [breakOld_eq]
  exact (told.trans (makes_freeEgress told.record)).mono (by simp)

/-- What a new record takes besides its place: slots on its egress, or the next activation order. -/
def entered (egress : Option PortId) (i cells : Nat) (s : State) : State :=
  if egress.isSome then assignSlots i cells s
  else { s with streams := { s.streams with activations := s.streams.activations + 1 } }

theorem makes_entered {s : State} {i : Nat} {r : StreamRecord} (found : recordAt s i = some r) (cells : Nat) :
    Makes i (some r) (slotsAdded cells i r.egress) false [.ports, .streams] s (entered r.egress i cells s) ∧
      (entered r.egress i cells s).streams = { s.streams with
        activations := if r.egress = none then s.streams.activations + 1 else s.streams.activations } := by
  rcases Option.eq_none_or_eq_some r.egress with absent | ⟨p, here⟩
  · have whole : entered r.egress i cells s =
        { s with streams := { s.streams with activations := s.streams.activations + 1 } } := by simp [entered, absent]
    refine ⟨⟨?_, ?_, fun p => ?_, nofun, ?_, ?_⟩, ?_⟩
    · rw [whole]; exact found
    · rw [whole]; exact fun _ _ => rfl
    · rw [whole, slotsAdded_of_ne (by simp [absent])]; rfl
    · rw [whole]
      exact ⟨by rintro ⟨⟩ h <;> first | rfl | simp at h, fun _ => rfl, fun _ _ => ⟨rfl, rfl⟩, .of_req rfl⟩
    · rw [whole]; rintro ⟨⟩ h <;> first | rfl | simp at h
    · rw [whole, if_pos absent]
  · have whole : entered r.egress i cells s = assignSlots i cells s := by simp [entered, here]
    rw [whole]
    exact ⟨(makes_assignSlots found cells).mono (by simp), by rw [assignSlots_streams, if_neg (by simp [here])]⟩

theorem makes_raiseStream {s : State} {i : Nat} {o : Option StreamRecord} (found : recordAt s i = o) :
    Makes i o portsStand true [.req] s (raise .stream s) :=
  ⟨found, fun _ _ => rfl, fun _ => rfl, fun _ => by rw [raise_flag]; simp, raise_effects .stream s, raise_frame .stream s⟩

/-- A record put in the table with all that it takes. -/
def placeIn (r : StreamRecord) (s : State) : State :=
  raise .stream (entered r.egress r.index r.cells (carryAll r.hop r.cells r.budget r.sinks (putRecord r s)))

theorem placeRecord_new {s : State} {q : PortId} {m : SetupMsg} {i : Nat} (absent : recordOf s m.id = none)
    (free : freeIndex s = some i) (egress : Option PortId) :
    placeRecord q m egress s = placeIn (hopRecord s i none q m egress) s := by
  simp only [placeRecord, absent, free]
  rfl

theorem placeRecord_old {s : State} {q : PortId} {m : SetupMsg} {r : StreamRecord} (found : recordOf s m.id = some r)
    (egress : Option PortId) :
    placeRecord q m egress s = placeIn (hopRecord s r.index (some r) q m egress) (breakOld r s) := by
  simp only [placeRecord, found]
  rfl

/-- Sinks carried over change of a record the list of its sinks alone. -/
theorem recordAt_carryAll {hop cells budget : Nat} {ks : List Nat} {s : State} {i : Nat} {r : StreamRecord}
    (found : recordAt s i = some r) :
    ∃ js, recordAt (carryAll hop cells budget ks s) i = some { r with sinks := js } := by
  induction ks generalizing s r with
  | nil => exact ⟨r.sinks, found⟩
  | cons k ks ih =>
    have first : ∃ js, recordAt (carrySink hop cells budget s k) i = some { r with sinks := js } := by
      unfold carrySink
      split
      · exact ⟨r.sinks, found⟩
      · dsimp only
        split
        · exact ⟨r.sinks, (recordAt_of_streams (changeSink_streams ..) i).trans found⟩
        · exact ⟨_, (recordAt_detachAll [k] s i).trans (congrArg _ found)⟩
    obtain ⟨js, first⟩ := first
    exact ih (r := { r with sinks := js }) first

theorem makes_placeIn (r : StreamRecord) (s : State) :
    ∃ js, Makes r.index (some { r with sinks := js }) (slotsAdded r.cells r.index r.egress) true
        [.streams, .sinks, .req, .ports] s (placeIn r s) ∧
      recordAt (carryAll r.hop r.cells r.budget r.sinks (putRecord r s)) r.index = some { r with sinks := js } ∧
      (placeIn r s).sinks = (carryAll r.hop r.cells r.budget r.sinks (putRecord r s)).sinks ∧
      (placeIn r s).streams.serial = s.streams.serial ∧
      (placeIn r s).streams.activations = (if r.egress = none then s.streams.activations + 1 else s.streams.activations) ∧
      noticesOnly (carryAll r.hop r.cells r.budget r.sinks (putRecord r s)) (placeIn r s) := by
  have put := makes_putRecord r s
  obtain ⟨js, found⟩ := recordAt_carryAll (hop := r.hop) (cells := r.cells) (budget := r.budget) (ks := r.sinks) put.record
  have carry := makes_carryAll (s := putRecord r s) r.hop r.cells r.budget r.sinks r.index
  rw [found] at carry
  obtain ⟨enter, streams⟩ := makes_entered carry.record r.cells
  have whole := ((put.trans carry).trans enter).trans (makes_raiseStream enter.record)
  obtain ⟨-, -, -, serial, order⟩ := carryAll_leaves r.hop r.cells r.budget r.sinks (putRecord r s) r.index
  refine ⟨js, whole.mono (by decide), found, enter.frame .sinks (by decide), ?_, ?_, ?_⟩
  · exact (congrArg (·.serial) streams).trans serial
  · refine (congrArg (·.activations) streams).trans ?_
    rw [order]
    rfl
  · exact enter.notices.trans (makes_raiseStream enter.record).notices

/-- A new record has no sinks to carry over. -/
theorem placeIn_new {r : StreamRecord} {s : State} (fresh : r.sinks = []) (free : ∀ x ∈ s.streams.records, x.index ≠ r.index) :
    Makes r.index (some r) (slotsAdded r.cells r.index r.egress) true [.streams, .req, .ports] s (placeIn r s) ∧
      (placeIn r s).streams = { s.streams with
        records := insertRecord r s.streams.records
        activations := if r.egress = none then s.streams.activations + 1 else s.streams.activations } ∧
      noticesSet [.stream] s (placeIn r s) := by
  have put := makes_putRecord r s
  obtain ⟨enter, streams⟩ := makes_entered put.record r.cells
  have whole : placeIn r s = raise .stream (entered r.egress r.index r.cells (putRecord r s)) := by
    rw [placeIn, fresh, carryAll, List.foldl_nil]
  have kept : s.streams.records.filter (fun x => x.index != r.index) = s.streams.records :=
    List.filter_eq_self.2 fun x mem => by simpa using free x mem
  rw [whole]
  refine ⟨((put.trans enter).trans (makes_raiseStream enter.record)).mono (by decide), streams.trans ?_,
    noticesSet_raiseIf true .stream ((enter.frame .req (by decide)).trans rfl)⟩
  simp only [putRecord, kept]
  rfl

/-! ### The checks -/

section Judged

variable {s : State} {q : PortId} {m : SetupMsg}

theorem setupLoops_new (foreign : streamOrigin m.id ≠ s.req.config.frameId.val) (absent : recordOf s m.id = none) :
    setupLoops s m = false := by
  have apart : (streamOrigin m.id == (ownFrame s).val) = false := by simpa [ownFrame] using foreign
  rw [setupLoops, apart, absent]
  rfl

theorem setupLoops_newer {r : StreamRecord} (foreign : streamOrigin m.id ≠ s.req.config.frameId.val)
    (found : recordOf s m.id = some r) (least : 1 ≤ (m.gen - r.gen).toNat) (most : (m.gen - r.gen).toNat ≤ 7) :
    setupLoops s m = false := by
  have apart : (streamOrigin m.id == (ownFrame s).val) = false := by simpa [ownFrame] using foreign
  have newer : newerGen m.gen r.gen = true := (ahead_iff _ _).2 ⟨least, by omega⟩
  rw [setupLoops, apart, found, Option.any_some, newer]
  rfl

variable (time : timed s = true) (service : s.swap.departure = .inService) (straight : setupLoops s m = false)
  (place : (recordOf s m.id).isSome = true ∨ (freeIndex s).isSome = true) (admitted : (s.port q).state = .admitted)

include time service straight place admitted

theorem judgeSetup_here (way : routeTo s m.terminal = .here) (early : m.hop + 2 ≤ m.budget.toNat) (near : m.hop + 1 ≤ 30) :
    judgeSetup s q m = .inr .terminus := by
  have room : ¬ ((recordOf s m.id).isNone && (freeIndex s).isNone) = true := by
    rcases place with h | h <;> simp [Option.isNone_eq_false_iff.2 h]
  simp only [judgeSetup, way]
  rw [if_neg (by simp [time]), if_neg (by simp [departing_of_inService service]), if_neg (by simp [straight]), if_neg room,
    if_neg (not_not.2 admitted), if_neg (by omega)]

theorem judgeSetup_route {p : PortId} {d : Nat} (way : routeTo s m.terminal = .route p d) (apart : p ≠ q)
    (early : m.hop + 3 ≤ m.budget.toNat) (near : m.hop + 1 ≤ 29)
    (slots : m.cells.toNat ≤ freeUsable s p + slotsReturned s m p)
    (taken : protocolAnswer s p (forwarded m) = .taken) : judgeSetup s q m = .inr (.transit p) := by
  have room : ¬ ((recordOf s m.id).isNone && (freeIndex s).isNone) = true := by
    rcases place with h | h <;> simp [Option.isNone_eq_false_iff.2 h]
  have passes : transitRefusal s q m p = none := by
    rw [transitRefusal, if_neg apart, if_neg (by omega), if_neg (Nat.not_lt.2 slots), if_neg (by rw [taken]; decide)]
  simp only [judgeSetup, way, passes]
  rw [if_neg (by simp [time]), if_neg (by simp [departing_of_inService service]), if_neg (by simp [straight]), if_neg room,
    if_neg (not_not.2 admitted)]

end Judged

/-- The SETUP taken at its terminal frame. -/
theorem takeSetup_here {s : State} {q : PortId} {m : SetupMsg} (formed : setupMalformed m = false)
    (judged : judgeSetup s q m = .inr .terminus) :
    takeSetup q m s = send q (.confirm m.id m.gen (m.hop + 1)) (placeRecord q m none s) := by
  rw [takeSetup, formed, judged]
  rfl

/-- The SETUP taken at a hop with a way on. -/
theorem takeSetup_route {s : State} {q p : PortId} {m : SetupMsg} (formed : setupMalformed m = false)
    (judged : judgeSetup s q m = .inr (.transit p)) :
    takeSetup q m s = placeRecord q m (some p) (joinProtocol p (forwarded m) s) := by
  rw [takeSetup, formed, judged]
  rfl

theorem exec_setup {s : State} (run : s.pins.reset = false) (q : PortId) (m : SetupMsg) :
    exec (.setup q m) s = .next (takeSetup q m (takeMessage q (.setup m) s)) := by
  have arm : exec (.setup q m) s = execSetup q m s := rfl
  rw [arm, execSetup, event_of_run _ _ run]

theorem routeTo_own {s : State} {m : SetupMsg} (formed : setupMalformed m = false) (own : m.terminal = s.req.config.frameId) :
    routeTo s m.terminal = .here := by
  have named : m.terminal ≠ 0 := by
    intro zero
    simp [setupMalformed, zero] at formed
  exact (if_neg named).trans (if_pos own)

theorem noticesSet.of_req {ks : List NoticeKind} {s t u : State} (h : noticesSet ks s t) (same : u.req = t.req) :
    noticesSet ks s u := by
  unfold noticesSet
  rw [same]
  exact h

/-! ### A stream new to the hop -/

section New

variable {s : State} {q : PortId} {m : SetupMsg} {i : Nat} (absent : recordOf s m.id = none) (free : freeIndex s = some i)

include absent free

theorem makes_setup_terminus (takes : takesOffers (s.port q).state = true) (room : (s.port q).protocolQueue.length < 20) :
    Makes i (some (hopRecord s i none q m none)) (offeredOn (some q) (.confirm m.id m.gen (m.hop + 1))) true
        [.streams, .req, .ports] s (send q (.confirm m.id m.gen (m.hop + 1)) (placeRecord q m none s)) ∧
      (send q (.confirm m.id m.gen (m.hop + 1)) (placeRecord q m none s)).streams = { s.streams with
        records := insertRecord (hopRecord s i none q m none) s.streams.records
        activations := s.streams.activations + 1 } ∧
      noticesSet [.stream] s (send q (.confirm m.id m.gen (m.hop + 1)) (placeRecord q m none s)) := by
  obtain ⟨place, streams, notices⟩ := placeIn_new (r := hopRecord s i none q m none) rfl (freeIndex_spec free).2
  have stand : slotsAdded (hopRecord s i none q m none).cells i none = portsStand := by
    funext p x
    exact slotsAdded_of_ne (by simp)
  have place : Makes i (some (hopRecord s i none q m none)) portsStand true [.streams, .req, .ports] s
      (placeIn (hopRecord s i none q m none) s) := by
    rw [← stand]
    exact place
  rw [placeRecord_new absent free]
  have port := place.port q
  have told := makes_send_of_room (m := .confirm m.id m.gen (m.hop + 1)) place.record (p := q) (by rw [port]; exact takes)
    (by rw [port]; exact room)
  exact ⟨(place.trans told).mono (by decide), (told.frame .streams (by decide)).trans streams,
    notices.of_req (told.frame .req (by decide))⟩

theorem makes_setup_transit (p : PortId) :
    Makes i (some (hopRecord s i none q m (some p)))
        (fun a x => slotsAdded m.cells.toNat i (some p) a (offeredOn (some p) (forwarded m) a x)) true [.ports, .streams, .req] s
        (placeRecord q m (some p) (joinProtocol p (forwarded m) s)) ∧
      (placeRecord q m (some p) (joinProtocol p (forwarded m) s)).streams = { s.streams with
        records := insertRecord (hopRecord s i none q m (some p)) s.streams.records } ∧
      noticesSet [.stream] s (placeRecord q m (some p) (joinProtocol p (forwarded m) s)) := by
  have none_ : recordAt s i = none := List.find?_eq_none.2 fun r mem => by simpa using (freeIndex_spec free).2 r mem
  have passed := makes_joinProtocol none_ p (forwarded m)
  have streams := passed.frame .streams (by decide)
  have req := passed.frame .req (by decide)
  have absent' : recordOf (joinProtocol p (forwarded m) s) m.id = none := by rw [recordOf, streams]; exact absent
  have free' : freeIndex (joinProtocol p (forwarded m) s) = some i := by rw [freeIndex, streams]; exact free
  rw [placeRecord_new absent' free', hopRecord_congr streams req]
  obtain ⟨place, placed, notices⟩ := placeIn_new (r := hopRecord s i none q m (some p)) (s := joinProtocol p (forwarded m) s) rfl
    (freeIndex_spec free').2
  refine ⟨(passed.trans place).mono (by decide), placed.trans ?_, ?_⟩
  · rw [streams]
    rfl
  · unfold noticesSet at notices ⊢
    rw [req] at notices
    exact notices

end New

/-! ### A newer generation -/

/-- The SETUP passed on where there is a way. -/
def passOn (egress : Option PortId) (m : SetupMsg) (s : State) : State :=
  match egress with
  | some p => joinProtocol p (forwarded m) s
  | none => s

/-- The CONFIRM of a terminus. -/
def confirmOn (egress : Option PortId) (q : PortId) (m : SetupMsg) (s : State) : State :=
  match egress with
  | some _ => s
  | none => send q (.confirm m.id m.gen (m.hop + 1)) s

/-- A SETUP that supersedes the record of its stream. -/
def supersede (r : StreamRecord) (egress : Option PortId) (q : PortId) (m : SetupMsg) (s : State) : State :=
  confirmOn egress q m (placeIn (hopRecord s r.index (some r) q m egress) (breakOld r (passOn egress m s)))

/-- A port once the record on it was superseded: the messages that go out, and the slots. -/
def supersededPort (r : StreamRecord) (egress : Option PortId) (m : SetupMsg) (a : PortId) (x : Port) : Port :=
  { x with
    slotMap :=
      if egress = some a then
        assignIn m.cells.toNat r.index (usableCount x.delay)
          (if r.egress = some a then x.slotMap.filter fun e => e.record != r.index else x.slotMap)
      else if r.egress = some a then x.slotMap.filter fun e => e.record != r.index else x.slotMap
    protocolQueue := x.protocolQueue ++ (if egress = some a then [forwarded m] else []) ++
      if r.egress = some a ∧ inService r = true then [breakOf r .pathLost .towardTerminus] else [] }

theorem supersededPort_eq {r : StreamRecord} {egress : Option PortId} {m : SetupMsg} {a : PortId} {x : Port}
    (room : egress = some a ∨ r.egress = some a → takesOffers x.state = true ∧ x.protocolQueue.length < 15) :
    slotsAdded m.cells.toNat r.index egress a (slotsCut 0 r.index r.egress a
      (offeredOn (if inService r then r.egress else none) (breakOf r .pathLost .towardTerminus) a
        (offeredOn egress (forwarded m) a x))) = supersededPort r egress m a x := by
  have passed : offeredOn egress (forwarded m) a x = joined (if egress = some a then [forwarded m] else []) x :=
    offeredOn_joined fun here => ⟨(room (.inl here)).1, Nat.lt_trans (room (.inl here)).2 (Nat.lt_succ_self 15)⟩
  have few : (if egress = some a then [forwarded m] else []).length ≤ 1 := by split <;> simp
  have told : offeredOn (if inService r then r.egress else none) (breakOf r .pathLost .towardTerminus) a
      (joined (if egress = some a then [forwarded m] else []) x) =
        joined (if (if inService r then r.egress else none) = some a then [breakOf r .pathLost .towardTerminus] else [])
          (joined (if egress = some a then [forwarded m] else []) x) := by
    refine offeredOn_joined fun here => ?_
    have own : r.egress = some a := by
      split at here
      · exact here
      · cases here
    refine ⟨(room (.inr own)).1, ?_⟩
    have short := (room (.inr own)).2
    have most : (x.protocolQueue ++ if egress = some a then [forwarded m] else []).length < 20 := by
      rw [List.length_append]
      omega
    exact most
  have side : ((if inService r then r.egress else none) = some a) ↔ (r.egress = some a ∧ inService r = true) := by
    cases inService r <;> simp
  rw [passed, told]
  simp only [side]
  unfold slotsAdded slotsCut supersededPort joined
  by_cases there : egress = some a <;> by_cases own : r.egress = some a <;> simp only [there, own, if_true, if_false,
    keepSlots_zero, List.append_assoc]

section Superseding

variable {s : State} {q : PortId} {m : SetupMsg} {r : StreamRecord} {egress : Option PortId}

theorem makes_passOn (found : recordAt s r.index = some r) :
    Makes r.index (some r) (offeredOn egress (forwarded m)) false [.ports] s (passOn egress m s) := by
  cases egress with
  | none => exact (makes_unsent found _).mono (by simp)
  | some p => exact makes_joinProtocol found p _

theorem makes_breakOld_passOn (found : recordAt s r.index = some r)
    (room : ∀ a, r.egress = some a → takesOffers (s.port a).state = true ∧ (s.port a).protocolQueue.length < 15) :
    Makes r.index (some r)
      (fun a x => slotsCut 0 r.index r.egress a
        (offeredOn (if inService r then r.egress else none) (breakOf r .pathLost .towardTerminus) a
          (offeredOn egress (forwarded m) a x))) false [.ports] s (breakOld r (passOn egress m s)) := by
  have passed := makes_passOn (egress := egress) (m := m) found
  have few (a : PortId) (x : Port) : (offeredOn egress (forwarded m) a x).protocolQueue.length ≤ x.protocolQueue.length + 1 := by
    unfold offeredOn offered
    split
    · split
      · simp
      · exact Nat.le_succ _
    · exact Nat.le_succ _
  refine (passed.trans (makes_breakOld passed.record fun p here => ?_)).mono (by decide)
  obtain ⟨takes, short⟩ := room p here
  have := few p (s.port p)
  rw [passed.port, (offeredOn_fields ..).2.2.1]
  exact ⟨takes, by omega⟩

/-- The whole of a supersession, but for which sinks the new record keeps. -/
theorem makes_supersede (found : recordAt s r.index = some r)
    (room : ∀ a, egress = some a ∨ r.egress = some a ∨ a = q →
      takesOffers (s.port a).state = true ∧ (s.port a).protocolQueue.length < 15) :
    ∃ js, Makes r.index (some { hopRecord s r.index (some r) q m egress with sinks := js })
        (fun a x => offeredOn (if egress = none then some q else none) (.confirm m.id m.gen (m.hop + 1)) a
          (slotsAdded m.cells.toNat r.index egress a (slotsCut 0 r.index r.egress a
            (offeredOn (if inService r then r.egress else none) (breakOf r .pathLost .towardTerminus) a
              (offeredOn egress (forwarded m) a x))))) true [.ports, .streams, .sinks, .req] s (supersede r egress q m s) ∧
      recordAt (carryAll (m.hop + 1) m.cells.toNat m.budget.toNat r.sinks
        (putRecord (hopRecord s r.index (some r) q m egress) (breakOld r (passOn egress m s)))) r.index =
          some { hopRecord s r.index (some r) q m egress with sinks := js } ∧
      (supersede r egress q m s).sinks = (carryAll (m.hop + 1) m.cells.toNat m.budget.toNat r.sinks
        (putRecord (hopRecord s r.index (some r) q m egress) (breakOld r (passOn egress m s)))).sinks ∧
      (supersede r egress q m s).streams.serial = s.streams.serial ∧
      (supersede r egress q m s).streams.activations =
        (if egress = none then s.streams.activations + 1 else s.streams.activations) ∧
      noticesOnly (carryAll (m.hop + 1) m.cells.toNat m.budget.toNat r.sinks
        (putRecord (hopRecord s r.index (some r) q m egress) (breakOld r (passOn egress m s)))) (supersede r egress q m s) := by
  have broken := makes_breakOld_passOn (egress := egress) (m := m) found fun p here => room p (.inr (.inl here))
  obtain ⟨js, place, kept, sinks, serial, order, notices⟩ :=
    makes_placeIn (hopRecord s r.index (some r) q m egress) (breakOld r (passOn egress m s))
  have placed := broken.trans place
  have told : Makes r.index (some { hopRecord s r.index (some r) q m egress with sinks := js })
      (offeredOn (if egress = none then some q else none) (.confirm m.id m.gen (m.hop + 1))) false [.ports]
      (placeIn (hopRecord s r.index (some r) q m egress) (breakOld r (passOn egress m s))) (supersede r egress q m s) := by
    cases egress with
    | some p => exact (makes_unsent place.record _).mono (by simp)
    | none =>
      have port := (placed.port q).trans (supersededPort_eq (x := s.port q) fun h => room q (.inr (.inr rfl)))
      obtain ⟨takes, short⟩ := room q (.inr (.inr rfl))
      refine makes_send_of_room place.record (p := q) ?_ ?_
      · rw [port]
        exact takes
      · have one : (if r.egress = some q ∧ inService r = true then [breakOf r .pathLost .towardTerminus] else []).length ≤ 1 := by
          split <;> simp
        have most : (supersededPort r none m q (s.port q)).protocolQueue.length < 20 := by
          simp only [supersededPort, List.length_append]
          simp only [reduceCtorEq, if_false, List.length_nil]
          omega
        rw [port]
        exact most
  refine ⟨js, (placed.trans told).mono (by decide), kept, (told.frame .sinks (by decide)).trans sinks, ?_, ?_,
    notices.trans told.notices⟩
  · rw [told.frame .streams (by decide), serial, broken.frame .streams (by decide)]
  · rw [told.frame .streams (by decide), order, broken.frame .streams (by decide)]
    rfl

end Superseding

section Outcomes

variable {s : State} {q : PortId} {m : SetupMsg} {r : StreamRecord} {egress : Option PortId}
  (found : recordAt s r.index = some r)
  (room : ∀ a, egress = some a ∨ r.egress = some a ∨ a = q →
    takesOffers (s.port a).state = true ∧ (s.port a).protocolQueue.length < 15)

include found room

theorem port_supersede (a : PortId) :
    (supersede r egress q m s).port a = { supersededPort r egress m a (s.port a) with
      protocolQueue := (supersededPort r egress m a (s.port a)).protocolQueue ++
        if egress = none ∧ a = q then [.confirm m.id m.gen (m.hop + 1)] else [] } := by
  obtain ⟨js, makes, -⟩ := makes_supersede (q := q) (m := m) found room
  have before := supersededPort_eq (m := m) (x := s.port a) fun h => room a (h.imp_right .inl)
  rw [makes.port, before, offeredOn_joined (p := a)]
  · have side : ((if egress = none then some q else none) = some a) ↔ (egress = none ∧ a = q) := by
      cases egress <;> simp [eq_comm]
    simp only [side]
    rfl
  · intro here
    have own : egress = none ∧ a = q := by
      cases egress with
      | none => exact ⟨rfl, (Option.some.inj here).symm⟩
      | some p => cases here
    obtain ⟨absent, rfl⟩ := own
    obtain ⟨takes, short⟩ := room a (.inr (.inr rfl))
    have one : (if r.egress = some a ∧ inService r = true then [breakOf r .pathLost .towardTerminus] else []).length ≤ 1 := by
      split <;> simp
    have most : (supersededPort r egress m a (s.port a)).protocolQueue.length < 20 := by
      simp only [supersededPort, List.length_append, absent, reduceCtorEq, if_false, List.length_nil]
      omega
    exact ⟨takes, most⟩

theorem sinks_before :
    (putRecord (hopRecord s r.index (some r) q m egress) (breakOld r (passOn egress m s))).sinks = s.sinks :=
  (makes_breakOld_passOn found fun a here => room a (.inr (.inl here))).frame .sinks (by decide)

/-- Where the pool has room for all of them the sinks are carried over. -/
theorem supersede_fits (inv : SinksInv s.sinks)
    (pool : reservedCells s + r.sinks.length * (m.cells.toNat * (m.budget.toNat - m.hop)) ≤ 4096) :
    recordAt (supersede r egress q m s) r.index = some (hopRecord s r.index (some r) q m egress) ∧
      (supersede r egress q m s).sinks = s.sinks.map fun x =>
        if x.index ∈ r.sinks then carried (m.cells.toNat * (m.budget.toNat - m.hop)) (m.hop + 1) x else x := by
  obtain ⟨js, makes, kept, sinks, -⟩ := makes_supersede (q := q) (m := m) found room
  have before := sinks_before (q := q) (m := m) found room
  have same : reservationFor m.cells.toNat m.budget.toNat (m.hop + 1) = m.cells.toNat * (m.budget.toNat - m.hop) := by
    rw [reservationFor, Nat.add_sub_add_right]
  obtain ⟨streams, fits⟩ := carryAll_fits (hop := m.hop + 1) (cells := m.cells.toNat) (budget := m.budget.toNat) (ks := r.sinks)
    (s := putRecord (hopRecord s r.index (some r) q m egress) (breakOld r (passOn egress m s)))
    (by rw [before]; exact inv.order.nodup) (by rw [reservedCells, before, same]; exact pool)
  have put := (recordAt_of_streams streams r.index).trans (makes_putRecord (hopRecord s r.index (some r) q m egress) _).record
  exact ⟨makes.record.trans (kept.symm.trans put), by rw [sinks, fits, before, same]⟩

/-- A lone sink for which the pool has no room is gone, with a SINK notice. -/
theorem supersede_full {k : Nat} {x : Sink} (lone : r.sinks = [k]) (at_ : sinkAt s k = some x)
    (larger : x.reservation < m.cells.toNat * (m.budget.toNat - m.hop))
    (full : 4096 < reservedCells s - x.reservation + m.cells.toNat * (m.budget.toNat - m.hop)) :
    recordAt (supersede r egress q m s) r.index = some { hopRecord s r.index (some r) q m egress with sinks := [] } ∧
      (supersede r egress q m s).sinks = s.sinks.filter (fun y => y.index != k) ∧
      (supersede r egress q m s).req.pending.get .sink = true := by
  obtain ⟨js, makes, kept, sinks, -, -, notices⟩ := makes_supersede (q := q) (m := m) found room
  have before := sinks_before (q := q) (m := m) found room
  have same : reservationFor m.cells.toNat m.budget.toNat (m.hop + 1) = m.cells.toNat * (m.budget.toNat - m.hop) := by
    rw [reservationFor, Nat.add_sub_add_right]
  have gone := carryAll_full (hop := m.hop + 1) (cells := m.cells.toNat) (budget := m.budget.toNat) (k := k) (x := x)
    (s := putRecord (hopRecord s r.index (some r) q m egress) (breakOld r (passOn egress m s)))
    (by rw [sinkAt, before]; exact at_) (by rw [same]; exact larger) (by rw [reservedCells, before, same]; exact full)
  have put := (recordAt_detachAll [k] _ r.index).trans
    (congrArg (Option.map (withoutSinks [k])) (makes_putRecord (hopRecord s r.index (some r) q m egress) (breakOld r (passOn egress m s))).record)
  rw [lone, gone] at kept sinks notices
  refine ⟨makes.record.trans (kept.symm.trans (put.trans (congrArg some (withoutSinks_own lone)))), ?_, ?_⟩
  · rw [sinks, (detachAll_tables ..).1, before]
    exact List.filter_congr fun y _ => by rw [List.contains_cons, List.contains_nil, Bool.or_false]; rfl
  · exact notices.2 _ (by rw [detachAll, List.foldl_cons, List.foldl_nil, detachSink, raise_flag]; simp)

end Outcomes

/-- The slots that the record gives back count for the one that supersedes it. -/
theorem slots_returned {s : State} {m : SetupMsg} {r : StreamRecord} {p : PortId} {n : Nat} (found : recordOf s m.id = some r)
    (fits : n + (if r.egress = some p then (s.port p).slotMap.filter fun e => e.record != r.index
      else (s.port p).slotMap).length ≤ usableCount (s.port p).delay) : n ≤ freeUsable s p + slotsReturned s m p := by
  rw [slotsReturned, found, freeUsable]
  dsimp only
  by_cases here : r.egress = some p
  · have held : slotsHeld s r = (slotsNaming r.index (s.port p).slotMap).length := by simp [slotsHeld, slotList, here]
    have count := length_filter_others r.index (s.port p).slotMap
    rw [if_pos here] at fits
    rw [if_pos here, held]
    omega
  · rw [if_neg here] at fits ⊢
    omega

/-- What a SETUP of a newer generation comes to, whichever the way on. -/
theorem supersede_summary {s : State} {q : PortId} {m : SetupMsg} {r : StreamRecord} {egress : Option PortId}
    (found : recordAt s r.index = some r)
    (room : ∀ a, egress = some a ∨ r.egress = some a ∨ a = q →
      takesOffers (s.port a).state = true ∧ (s.port a).protocolQueue.length < 15) :
    otherRecordsKept r.index s (supersede r egress q m (takeMessage q (.setup m) s)) ∧
      (supersede r egress q m (takeMessage q (.setup m) s)).streams.serial = s.streams.serial ∧
      (supersede r egress q m (takeMessage q (.setup m) s)).streams.activations =
        (if egress = none then s.streams.activations + 1 else s.streams.activations) ∧
      (supersede r egress q m (takeMessage q (.setup m) s)).inbox = s.inbox.erase ⟨q, .setup m⟩ ∧
      (supersede r egress q m (takeMessage q (.setup m) s)).req.pending.get .stream = true ∧
      noticesOnly s (supersede r egress q m (takeMessage q (.setup m) s)) ∧
      changesOnly [.inbox, .ports, .streams, .sinks, .req] s (supersede r egress q m (takeMessage q (.setup m) s)) := by
  obtain ⟨js, makes, -, -, serial, order, -⟩ := makes_supersede (s := takeMessage q (.setup m) s) (q := q) (m := m) found room
  obtain ⟨inbox, frame⟩ := makes.inbox (by decide)
  exact ⟨makes.others, serial, order, inbox, makes.flag rfl, makes.notices, frame⟩

/-- Settles O44: a new record at the free index, or a record superseded in its place, with its messages, slots and sinks. -/
theorem setupTaken : Obligations.SetupTaken := by
  refine ⟨fun s q m i run formed absent free time service foreign admitted => ?_,
    fun s q m r run formed inv sinks found least most time service foreign admitted room => ?_⟩
  · have straight := setupLoops_new foreign absent
    have place : (recordOf s m.id).isSome = true ∨ (freeIndex s).isSome = true := .inr (by rw [free]; rfl)
    have takes := takesOffers_of_admitted admitted
    refine ⟨fun own early near short => ?_, fun p d way apart early near fits short => ?_⟩
    · have judged := judgeSetup_here (s := takeMessage q (.setup m) s) (q := q) time service straight place admitted
        (routeTo_own (s := takeMessage q (.setup m) s) formed own) early near
      obtain ⟨makes, streams, notices⟩ := makes_setup_terminus (s := takeMessage q (.setup m) s) (q := q) absent free takes short
      obtain ⟨inbox, frame⟩ := makes.inbox (by decide)
      refine ⟨_, ?_, streams, rfl, rfl, ?_, makes.otherPorts fun o ne x => offeredOn_of_ne (ne_some_of_ne ne), inbox, notices,
        frame.mono (by decide)⟩
      · rw [exec_setup run, takeSetup_here formed judged]
      · exact (makes.port_taken q).trans (offeredOn_of_room (m := .confirm m.id m.gen (m.hop + 1)) takes short)
    · have taken : protocolAnswer (takeMessage q (.setup m) s) p (forwarded m) = .taken :=
        protocolAnswer_taken_iff.2 ⟨takesOffers_of_admitted (routeTo_admitted way), short⟩
      have slots : m.cells.toNat ≤ freeUsable s p + slotsReturned s m p :=
        Nat.le_add_right_of_le (Nat.le_sub_of_add_le fits)
      have judged := judgeSetup_route (s := takeMessage q (.setup m) s) (q := q) time service straight place admitted way apart
        early near slots taken
      obtain ⟨makes, streams, notices⟩ := makes_setup_transit (s := takeMessage q (.setup m) s) (q := q) absent free p
      obtain ⟨inbox, frame⟩ := makes.inbox (by decide)
      refine ⟨_, ?_, streams, rfl, rfl, ?_, makes.otherPorts fun o ne x => ?_, inbox, notices, frame.mono (by decide)⟩
      · rw [exec_setup run, takeSetup_route formed judged]
      · exact (makes.port_taken p).trans ((congrArg _ (offeredOn_of_room (m := forwarded m)
          (takesOffers_of_admitted (routeTo_admitted way)) short)).trans slotsAdded_self)
      · rw [offeredOn_of_ne (ne_some_of_ne ne), slotsAdded_of_ne (ne_some_of_ne ne)]
  · have straight := setupLoops_newer foreign found least most
    have place : (recordOf s m.id).isSome = true ∨ (freeIndex s).isSome = true := .inl (by rw [found]; rfl)
    have at_ := recordAt_of_recordOf inv found
    refine ⟨fun own early near => ?_, fun p d way apart early near fits short => ?_, fun egress => ?_⟩
    · have room' : ∀ a, (none : Option PortId) = some a ∨ r.egress = some a ∨ a = q →
          takesOffers (s.port a).state = true ∧ (s.port a).protocolQueue.length < 15 := fun a h => room a (h.resolve_left (by simp))
      have judged := judgeSetup_here (s := takeMessage q (.setup m) s) (q := q) time service straight place admitted
        (routeTo_own (s := takeMessage q (.setup m) s) formed own) early near
      refine ⟨supersede r none q m (takeMessage q (.setup m) s), ?_,
        port_supersede (s := takeMessage q (.setup m) s) at_ room',
        supersede_fits (s := takeMessage q (.setup m) s) at_ room' sinks,
        fun k x => supersede_full (s := takeMessage q (.setup m) s) at_ room', supersede_summary at_ room'⟩
      rw [exec_setup run, takeSetup_here formed judged, placeRecord_old (s := takeMessage q (.setup m) s) found]
      rfl
    · have takes := takesOffers_of_admitted (routeTo_admitted way)
      have room' : ∀ a, some p = some a ∨ r.egress = some a ∨ a = q →
          takesOffers (s.port a).state = true ∧ (s.port a).protocolQueue.length < 15 := by
        rintro a (here | other)
        · cases here
          exact ⟨takes, short⟩
        · exact room a other
      have taken : protocolAnswer (takeMessage q (.setup m) s) p (forwarded m) = .taken :=
        protocolAnswer_taken_iff.2 ⟨takes, Nat.lt_trans short (Nat.lt_succ_self 15)⟩
      have judged := judgeSetup_route (s := takeMessage q (.setup m) s) (q := q) time service straight place admitted way apart
        early near (slots_returned found fits) taken
      have passed := makes_joinProtocol (s := takeMessage q (.setup m) s) at_ p (forwarded m)
      have found' : recordOf (joinProtocol p (forwarded m) (takeMessage q (.setup m) s)) m.id = some r := by
        rw [recordOf, passed.frame .streams (by decide)]
        exact found
      refine ⟨supersede r (some p) q m (takeMessage q (.setup m) s), ?_,
        port_supersede (s := takeMessage q (.setup m) s) at_ room',
        supersede_fits (s := takeMessage q (.setup m) s) at_ room' sinks,
        fun k x => supersede_full (s := takeMessage q (.setup m) s) at_ room', supersede_summary at_ room'⟩
      rw [exec_setup run, takeSetup_route formed judged, placeRecord_old found',
        hopRecord_congr (passed.frame .streams (by decide)) (passed.frame .req (by decide))]
      rfl
    · refine ⟨rfl, rfl, rfl, rfl, rfl, rfl, rfl, ?_⟩
      cases egress <;> rfl

end Sys2Proof.Machine
end

section
/-! SUPPORT. What falls due with the epochs: the switch of a record, the settling of a sink, and the release of held cells (R131, R150,
R153, R154). -/

namespace Sys2Proof.Machine

open Sys2Proof

/-! ### The switch of a record (R131) -/

/-- The bound of a record's queue once its switch has released slots. -/
def boundAt (s : State) (r : StreamRecord) (cells : Nat) : Nat :=
  match r.role with
  | .origin => 2 * cells
  | .transit => 2 * min cells (slotsHeld s r)
  | .terminus | .loopback => 0

/-- The cells that a queue keeps at a switch. -/
def keptAt (s : State) (r : StreamRecord) (d : Staged) : List QueuedCell :=
  if d.cells < r.cells then r.queue.take (boundAt s r d.cells) else r.queue

/-- The slots released at a switch to a smaller C. -/
def cutAt (r : StreamRecord) (d : Staged) (s : State) : State :=
  if d.cells < r.cells then releaseSlots r.index d.cells s else s

/-- The fields of a record that switches, with `lost` cells fewer in its queue. -/
def switched (d : Staged) (lost : Nat) (r : StreamRecord) : StreamRecord :=
  { r with
    state := .active, cells := d.cells, rate := d.rate, staged := none, switchEpoch := none, retuneTimer := none
    queue := dropNewest lost r.queue
    source := if r.role = .origin then countOverruns lost r.source else r.source }

/-- The captures of the cells that a transit queue lost. -/
def trimAt (r : StreamRecord) (cs : List QueuedCell) (s : State) : State :=
  match r.role, r.egress with
  | .transit, some p => captureTrim p cs s
  | _, _ => s

section Switching

variable {s : State} {r : StreamRecord} {d : Staged} (found : recordAt s r.index = some r)

include found

theorem slotsHeld_releaseSlots (k : Nat) : slotsHeld (releaseSlots r.index k s) r = min k (slotsHeld s r) := by
  rcases Option.eq_none_or_eq_some r.egress with absent | ⟨p, here⟩
  · simp [slotsHeld, slotList, absent]
  · simp only [slotsHeld, slotList, here]
    rw [port_releaseSlots found k p, here, slotsCut_self, slotsNaming_keepSlots, List.length_take]

theorem queueBound_cutAt (smaller : d.cells < r.cells) : queueBound (cutAt r d s) r d.cells = boundAt s r d.cells := by
  rw [cutAt, if_pos smaller]
  cases role : r.role <;> simp only [queueBound, boundAt, role]
  rw [slotsHeld_releaseSlots found]

theorem makes_cutAt :
    ∃ b, Makes r.index (some { r with changed := b })
      (fun p x => if d.cells < r.cells then slotsCut d.cells r.index r.egress p x else x) false [.ports, .streams, .req] s
      (cutAt r d s) := by
  unfold cutAt
  by_cases smaller : d.cells < r.cells
  · simp only [if_pos smaller]
    exact ⟨_, makes_releaseSlots found d.cells⟩
  · simp only [if_neg smaller]
    exact ⟨r.changed, (Makes.refl found).mono (by simp)⟩

theorem switchRecord_eq (staged : r.staged = some d) :
    switchRecord r.index s =
      trimAt r (r.queue.drop (keptAt s r d).length)
        (changeRecord r.index (switched d (r.queue.length - (keptAt s r d).length)) (cutAt r d s)) := by
  have lost : (if d.cells < r.cells then r.queue.length - queueBound (cutAt r d s) r d.cells else 0) =
      r.queue.length - (keptAt s r d).length := by
    unfold keptAt
    by_cases smaller : d.cells < r.cells
    · rw [if_pos smaller, if_pos smaller, queueBound_cutAt found smaller, List.length_take]
      omega
    · rw [if_neg smaller, if_neg smaller, Nat.sub_self]
  have short : (keptAt s r d).length ≤ r.queue.length := by
    unfold keptAt
    split
    · rw [List.length_take]
      exact Nat.min_le_right ..
    · exact Nat.le_refl _
  have whole : switchRecord r.index s =
      trimAt r (r.queue.drop (r.queue.length -
          (if d.cells < r.cells then r.queue.length - queueBound (cutAt r d s) r d.cells else 0)))
        (changeRecord r.index (switched d (if d.cells < r.cells then r.queue.length - queueBound (cutAt r d s) r d.cells else 0))
          (cutAt r d s)) := by
    simp only [switchRecord, found, staged]
    rfl
  rw [whole, lost, Nat.sub_sub_self short]

end Switching

theorem dropNewest_kept (s : State) (r : StreamRecord) (d : Staged) :
    dropNewest (r.queue.length - (keptAt s r d).length) r.queue = keptAt s r d := by
  unfold keptAt dropNewest
  split
  · rw [List.length_take, Nat.sub_sub_self (Nat.min_le_right ..), ← List.take_eq_take_min]
  · simp

theorem countOverruns_eq (n : Nat) (x : Option Source) :
    countOverruns n x = x.map fun o => { o with overrunCount := min 65535 (o.overrunCount + n) } := by
  simp only [countOverruns, saturate, Figures.saturation, Nat.min_comm]

theorem captureTrim_rule (p : PortId) (cs : List QueuedCell) (s : State) :
    changesOnly [.captures, .req] s (captureTrim p cs s) ∧
      (∀ q, (captureTrim p cs s).captures.port.get q =
        if q = p then cs.foldl (fun x c => takeInto x
          ⟨.transitOverflow, s.clock.epoch, none, some c.id, .overflow c.sequence true⟩) (s.captures.port.get q)
        else s.captures.port.get q) ∧
      (captureTrim p cs s).captures.lane = s.captures.lane ∧ (captureTrim p cs s).captures.protocol = s.captures.protocol := by
  refine ⟨changesOnly.foldl _ (fun s c => raiseIf_capture_frame _ s _) cs s, ?_⟩
  induction cs generalizing s with
  | nil => exact ⟨fun q => by rw [List.foldl_nil, ite_self]; rfl, rfl, rfl⟩
  | cons c cs ih =>
    have first : (capturePort p .transitOverflow none (some c.id) (.overflow c.sequence true) s).captures =
        { s.captures with port := s.captures.port.set p (takeInto (s.captures.port.get p)
          ⟨.transitOverflow, s.clock.epoch, none, some c.id, .overflow c.sequence true⟩) } := raiseIf_capture_captures _ s _
    have clock : (capturePort p .transitOverflow none (some c.id) (.overflow c.sequence true) s).clock = s.clock :=
      raiseIf_capture_frame _ s _ .clock (by simp)
    obtain ⟨ports, lane, protocol⟩ := ih (capturePort p .transitOverflow none (some c.id) (.overflow c.sequence true) s)
    rw [captureTrim, List.foldl_cons, ← captureTrim]
    refine ⟨fun q => ?_, lane.trans (by rw [first]), protocol.trans (by rw [first])⟩
    rw [ports, first, clock, List.foldl_cons]
    by_cases here : q = p
    · subst here
      rw [if_pos rfl, if_pos rfl, PerPort.get_set_self]
    · rw [if_neg here, if_neg here, PerPort.get_set_of_ne _ here]

theorem trimAt_rule (r : StreamRecord) (cs : List QueuedCell) (s : State) :
    StreamEffects s (trimAt r cs s) ∧ changesOnly [.captures, .req] s (trimAt r cs s) ∧
      (r.role ≠ .transit → trimAt r cs s = s) ∧
      (∀ q, (trimAt r cs s).captures.port.get q =
        if r.role = .transit ∧ r.egress = some q then cs.foldl (fun x c => takeInto x
          ⟨.transitOverflow, s.clock.epoch, none, some c.id, .overflow c.sequence true⟩) (s.captures.port.get q)
        else s.captures.port.get q) ∧
      (trimAt r cs s).captures.lane = s.captures.lane ∧ (trimAt r cs s).captures.protocol = s.captures.protocol := by
  have still (h : ∀ q, ¬ (r.role = .transit ∧ r.egress = some q)) (whole : trimAt r cs s = s) : StreamEffects s (trimAt r cs s) ∧
      changesOnly [.captures, .req] s (trimAt r cs s) ∧ (r.role ≠ .transit → trimAt r cs s = s) ∧
      (∀ q, (trimAt r cs s).captures.port.get q =
        if r.role = .transit ∧ r.egress = some q then cs.foldl (fun x c => takeInto x
          ⟨.transitOverflow, s.clock.epoch, none, some c.id, .overflow c.sequence true⟩) (s.captures.port.get q)
        else s.captures.port.get q) ∧
      (trimAt r cs s).captures.lane = s.captures.lane ∧ (trimAt r cs s).captures.protocol = s.captures.protocol := by
    rw [whole]
    exact ⟨.refl s, .refl _ s, fun _ => rfl, fun q => by rw [if_neg (h q)], rfl, rfl⟩
  rcases Option.eq_none_or_eq_some r.egress with absent | ⟨p, here⟩
  · refine still (fun q h => by simp [absent] at h) ?_
    cases role : r.role <;> simp [trimAt, role, absent]
  · cases role : r.role with
    | transit =>
      have whole : trimAt r cs s = captureTrim p cs s := by simp [trimAt, role, here]
      obtain ⟨frame, ports, lane, protocol⟩ := captureTrim_rule p cs s
      rw [whole]
      refine ⟨captureTrim_effects p cs s, frame, fun other => absurd rfl other, fun q => ?_, lane, protocol⟩
      rw [ports]
      simp only [here, Option.some.injEq, true_and, eq_comm]
    | origin | terminus | loopback =>
      rw [← role]
      exact still (fun q h => by simp [role] at h) (by simp [trimAt, role])

/-- Slots released raise at most the STREAM notice. -/
theorem releaseSlots_req (i k : Nat) (s : State) :
    (releaseSlots i k s).req = s.req ∨ (releaseSlots i k s).req = (raise .stream s).req := by
  unfold releaseSlots
  split
  · dsimp only
    split
    · exact .inr rfl
    · exact .inl rfl
  · exact .inl rfl

theorem cutAt_req (r : StreamRecord) (d : Staged) (s : State) :
    (raise .stream (cutAt r d s)).req = (raise .stream s).req := by
  have given : (cutAt r d s).req = s.req ∨ (cutAt r d s).req = (raise .stream s).req := by
    unfold cutAt
    split
    · exact releaseSlots_req ..
    · exact .inl rfl
  rcases given with same | raised
  · simp only [raise, same]
  · have twice : (raise .stream (raise .stream s)).req = (raise .stream s).req := by rw [raise_raise]
    rw [← twice]
    simp only [raise, raised]

theorem exec_retuneSwitch {s : State} {r : StreamRecord} {e : Epoch} (run : s.pins.reset = false)
    (found : recordAt s r.index = some r) (state : r.state = .retuning) (switch : r.switchEpoch = some e)
    (begun : ahead (e + BitVec.ofNat 48 (r.hop + 1)) s.clock.epoch = false) :
    exec (.retuneSwitch r.index) s = .next (switchRecord r.index s) := by
  have arm : exec (.retuneSwitch r.index) s = execRetuneSwitch r.index s := rfl
  rw [arm, execRetuneSwitch, event_of_run _ _ run, whenDue_of found]
  simp [switchDue, state, switch, begun]

/-! ### Sinks -/

theorem sinkAt_changed {s : State} {k : Nat} {x : Sink} {f : Sink → Sink} (keeps : ∀ x, (f x).index = x.index)
    (found : sinkAt s k = some x) :
    sinkAt (changeSink k f s) k = some (f x) ∧ ∀ j, j ≠ k → sinkAt (changeSink k f s) j = sinkAt s j := by
  refine ⟨by rw [sinkAt_changeSink k k keeps, found]; simp, fun j ne => ?_⟩
  rw [sinkAt_changeSink k j keeps, if_neg ne]
  cases sinkAt s j <;> rfl

theorem exec_sinkSettle {s : State} {k : Nat} {x : Sink} {r : StreamRecord} {e : Epoch} (run : s.pins.reset = false)
    (found : sinkAt s k = some x) (holder : recordAt s x.record = some r) (settle : x.settle = some e)
    (begun : ahead e s.clock.epoch = false) :
    exec (.sinkSettle k) s = .next (changeSink k (settleSink r) s) := by
  have arm : exec (.sinkSettle k) s = execSinkSettle k s := rfl
  rw [arm, execSinkSettle, event_of_run _ _ run, found]
  simp [holder, settleDue, settle, begun]

theorem exec_cellRelease {s : State} {k : Nat} {x : Sink} (run : s.pins.reset = false) (found : sinkAt s k = some x) :
    exec (.cellRelease k) s = .next (changeSink k (releaseDue (epochLow s) (budgetOf s x)) s) := by
  have arm : exec (.cellRelease k) s = execCellRelease k s := rfl
  rw [arm, execCellRelease, event_of_run _ _ run, found]

/-- Cells behind the last of their block are released one after another. -/
theorem releaseAll_within {b : Seq} (late : SinkCell → Bool) {cs : List SinkCell} {x : Sink} (state : x.state = .running)
    (start : x.blockStart = some b) (within : ∀ c ∈ cs, ahead (lastSequence b x) c.sequence = true) :
    ∃ y, cs.foldl (fun x c => releaseCell (late c) c x) x = y ∧ y.held = x.held ∧
      y.released = x.released ++ cs.map (fun c => { c with late := late c }) ∧ y.blockStart = some b ∧ y.done = x.done ∧
      y.state = .running := by
  induction cs generalizing x with
  | nil => exact ⟨x, rfl, rfl, by simp, start, rfl, state⟩
  | cons c cs ih =>
    obtain ⟨here, rest⟩ := List.forall_mem_cons.1 within
    have first : releaseCell (late c) c x = intoReleased (late c) c x := by
      rw [releaseCell, if_neg (by rw [state]; decide), start]
      exact if_pos here
    obtain ⟨y, whole, held, released, blockStart, done, running⟩ :=
      ih (x := intoReleased (late c) c x) state start rest
    refine ⟨y, by rw [List.foldl_cons, first, whole], held, released.trans ?_, blockStart, done, running⟩
    simp only [intoReleased, List.append_assoc, List.map_cons, List.singleton_append]

/-- A cell that completes a block of a CONTINUOUS sink. -/
theorem releaseCell_completes {b : Seq} {c : SinkCell} {x : Sink} (state : x.state = .running) (mode : x.mode = .continuous)
    (start : x.blockStart = some b) (last : c.sequence = lastSequence b x) :
    releaseCell false c x = { x with
      released := x.released ++ [{ c with late := false }], done := true
      blockStart := some (b + BitVec.ofNat 16 x.blockSize) } := by
  have same : ahead (lastSequence b x) c.sequence = false := by simp [last, ahead]
  have on : haltsOn x = false := by rw [haltsOn, mode]
  rw [releaseCell, if_neg (by rw [state]; decide), start]
  simp only [same, on, nextBlock, if_pos last, Bool.false_eq_true, if_false]
  rfl

/-- A DONE that turns from clear to set calls for a SINK notice (R158). -/
theorem sinkFlag_of_done {s : State} {k : Nat} {x : Sink} {f : Sink → Sink} (found : sinkAt s k = some x)
    (clear : x.done = false) (set_ : (f x).done = true) : (changeSink k f s).req.pending.get .sink = true := by
  have index : (x.index == k) = true := List.find?_some (p := fun y : Sink => y.index == k) found
  have due : (s.sinks.any fun x => x.index == k && sinkNotice x (f x)) = true := by
    refine List.any_eq_true.2 ⟨x, List.mem_of_find?_eq_some found, ?_⟩
    rw [index, sinkNotice, clear, set_]
    rfl
  rw [changeSink, due, raiseIf_flag]
  simp

/-- Settles O57: the switch by its parts, the sinks by their one change. -/
theorem epochsOfRecords : Obligations.EpochsOfRecords := by
  intro s run
  refine ⟨fun r d e inv found state staged switch begun => ?_, fun k x r e found holder settle begun fits => ?_,
    fun k x r b found holder state start within => ?_, fun k x b c found state mode start held last now_ => ?_⟩
  · intro bound kept
    have same : keptAt s r d = kept := by cases role : r.role <;> simp only [keptAt, boundAt, kept, bound, role]
    obtain ⟨b, cut⟩ := makes_cutAt (d := d) found
    have changed := cut.trans (makes_changeRecord cut.record
      (f := switched d (r.queue.length - (keptAt s r d).length)) fun _ => rfl)
    obtain ⟨effects, frame, quiet, captures, lane, protocol⟩ := trimAt_rule r (r.queue.drop (keptAt s r d).length)
      (changeRecord r.index (switched d (r.queue.length - (keptAt s r d).length)) (cutAt r d s))
    have makes := changed.trans (Makes.of_quiet changed.record (frame .streams (by decide)) (frame .ports (by decide)) effects frame)
    have clock := changed.frame .clock (by decide)
    have before := changed.frame .captures (by decide)
    rw [← same]
    refine ⟨_, ?_, ?_, fun p => ?_, fun p => ?_, ?_, ?_, fun hop => ?_, makes.flag rfl, makes.notices, makes.others,
      makes.frame.mono (by decide)⟩
    · rw [exec_retuneSwitch run found state switch begun, switchRecord_eq found staged]
    · rw [makes.record]
      simp only [switched, dropNewest_kept, countOverruns_eq]
    · rw [makes.port]
      by_cases smaller : d.cells < r.cells
      · by_cases way : r.egress = some p
        · simp only [smaller, way, slotsCut_self, and_self, if_true]
          rfl
        · simp only [smaller, way, slotsCut_of_ne way, false_and, if_false, if_true]
          rfl
      · simp only [smaller, and_false, if_false]
        rfl
    · rw [captures, clock, before]
    · rw [lane, before]
    · rw [protocol, before]
    · rw [quiet hop]
      refine noticesSet.of_req (t := raise .stream s) (noticesSet_raiseIf true .stream (u := s) rfl) ?_
      exact cutAt_req r d s
  · have settled : settleSink r x = { x with settle := none, reservation := r.cells * (r.budget + 1 - x.hop) } := by
      rw [settleSink, withReservation]
      exact if_neg (Nat.not_lt.2 fits)
    obtain ⟨own, others⟩ := sinkAt_changed (f := settleSink r) (fun y => withReservation_index ..) found
    rw [settled] at own
    exact ⟨_, exec_sinkSettle run found holder settle begun, own, others, (changeSink_effects ..).notices, changeSink_frame _ _ _⟩
  · intro low
    have budget : budgetOf s x = r.budget := by simp [budgetOf, holder]
    obtain ⟨own, others⟩ := sinkAt_changed (f := releaseDue (epochLow s) (budgetOf s x)) (fun y => (releaseDue_room ..).1) found
    obtain ⟨y, whole, held, released, blockStart, done, running⟩ := releaseAll_within
      (fun c => decide (32 < releaseIn low r.budget c)) (cs := x.held.filter fun c => !staysHeld low r.budget c)
      (x := { x with held := x.held.filter (staysHeld low r.budget) }) state start
      fun c mem => within c (List.mem_filter.1 mem).1
    refine ⟨_, y, exec_cellRelease run found, ?_, held, released, blockStart, done, running, others,
      (changeSink_effects ..).notices, changeSink_frame _ _ _⟩
    rw [own, budget, ← whole]
    rfl
  · obtain ⟨own, -⟩ := sinkAt_changed (f := releaseDue (epochLow s) (budgetOf s x)) (fun y => (releaseDue_room ..).1) found
    have now' : releaseIn (epochLow s) (budgetOf s x) c = 0 := now_
    have due : staysHeld (epochLow s) (budgetOf s x) c = false := by simp [staysHeld, now']
    have whole : releaseDue (epochLow s) (budgetOf s x) x = { x with
        held := [], released := x.released ++ [{ c with late := false }], done := true
        blockStart := some (b + BitVec.ofNat 16 x.blockSize) } := by
      have released := releaseCell_completes (c := c) (x := { x with held := [] }) state mode start last
      have leaves : x.held.filter (fun c => !staysHeld (epochLow s) (budgetOf s x) c) = [c] := by rw [held]; simp [due]
      have stays : x.held.filter (staysHeld (epochLow s) (budgetOf s x)) = [] := by rw [held]; simp [due]
      have onTime : decide (32 < releaseIn (epochLow s) (budgetOf s x) c) = false := by rw [now']; rfl
      simp only [releaseDue, leaves, stays, List.foldl_cons, List.foldl_nil, onTime]
      exact released
    refine ⟨_, exec_cellRelease run found, own.trans (congrArg some whole), fun clear => ?_, (changeSink_effects ..).notices,
      changeSink_frame _ _ _⟩
    exact sinkFlag_of_done found clear (by rw [whole])

end Sys2Proof.Machine
end

section
/-! SUPPORT. The gap (R57, R72) and the slots that a port begins (R1, R2, R12, R17, R141). -/

namespace Sys2Proof.Machine

open Sys2Proof

/-! ### The gap -/

/-- What is left of 7936 ticks passes, the gap is fixed from what is pending, and every port ends its slots. -/
def gapBegun (u : State) : State :=
  { u with
    clock := { u.clock with gap := some (planGap u.time.pending) }
    time := { u.time with pending := none }
    ports := u.ports.map fun x => { x with nextSlot := 62, wire := quietWire x.state } }

theorem beginGap_of_none {s : State} (absent : s.clock.gap = none) :
    beginGap s = gapBegun (passTicks (7936 - s.clock.tick) s) := by
  simp only [beginGap, absent]
  rfl

theorem stepPeriods_least (start : Int) :
    7936 ≤ start + 8192 * stepPeriods start ∧ start + 8192 * (stepPeriods start - 1) < 7936 := by
  unfold stepPeriods
  omega

theorem exec_gapStart {s : State} (run : s.pins.reset = false) : exec .gapStart s = .next (beginGap s) := by
  have arm : exec .gapStart s = execGapStart s := rfl
  rw [arm, execGapStart, event_of_run _ _ run]

/-- Settles O37: the ticks up to 7936 pass, and the gap is planned from what is pending. -/
theorem gapBegins : Obligations.GapBegins := by
  intro s run absent early
  have passes := passTicks_passes (7936 - s.clock.tick) s
  have time := passes.pieces .time (by decide)
  have ports := passes.pieces .ports (by decide)
  refine ⟨_, _, planGap s.time.pending, exec_gapStart run, passes, ?_, fun idle => ?_, fun c pending low high => ?_,
    fun start n pending => ?_⟩
  · have tick : s.clock.tick + (7936 - s.clock.tick) = 7936 := by omega
    rw [beginGap_of_none absent, gapBegun, passes.clock, time, ports, tick]
  · rw [idle]
    rfl
  · rw [pending]
    refine ⟨?_, rfl⟩
    simp only [planGap, Figures.nominalGap]
    omega
  · obtain ⟨least, below⟩ := stepPeriods_least start
    rw [pending]
    refine ⟨stepPeriods start, least, below, ?_, ?_, rfl⟩ <;> simp only [planGap] <;> omega

/-! ### Slots -/

section Slots

variable {s : State} {p : PortId}

theorem exec_markerSend (run : s.pins.reset = false) (fresh : (s.port p).nextSlot = 0) (start : s.clock.tick = 0) :
    exec (.markerSend p) s = .next (beginSlot p 0
      (if sendsMarker (s.port p) then .marker (markerBytes (markerNow s p) (infoNow s)) else quietWire (s.port p).state) s) := by
  have arm : exec (.markerSend p) s = execMarkerSend p s := rfl
  have due : slotAhead s p 0 = true := by simp [slotAhead, fresh, start]
  rw [arm, execMarkerSend, event_of_run _ _ run, if_pos due]

/-- A tick before the gap is reached by the ticks that lie between. -/
theorem runTo_of_early {tick : Nat} (reached : s.clock.tick ≤ tick) (early : tick < 7936) :
    runTo tick s = passTicks (tick - s.clock.tick) s := by
  have within : tick < epochLength s.clock := by
    simp only [epochLength, Figures.slotsTicks]
    omega
  have before : ¬ Figures.slotsTicks ≤ tick := Nat.not_le.mpr early
  simp only [runTo, if_neg before]
  by_cases late : s.clock.tick < tick
  · rw [if_pos ⟨late, within⟩]
  · have there : tick - s.clock.tick = 0 := by omega
    rw [if_neg fun h => late h.1, there]
    rfl

theorem runTo_first (early : s.clock.tick ≤ 128) : TimePasses (128 - s.clock.tick) s (runTo 128 s) := by
  rw [runTo_of_early early (by decide)]
  exact passTicks_passes _ s

theorem exec_managementCellBuild (run : s.pins.reset = false) (waits : (s.port p).nextSlot ≤ 1) (early : s.clock.tick ≤ 128)
    (takes : takesOffers (s.port p).state = true) :
    exec (.managementCellBuild p) s = .next ((runTo 128 s).setPort p { s.port p with
      protocolQueue := (s.port p).protocolQueue.drop (takenCounts (s.port p)).1
      floodQueue := (s.port p).floodQueue.drop (takenCounts (s.port p)).2
      nextSlot := 2
      wire := .cell (managementCell ((s.port p).protocolQueue.take (takenCounts (s.port p)).1 ++
        (s.port p).floodQueue.take (takenCounts (s.port p)).2)) }) := by
  have arm : exec (.managementCellBuild p) s = execManagementCellBuild p s := rfl
  have due : slotAhead s p 1 = true := by simp [slotAhead, waits, Figures.slotTicks, early]
  have same : (runTo 128 s).port p = s.port p := port_of_ports ((runTo_first early).pieces .ports (by decide)) p
  rw [arm, execManagementCellBuild, event_of_run _ _ run, if_pos due]
  simp only [Figures.slotTicks, same, takes, if_true, beginSlot, port_setPort_self, State.setPort_setPort]

/-- A data slot of an ADMITTED port at its tick. -/
theorem exec_dataSlot {n : Nat} (run : s.pins.reset = false) (least : 2 ≤ n) (most : n ≤ 61) (waits : (s.port p).nextSlot ≤ n)
    (time : s.clock.tick = 128 * n) (admitted : (s.port p).state = .admitted) :
    exec (.dataSlot p n) s =
      .next ((slotRecord s p n).elim (beginSlot p n .idleSymbols s) fun r => sendRecord p n r s) := by
  have arm : exec (.dataSlot p n) s = execDataSlot p n s := rfl
  have due : 2 ≤ n ∧ n < Figures.slots ∧ slotAhead s p n = true := by
    refine ⟨least, Nat.lt_succ_of_le most, ?_⟩
    simp [slotAhead, waits, Figures.slotTicks, time]
  have there : runTo (Figures.slotTicks * n) s = s := by
    have arrived : ¬ s.clock.tick < 128 * n := by omega
    simp only [Figures.slotTicks, runTo]
    exact if_neg fun h => arrived h.1
  rw [arm, execDataSlot, event_of_run _ _ run, if_pos due]
  simp only [there, admitted, if_true]
  cases slotRecord s p n <;> rfl

theorem eligibleCell_of {r : StreamRecord} {c : QueuedCell} {rest : List QueuedCell}
    (state : r.state = .active ∨ r.state = .retuning) (queue : r.queue = c :: rest) (due : ahead s.clock.epoch c.taken = true) :
    eligibleCell s r = some c := by
  rw [eligibleCell, if_pos state, queue]
  exact if_pos due

end Slots

/-- Settles O39: each kind of slot as its command begins it. -/
theorem slotsBegin : Obligations.SlotsBegin := by
  refine ⟨fun s p run fresh start => ⟨fun sends => ?_, fun quiet => ?_⟩, fun s p run waits early takes => ?_,
    fun s p n run least most waits time admitted => ⟨fun free => ?_, fun r held idle => ?_, fun r c rest held state queue due => ?_⟩⟩
  · rw [exec_markerSend run fresh start, if_pos sends]
    rfl
  · rw [exec_markerSend run fresh start, if_neg (by simp [quiet])]
    rfl
  · exact ⟨runTo 128 s, runTo_first early, exec_managementCellBuild run waits early takes⟩
  · rw [exec_dataSlot run least most waits time admitted, free]
    rfl
  · rw [exec_dataSlot run least most waits time admitted, held]
    simp only [Option.elim_some, sendRecord, idle]
    rfl
  · refine ⟨_, by rw [exec_dataSlot run least most waits time admitted, held], ?_⟩
    simp only [Option.elim_some, sendRecord, eligibleCell_of state queue due]
    refine ⟨port_setPort_self .., rfl, fun q ne => port_setPort_of_ne _ ne _, ?_⟩
    rintro ⟨⟩ h <;> first | rfl | simp at h

end Sys2Proof.Machine
end

section
/-! SUPPORT. Triggers that reach their fire times, pulses that end, and edges on the input lines (R85, R88). -/

namespace Sys2Proof.Machine

open Sys2Proof

/-! ### Firing (R85) -/

theorem later_irrefl (a : RackTime) : later a a = false := by simp [later, ahead]

theorem later_same_epoch {e : Epoch} {m n : Nat} : later ⟨e, m⟩ ⟨e, n⟩ = decide (n < m) := by simp [later, ahead]

/-- What an entry becomes at its fire time. -/
def firedState (s : State) : TriggerState :=
  if timed s then .fired (decide (s.time.state = .holdover)) else .missed .noTime

/-- The pulses that run once a trigger has fired: one more where the part is timed and the mask names a line. -/
def firedPulses (s : State) (mask : Byte) (left : Nat) (running : List Pulse) : List Pulse :=
  if timed s then if mask = 0 then running else running ++ [⟨mask, left⟩] else running

theorem fireEntry_trig (n : Nat) (e : TriggerEntry) (s : State) :
    (fireEntry n e s).trig =
      { withTriggerState e.id (firedState s) s.trig with
        pulses := firedPulses s (s.trig.firingMap.get e.channel) n s.trig.pulses } := by
  unfold fireEntry firedState firedPulses
  rw [raise_trig]
  by_cases time : timed s = true
  · rw [if_pos time, if_pos time, if_pos time, beginPulse]
    split <;> simp [setTriggerState, withTriggerState, beq_eq_decide]
  · rw [if_neg time, if_neg time, if_neg time, reportTrigger_frame _ _ .trig (by simp)]
    simp [setTriggerState, withTriggerState]

theorem fireEntry_flag (n : Nat) (e : TriggerEntry) (s : State) : (fireEntry n e s).req.pending.get .trigger = true := by
  simp [fireEntry, raise_flag]

/-- Where one entry alone is ARMED and the test picks it out, it alone fires. -/
theorem fireThose_single {hit : TriggerEntry → Bool} {left : TriggerEntry → Nat} {s : State} {e : TriggerEntry}
    (only : s.trig.table.filter isArmed = [e]) (picked : hit e = true) : fireThose hit left s = fireEntry (left e) e s := by
  rw [fireThose, show (s.trig.table.filter fun x => isArmed x && hit x) = [e] by
    rw [← List.filter_filter, List.filter_comm, only]; simp [picked]]
  rfl

/-- Of a table with one ARMED entry none is ARMED once that has fired. -/
theorem unarmed_fireEntry {n : Nat} {s : State} {e : TriggerEntry} (only : s.trig.table.filter isArmed = [e]) :
    ∀ y ∈ (fireEntry n e s).trig.table, y.state ≠ .armed := by
  intro y mem armed
  have stood : y ∈ s.trig.table.filter isArmed :=
    List.mem_filter.mpr ⟨(fireEntry_fires n e s).armed y mem armed, (isArmed_iff y).mpr armed⟩
  rw [only, List.mem_singleton] at stood
  exact fireEntry_done n e s y mem (congrArg _ stood) armed

/-- The only ARMED entry fires as the ticks begin to pass. -/
theorem passTicks_fires_first {n : Nat} {s : State} {e : TriggerEntry} (only : s.trig.table.filter isArmed = [e])
    (fire : e.fire = now s) (n_pos : 0 < n) : passTicks n s = moveClock n (fireEntry 64 e s) := by
  have reach : reached s e.fire = true := by simp [reached, fire, later_irrefl]
  rw [passTicks, if_neg n_pos.ne', fireThose_single only reach]
  exact fireThose_none _ _ _ fun y mem armed => absurd armed (unarmed_fireEntry only y mem)

/-- The Trigger Scheduler once `n` ticks have passed in which an entry fired, its pulse with `left` ticks to run. -/
def firedOnTheWay (n : Nat) (e : TriggerEntry) (mask : Byte) (left : Nat) (s : State) : TriggerUnit :=
  { withTriggerState e.id (firedState s) s.trig with
    pulses := firedPulses s mask left (s.trig.pulses.map fun x => { x with left := x.left - n })
    firingMap := s.req.config.channelMap }

theorem firedPulses_run (n : Nat) (s : State) (mask : Byte) (left : Nat) (running : List Pulse) :
    (firedPulses s mask left running).map (fun x => { x with left := x.left - n }) =
      firedPulses s mask (left - n) (running.map fun x => { x with left := x.left - n }) := by
  unfold firedPulses
  split
  · split <;> simp
  · rfl

/-- The only ARMED entry fires at a tick on the way. -/
theorem passTicks_fires_later {n k : Nat} {s : State} {e : TriggerEntry} (only : s.trig.table.filter isArmed = [e])
    (fire : e.fire = ⟨s.clock.epoch, k⟩) (ahead : s.clock.tick < k) (within : k < s.clock.tick + n) :
    passTicks n s = fireEntry (64 - (s.clock.tick + n - k)) e (moveClock n s) := by
  have alone : ∀ y ∈ s.trig.table, y.state = .armed → y = e := fun y mem armed =>
    List.mem_singleton.mp (only ▸ List.mem_filter.mpr ⟨mem, (isArmed_iff y).mpr armed⟩)
  have waits : ∀ y ∈ s.trig.table, y.state = .armed → reached s y.fire = false := by
    intro y mem armed
    rw [alone y mem armed, fire]
    simp [reached, now, later_same_epoch, ahead]
  have past : later (now (moveClock n s)) e.fire = true := by
    rw [fire]
    simp [now, moveClock, later_same_epoch, within]
  rw [passTicks, if_neg (by omega), fireThose_none _ _ _ waits]
  refine (fireThose_single (s := moveClock n s) only past).trans ?_
  rw [fire]
  rfl

theorem passTicks_single {n k : Nat} {s : State} {e : TriggerEntry} (only : s.trig.table.filter isArmed = [e])
    (fire : e.fire = ⟨s.clock.epoch, k⟩) (least : s.clock.tick ≤ k) (within : k < s.clock.tick + n) :
    (passTicks n s).req.pending.get .trigger = true ∧
      (passTicks n s).trig = firedOnTheWay n e
        ((if k = s.clock.tick then s.trig.firingMap else s.req.config.channelMap).get e.channel)
        (64 - (s.clock.tick + n - k)) s := by
  by_cases first : k = s.clock.tick
  · subst first
    rw [passTicks_fires_first only fire (by omega), if_pos rfl, Nat.add_sub_cancel_left]
    have config : (fireEntry 64 e s).req.config = s.req.config := by rw [(fireEntry_fires 64 e s).notices.1]
    refine ⟨fireEntry_flag .., ?_⟩
    simp only [moveClock, config, fireEntry_trig, firedPulses_run, firedOnTheWay]
  · rw [passTicks_fires_later only fire (by omega) within, if_neg first]
    refine ⟨fireEntry_flag .., ?_⟩
    rw [fireEntry_trig]
    rfl

theorem exec_triggerFireTime {s : State} {e : TriggerEntry} (run : s.pins.reset = false) (found : triggerAt s e.id = some e)
    (armed : e.state = .armed) (fire : e.fire = now s) : exec (.triggerFireTime e.id) s = .next (fireEntry 64 e s) := by
  have arm : exec (.triggerFireTime e.id) s = execTriggerFireTime e.id s := rfl
  have there : runToFire e.fire s = s := by
    rw [fire]
    simp [runToFire, now, runTo]
  have fires : fireIfReached e.id s = fireEntry 64 e s := by
    simp [fireIfReached, found, isArmed, armed, fire, reached, later_irrefl, Figures.pulseTicks]
  rw [arm, execTriggerFireTime, event_of_run _ _ run]
  simp only [found, isArmed, armed, there, beq_self_eq_true, if_true, fires]

/-! ### Pulses and edges (R85, R88) -/

theorem exec_triggerPulseEnd {s : State} {n : Nat} (run : s.pins.reset = false) (next : nextPulseEnd s = some n)
    (early : s.clock.tick + n < 7936) :
    exec .triggerPulseEnd s = .next ((passTicks n s).setTrig { (passTicks n s).trig with
      pulses := (passTicks n s).trig.pulses.filter fun x => decide (0 < x.left) }) := by
  have arm : exec .triggerPulseEnd s = execTriggerPulseEnd s := rfl
  have there := runTo_of_early (Nat.le_add_right s.clock.tick n) early
  rw [Nat.add_sub_cancel_left] at there
  rw [arm, execTriggerPulseEnd, event_of_run _ _ run]
  simp only [next, there]

theorem exec_triggerInputEdge {s : State} {i : InputId} {n : Nat} (run : s.pins.reset = false) (high : 16 ≤ n) :
    exec (.triggerInputEdge i n) s = .next (takeEdge i (ticksAgo s n) s) := by
  have arm : exec (.triggerInputEdge i n) s = execTriggerInputEdge i n s := rfl
  rw [arm, execTriggerInputEdge, event_of_run _ _ run, if_neg (by omega)]

/-- An arm that takes edges: its lead and channel, with no hold-off. -/
theorem armed_input {a : Arm} {lead channel : Nat} (armed : a = .oneShot lead channel ∨ a = .repeated lead channel none)
    (edge : RackTime) : armOf a = some (lead, channel) ∧ heldOff a edge = false := by
  rcases armed with rfl | rfl <;> exact ⟨rfl, rfl⟩

theorem takeEdge_untimed {s : State} {i : InputId} {lead channel : Nat} (edge : RackTime)
    (armed : (s.trig.inputs.get i).arm = .oneShot lead channel ∨ (s.trig.inputs.get i).arm = .repeated lead channel none)
    (untimed : timed s = false ∨ ownFrame s = 0) :
    takeEdge i edge s = raise .trigger (setInput i { s.trig.inputs.get i with
      ignored := min 65535 ((s.trig.inputs.get i).ignored + 1) } s) := by
  obtain ⟨arm, free⟩ := armed_input armed edge
  have refuse : (!timed s || ownFrame s == 0) = true := by simpa using untimed
  simp only [takeEdge, arm, free, refuse, if_true]
  exact congrArg (fun c => raise .trigger (setInput i { s.trig.inputs.get i with ignored := c } s)) (Nat.min_comm _ _)

theorem takeEdge_timed {s : State} {i : InputId} {lead channel : Nat} (edge : RackTime)
    (armed : (s.trig.inputs.get i).arm = .oneShot lead channel ∨ (s.trig.inputs.get i).arm = .repeated lead channel none)
    (time : timed s = true) (named : ownFrame s ≠ 0) :
    takeEdge i edge s = raise .trigger (setInput i { s.trig.inputs.get i with arm := armAfter (s.trig.inputs.get i).arm edge }
      (fireOverdue (createTrigger ⟨edge.epoch + BitVec.ofNat 48 lead, edge.tick⟩ channel s))) := by
  obtain ⟨arm, free⟩ := armed_input armed edge
  have taken : (!timed s || ownFrame s == 0) = false := by simp [time, named]
  simp only [takeEdge, arm, free, taken]
  rfl

/-- A trigger made by an edge is ahead of the rack time, so that nothing fires as it is stored. -/
theorem onTime_created {s : State} {lead m : Nat} {id : TriggerId} {channel : Nat} (least : 32 ≤ lead) (most : lead ≤ 65535)
    (time : onTime (now s) s.trig.table) :
    onTime (now s) (insertBy entryBefore ⟨id, ⟨s.clock.epoch + BitVec.ofNat 48 lead, m⟩, channel, .armed⟩ s.trig.table) := by
  intro y mem armed
  rcases (mem_insertBy _ _ _ _).mp mem with rfl | held
  · have span : (s.clock.epoch + BitVec.ofNat 48 lead - s.clock.epoch).toNat = lead := by
      rw [add_sub_cancel_left, BitVec.toNat_ofNat]
      exact Nat.mod_eq_of_lt (by omega)
    have future : ahead (s.clock.epoch + BitVec.ofNat 48 lead) s.clock.epoch = true :=
      (ahead_iff _ _).mpr ⟨by omega, by omega⟩
    have apart : s.clock.epoch ≠ s.clock.epoch + BitVec.ofNat 48 lead := by
      intro same
      rw [← same, sub_self] at span
      simp at span
      omega
    simp [later, now, ahead_asymm future, apart]
  · exact time y held armed

/-- Settles O52: the entry fires where its tick is, and an edge makes its trigger while the part is timed. -/
theorem triggersFireAndEdges : Obligations.TriggersFireAndEdges := by
  intro s run
  refine ⟨fun e found armed fire => ?_, fun n k e only fire least most => ?_, fun n next early => ?_, fun i n low => ?_,
    fun i n lead channel x high is armed untimed => ?_,
    fun i n lead channel x high recent is armed time named room least most due => ?_⟩
  · have fires := fireEntry_fires 64 e s
    refine ⟨_, exec_triggerFireTime run found armed fire, fireEntry_flag .., fires.notices, fires.pieces, ?_⟩
    rw [fireEntry_trig]
    by_cases time : timed s = true <;> simp [firedState, firedPulses, withTriggerState, time]
  · have only : s.trig.table.filter isArmed = [e] := by
      rw [← only]
      exact List.filter_congr fun x _ => by simp [isArmed, beq_eq_decide]
    obtain ⟨flag, trig⟩ := passTicks_single only fire least most
    intro t mask become running
    refine ⟨passTicks_passes n s, flag, by rw [trig]; rfl, fun time => ?_, fun untimed => ?_⟩ <;> rw [trig]
    · simp [firedOnTheWay, firedState, firedPulses, withTriggerState, time, become, running, mask]
    · simp [firedOnTheWay, firedState, firedPulses, withTriggerState, untimed, become, running]
  · exact ⟨_, passTicks_passes n s, exec_triggerPulseEnd run next early⟩
  · have arm : exec (.triggerInputEdge i n) s = execTriggerInputEdge i n s := rfl
    rw [arm, execTriggerInputEdge, event_of_run _ _ run, if_pos low]
  · subst is
    refine ⟨_, by rw [exec_triggerInputEdge run high, takeEdge_untimed _ armed untimed], raise_trig .., ?_, ?_⟩
    · exact noticesSet_raiseIf true .trigger (s := s) (u := setInput i _ s) rfl
    · exact ((setTrig_frame s _).mono (by simp)).trans ((raise_frame .trigger _).mono (by simp))
  · subst is
    have edge : ticksAgo s n = ⟨s.clock.epoch, s.clock.tick - n⟩ := if_pos recent
    have made := createTrigger_of_room ⟨s.clock.epoch + BitVec.ofNat 48 lead, s.clock.tick - n⟩ channel room
    intro id fire
    have flood := offerAll_flood (.trigger ⟨id, fire, channel⟩)
    have reply := takeEdge_timed (ticksAgo s n) armed time named
    rw [edge] at reply
    dsimp only at made
    have clock : (createTrigger fire channel s).clock = s.clock := by
      rw [made]
      exact (flood _ _).pieces .clock (by simp)
    have trig : (createTrigger fire channel s).trig = { s.trig with
        serial := nextTriggerSerial s, table := insertBy entryBefore ⟨id, fire, channel, .armed⟩ s.trig.table } := by
      rw [made]
      exact (flood _ _).pieces .trig (by simp)
    have notices : noticesOnly s (createTrigger fire channel s) := by
      rw [made]
      exact (noticesOnly.of_req rfl).trans (flood _ _).notices
    have pieces : changesOnly [.ports, .trig, .captures, .req] s (createTrigger fire channel s) := by
      rw [made]
      exact ((setTrig_frame s _).mono (by simp)).trans ((flood _ _).pieces.mono (by simp))
    have quiet : fireOverdue (createTrigger fire channel s) = createTrigger fire channel s := by
      refine fireOverdue_none ?_
      rw [trig, now, clock]
      exact onTime_created least most due
    rw [quiet] at reply
    refine ⟨_, by rw [exec_triggerInputEdge run high, edge, reply], ?_, fun p => ?_, ?_, ?_, ?_⟩
    · simp only [raise_trig, setInput, State.setTrig_trig, trig]
      rcases armed with is | is <;> simp [is, armAfter, id, fire]
    · exact (congrArg (State.port · p) made).trans (port_flood_admitted _ rfl p)
    · simp [raise_flag]
    · exact (notices.trans (t := createTrigger fire channel s) (noticesOnly.of_req rfl)).trans (noticesOnly.raise _ _)
    · exact (pieces.trans ((setTrig_frame _ _).mono (by simp))).trans ((raise_frame _ _).mono (by simp))

end Sys2Proof.Machine
end

section
/-! SUPPORT. The boundary of two epochs (R56, R72): the epoch that ends, the turn of the counter, and the counts and timers of
the epoch that begins. -/

namespace Sys2Proof.Machine

open Sys2Proof

/-! ### The ports at the boundary (R6, R21, R23) -/

/-- A port once its epoch has ended: a miss is counted where no marker was accepted. -/
def closedPort (x : Port) : Port := if countsMisses x && !x.markerThisEpoch then countMiss x else x

theorem closedPort_presence (x : Port) : (closedPort x).presence = x.presence := by
  unfold closedPort
  split <;> rfl

theorem closedPort_training (x : Port) : (closedPort x).training = x.training := by
  unfold closedPort
  split <;> rfl

theorem observeMiss_frame (p : PortId) (s : State) :
    changesOnly [.time] s (observeMiss p s) ∧ (observeMiss p s).time = { s.time with counts := (observeMiss p s).time.counts } := by
  unfold observeMiss
  split
  · exact ⟨by rintro ⟨⟩ h <;> first | rfl | simp at h, rfl⟩
  · exact ⟨changesOnly.refl _ s, rfl⟩

/-- What the end of the epoch at some ports changes. -/
structure PortsClose (s t : State) : Prop where
  pieces : changesOnly [.ports, .time] s t
  time : t.time = { s.time with counts := t.time.counts }

theorem PortsClose.refl (s : State) : PortsClose s s := ⟨changesOnly.refl _ s, rfl⟩

theorem PortsClose.trans {s t u : State} (h : PortsClose s t) (k : PortsClose t u) : PortsClose s u :=
  ⟨h.pieces.trans k.pieces, by rw [k.time, h.time]⟩

theorem closePort_closes (s : State) (p : PortId) : PortsClose s (closePort s p) := by
  unfold closePort
  split
  · obtain ⟨pieces, time⟩ := observeMiss_frame p (s.setPort p (countMiss (s.port p)))
    exact ⟨((setPort_pieces p _ s).mono (by simp)).trans (pieces.mono (by simp)), time⟩
  · exact .refl s

theorem port_closePort (s : State) (p q : PortId) :
    (closePort s p).port q = if q = p then closedPort (s.port q) else s.port q := by
  unfold closePort closedPort
  by_cases own : q = p
  · subst own
    split
    · rw [port_of_ports ((observeMiss_frame _ _).1 .ports (by simp)), port_setPort_self, if_pos rfl]
    · rw [if_pos rfl]
  · rw [if_neg own]
    split
    · rw [port_of_ports ((observeMiss_frame _ _).1 .ports (by simp)), port_setPort_of_ne _ own]
    · rfl

theorem closePorts_close (ps : List PortId) (s : State) : PortsClose s (ps.foldl closePort s) := by
  induction ps generalizing s with
  | nil => exact .refl s
  | cons p ps ih => exact (closePort_closes s p).trans (ih _)

/-- One operation at each port of a list, where the operation at a port changes that port alone. -/
theorem port_foldl_each {op : State → PortId → State} {g : PortId → Port → Port}
    (own : ∀ s p q, (op s p).port q = if q = p then g q (s.port q) else s.port q) {ps : List PortId} (nodup : ps.Nodup)
    (s : State) (q : PortId) : (ps.foldl op s).port q = if q ∈ ps then g q (s.port q) else s.port q := by
  induction ps generalizing s with
  | nil => rfl
  | cons p ps ih =>
    obtain ⟨fresh, nodup⟩ := List.nodup_cons.1 nodup
    rw [List.foldl_cons, ih nodup, own]
    by_cases own : q = p
    · simp [own, fresh]
    · simp [own]

/-- A port with its presence sample and its training count as an epoch begins. -/
def sampledPort (presence : BitVec 6) (q : PortId) (x : Port) : Port :=
  { x with presence := sampleInput (presence.getLsbD q.val) x.presence, training := x.training.map advanceTraining }

theorem port_samplePort (presence : BitVec 6) (s : State) (p q : PortId) :
    (samplePort presence s p).port q = if q = p then sampledPort presence q (s.port q) else s.port q := by
  unfold samplePort sampledPort
  dsimp only
  rw [port_setPort]
  split
  · next own => rw [own]
  · rfl

/-! ### The epoch that ends, and the turn of the counter -/

theorem withTime_frame (s : State) (x : Timebase) : changesOnly [.time] s { s with time := x } := by
  rintro ⟨⟩ h <;> first | rfl | simp at h

/-- What the end of an epoch leaves before the counter turns. -/
structure EpochEnds (s t : State) : Prop where
  pieces : changesOnly [.ports, .time] s t
  time : t.time = { s.time with counts := t.time.counts, refin := sampleInput s.pins.refin s.time.refin }
  ports : ∀ p, t.port p = closedPort (s.port p)

theorem endEpoch_ends (s : State) : EpochEnds s (endEpoch s) := by
  have closes := closePorts_close allPorts s
  refine ⟨closes.pieces.trans (changesOnly.mono (withTime_frame _ _) (by simp)), ?_, fun p => ?_⟩
  · simp only [endEpoch]
    rw [closes.time, closes.pieces .pins (by simp)]
  · exact (port_foldl_each port_closePort nodup_allPorts s p).trans (if_pos (mem_allPorts p))

/-- What the turn of the counter leaves, with what the epoch's last ticks give. -/
structure CounterTurns (s t : State) : Prop where
  pieces : changesOnly [.ports, .clock, .trig, .sinks, .req] s t
  epoch : t.clock.epoch = (currentGap s).step.getD (s.clock.epoch + 1)
  tick : t.clock.tick = 0
  gap : t.clock.gap = none
  stamp : t.clock.stamp = s.clock.stamp + BitVec.ofNat 24 (7936 + (currentGap s).length - s.clock.tick)
  ports : ∀ p, t.port p = { s.port p with nextSlot := 0, markerThisEpoch := false, symbolErrors := 0 }
  notices : noticesOnly s t
  idle : noneFires s (7936 + (currentGap s).length) →
    t.trig = timeOnly (7936 + (currentGap s).length - s.clock.tick) s ∧ t.sinks = s.sinks ∧ t.req = s.req

/-- Ticks in which no trigger fires. -/
theorem passTicks_idle {n tick : Nat} {s : State} (within : n = tick - s.clock.tick) (quiet : noneFires s tick) :
    (passTicks n s).trig = timeOnly n s ∧ (passTicks n s).sinks = s.sinks ∧ (passTicks n s).req = s.req := by
  by_cases there : n = 0
  · rw [there]
    exact ⟨rfl, rfl, rfl⟩
  · have sum : s.clock.tick + n = tick := by omega
    exact (passTicks_passes n s).idle (sum ▸ quiet)

theorem turnCounter_turns (s : State) : CounterTurns s (turnCounter s) := by
  have turn : changesOnly [.ports, .clock] (passTicks (7936 + (currentGap s).length - s.clock.tick) s) (turnCounter s) := by
    rintro ⟨⟩ h <;> first | rfl | simp at h
  have passes := passTicks_passes (7936 + (currentGap s).length - s.clock.tick) s
  have clock := passes.clock
  have number := congrArg (fun c => (currentGap s).step.getD (c.epoch + 1)) clock
  refine ⟨(passes.pieces.mono (by simp)).trans (turn.mono (by simp)), number, rfl, rfl, ?_, fun p => ?_, ?_, fun quiet => ?_⟩
  · exact congrArg (·.stamp) clock
  · have same := passes.pieces .ports (by decide)
    simp only [turnCounter, State.port, PerPort.get_map]
    exact congrArg (fun x : PerPort Port =>
      { x.get p with nextSlot := 0, markerThisEpoch := false, symbolErrors := 0 }) same
  · exact passes.notices.trans (noticesOnly.of_req rfl)
  · exact passTicks_idle rfl quiet

/-- What the boundary leaves before the counts and timers of the next epoch. -/
structure BoundaryPassed (s t : State) : Prop where
  pieces : changesOnly [.ports, .clock, .time, .trig, .sinks, .req] s t
  epoch : t.clock.epoch = (currentGap s).step.getD (s.clock.epoch + 1)
  tick : t.clock.tick = 0
  gap : t.clock.gap = none
  stamp : t.clock.stamp = s.clock.stamp + BitVec.ofNat 24 (7936 + (currentGap s).length - s.clock.tick)
  time : t.time =
    { s.time with counts := t.time.counts, refin := sampleInput s.pins.refin s.time.refin, stepCount := t.time.stepCount }
  ports : ∀ p, t.port p = { closedPort (s.port p) with nextSlot := 0, markerThisEpoch := false, symbolErrors := 0 }
  notices : noticesOnly s t

theorem turnCounter_passed (s : State) : BoundaryPassed s (turnCounter (endEpoch s)) := by
  have ends := endEpoch_ends s
  have turns := turnCounter_turns (endEpoch s)
  have clock := ends.pieces .clock (by simp)
  have gap : currentGap (endEpoch s) = currentGap s := by rw [currentGap, clock, currentGap]
  refine ⟨(ends.pieces.mono (by simp)).trans (turns.pieces.mono (by simp)), ?_, turns.tick, turns.gap, ?_, ?_, fun p => ?_, ?_⟩
  · rw [turns.epoch, gap, clock]
  · rw [turns.stamp, gap, clock]
  · rw [turns.pieces .time (by simp), ends.time]
  · rw [turns.ports, ends.ports]
  · exact (noticesOnly.of_req (ends.pieces .req (by simp))).trans turns.notices

/-- The moment between two epochs: a step is reported, or overdue triggers fire. -/
def atBoundary (s : State) : State :=
  if (currentGap s).step.isSome then reportStep (turnCounter (endEpoch s)) else fireOverdue (turnCounter (endEpoch s))

theorem BoundaryPassed.further {s u t : State} (h : BoundaryPassed s u) (frame : changesOnly [.time, .trig, .sinks, .req] u t)
    (time : t.time = { u.time with stepCount := t.time.stepCount }) (notices : noticesOnly u t) : BoundaryPassed s t := by
  have clock := frame .clock (by simp)
  refine ⟨h.pieces.trans (frame.mono (by simp)), ?_, ?_, ?_, ?_, ?_, fun p => ?_, h.notices.trans notices⟩
  · rw [clock, h.epoch]
  · rw [clock, h.tick]
  · rw [clock, h.gap]
  · rw [clock, h.stamp]
  · rw [time, h.time]
  · rw [port_of_ports (frame .ports (by simp)), h.ports]

theorem atBoundary_passed (s : State) : BoundaryPassed s (atBoundary s) := by
  have passed := turnCounter_passed s
  unfold atBoundary
  generalize turnCounter (endEpoch s) = u at passed ⊢
  split
  · exact passed.further (reportStep_frame u) (by rw [reportStep_time]) (reportStep_notices u)
  · have fires := fireThose_fires (fun e => later (now u) e.fire) (fun _ => Figures.pulseTicks) u
    refine passed.further (fires.pieces.mono (by simp)) ?_ fires.notices
    rw [fireOverdue, fires.pieces .time (by simp)]

theorem atBoundary_onTime (s : State) : onTime (now (atBoundary s)) (atBoundary s).trig.table := by
  unfold atBoundary
  split
  · exact fun e mem armed => absurd armed (reportStep_unarmed _ e mem)
  · exact fireOverdue_onTime _

/-- Where nothing fires and nothing was passed over, the boundary leaves table, sinks and notices as they were. -/
theorem atBoundary_idle {s : State} (level : (currentGap s).step = none) (quiet : noneFires s (7936 + (currentGap s).length))
    (due : onTime ⟨s.clock.epoch + 1, 0⟩ s.trig.table) :
    (atBoundary s).trig = timeOnly (7936 + (currentGap s).length - s.clock.tick) s ∧ (atBoundary s).sinks = s.sinks ∧
      (atBoundary s).req = s.req := by
  have ends := endEpoch_ends s
  have turns := turnCounter_turns (endEpoch s)
  have clock := ends.pieces .clock (by simp)
  have trig := ends.pieces .trig (by simp)
  have req := ends.pieces .req (by simp)
  have gap : currentGap (endEpoch s) = currentGap s := by rw [currentGap, clock, currentGap]
  have same : timeOnly (7936 + (currentGap s).length - s.clock.tick) (endEpoch s) =
      timeOnly (7936 + (currentGap s).length - s.clock.tick) s := by rw [timeOnly, trig, req, timeOnly]
  have quiet : noneFires (endEpoch s) (7936 + (currentGap (endEpoch s)).length) := by
    rw [gap, noneFires, trig, now, clock]
    exact quiet
  obtain ⟨run, sinks, notices⟩ := turns.idle quiet
  rw [gap, clock, same] at run
  have table : (turnCounter (endEpoch s)).trig.table = s.trig.table := by
    rw [run, timeOnly]
    split <;> rfl
  have punctual : onTime (now (turnCounter (endEpoch s))) (turnCounter (endEpoch s)).trig.table := by
    rw [table, now, turns.epoch, turns.tick, gap, level, clock]
    exact due
  have still : atBoundary s = turnCounter (endEpoch s) := by
    rw [atBoundary, level]
    exact fireOverdue_none punctual
  rw [still]
  exact ⟨run, sinks.trans (ends.pieces .sinks (by simp)), notices.trans req⟩

/-! ### Retention (R80, R87) -/

theorem dropEntry_trig (id : TriggerId) (s : State) :
    (dropEntry id s).trig = { s.trig with table := s.trig.table.filter fun e => e.id != id } :=
  reportTrigger_frame id (s.setTrig _) .trig (by simp)

theorem dropEntries_trig (ids : List TriggerId) (s : State) :
    (ids.foldl (fun s id => dropEntry id s) s).trig =
      { s.trig with table := s.trig.table.filter fun e => ids.all fun id => e.id != id } := by
  induction ids generalizing s with
  | nil => simp
  | cons id ids ih =>
    rw [List.foldl_cons, ih, dropEntry_trig, List.filter_filter]
    simp [Bool.and_comm]

theorem dropEntry_frame (id : TriggerId) (s : State) : changesOnly [.trig, .sinks, .req] s (dropEntry id s) :=
  ((setTrig_frame s _).mono (by simp)).trans ((reportTrigger_frame id _).mono (by simp))

theorem dropEntry_notices (id : TriggerId) (s : State) : noticesOnly s (dropEntry id s) :=
  (noticesOnly.of_req (t := s.setTrig _) rfl).trans (reportTrigger_notices id _)

theorem retain_frame (s : State) : changesOnly [.trig, .sinks, .req] s (retain s) := by
  unfold retain
  dsimp only
  generalize hu : s.setTrig _ = u
  have noted : changesOnly [.trig] s u := hu ▸ setTrig_frame s _
  exact (noted.mono (by simp)).trans (changesOnly.foldl _ (fun s id => dropEntry_frame id s) _ u)

theorem retain_notices (s : State) : noticesOnly s (retain s) :=
  (noticesOnly.of_req (t := s.setTrig _) rfl).trans (noticesOnly.foldl _ (fun s id => dropEntry_notices id s) _ _)

/-- The ids of the entries that retention takes away. -/
def goneIds (s : State) : List TriggerId := (s.trig.table.filter fun e => !isArmed e && outlived s e.fire).map (·.id)

theorem retain_eq (s : State) :
    retain s = (goneIds s).foldl (fun s id => dropEntry id s)
      (s.setTrig { s.trig with dropped := s.trig.dropped.filter fun n => !outlived s n.fire }) := rfl

theorem retain_trig (s : State) :
    (retain s).trig = { s.trig with
      table := s.trig.table.filter fun e => s.trig.table.all fun x =>
        x.id != e.id || decide (x.state = .armed) || !outlived s x.fire
      dropped := s.trig.dropped.filter fun n => !outlived s n.fire } := by
  have same (e : TriggerEntry) : ((goneIds s).all fun id => e.id != id) = s.trig.table.all fun x =>
      x.id != e.id || decide (x.state = .armed) || !outlived s x.fire := by
    simp only [goneIds, List.all_map, List.all_filter]
    refine congrArg (List.all _) (funext fun x => ?_)
    by_cases armed : x.state = .armed <;> by_cases past : outlived s x.fire = true <;>
      simp [isArmed, armed, past, bne_comm (a := e.id)]
  rw [retain_eq, dropEntries_trig]
  simp only [State.setTrig_trig, same]

theorem retain_of_kept {s : State} (kept : ∀ e ∈ s.trig.table, e.state ≠ .armed → outlived s e.fire = false) :
    (retain s).sinks = s.sinks ∧ (retain s).req = s.req := by
  have none_gone : goneIds s = [] := by
    rw [goneIds, List.map_eq_nil_iff, List.filter_eq_nil_iff]
    intro e mem gone
    simp only [isArmed, Bool.and_eq_true, Bool.not_eq_true', beq_eq_false_iff_ne] at gone
    exact absurd (kept e mem gone.1) (by simp [gone.2])
  rw [retain_eq, none_gone]
  exact ⟨rfl, rfl⟩

/-! ### The counts and timers of the epoch that begins -/

theorem ageSwap_eq (x : Swap) :
    ageSwap x = { x with drainTimer := if x.departure = .departing then x.drainTimer - 1 else x.drainTimer } := by
  unfold ageSwap
  split <;> rfl

theorem ageEntry_eq (e : DirEntry) :
    ageEntry e = { e with age := if e.state = .lost then e.age else min 1024 (e.age + 1) } := by
  unfold ageEntry
  split <;> rfl

theorem ageDirectory_eq (d : Directory) :
    ageDirectory d = { d with
      entries := d.entries.map fun e => { e with age := if e.state = .lost then e.age else min 1024 (e.age + 1) }
      announceTimer := d.announceTimer - 1, announceDue := d.announceDue || decide (d.announceTimer ≤ 1)
      hold := d.hold.map fun h => { h with timer := h.timer - 1 } } := by
  have entries : d.entries.map ageEntry = d.entries.map _ := List.map_congr_left fun e _ => ageEntry_eq e
  rw [ageDirectory, entries]

/-- Every timer of records, departure and directory has fallen, and the entries' ages have risen. -/
structure TimersFallen (s t : State) : Prop where
  streams : t.streams = { s.streams with records := s.streams.records.map ageRecord }
  swap : t.swap = ageSwap s.swap
  dir : t.dir = ageDirectory s.dir
  holdover : t.time.holdoverTimer = countDown s.time.holdoverTimer

/-- The state in which retention looks at the triggers as an epoch begins. -/
def agedState (s : State) : State :=
  { allPorts.foldl (samplePort s.pins.presence) s with
    swap := ageSwap s.swap, dir := ageDirectory s.dir
    time := { s.time with holdoverTimer := countDown s.time.holdoverTimer }
    streams := { s.streams with records := s.streams.records.map ageRecord } }

theorem beginEpoch_eq (s : State) : beginEpoch s = retain (agedState s) := by
  have sampled := samplePorts_frame s.pins.presence s
  simp only [beginEpoch, agedState]
  rw [sampled .swap (by simp), sampled .dir (by simp), sampled .time (by simp), sampled .streams (by simp)]

theorem port_agedState (s : State) (p : PortId) :
    (agedState s).port p = sampledPort s.pins.presence p (s.port p) :=
  (port_foldl_each (port_samplePort s.pins.presence) nodup_allPorts s p).trans (if_pos (mem_allPorts p))

theorem agedState_frame (s : State) : changesOnly [.ports, .time, .dir, .swap, .streams] s (agedState s) := by
  have put (u : State) (x : Swap) (d : Directory) (t : Timebase) (y : StreamTable) :
      changesOnly [.time, .dir, .swap, .streams] u { u with swap := x, dir := d, time := t, streams := y } := by
    rintro ⟨⟩ h <;> first | rfl | simp at h
  exact ((samplePorts_frame s.pins.presence s).mono (by simp)).trans
    (changesOnly.mono (put _ _ _ _ _) (by simp))

/-- What the boundary of two epochs leaves. -/
structure EpochCrossed (s t : State) : Prop where
  pieces : changesOnly [.ports, .clock, .time, .dir, .swap, .trig, .streams, .sinks, .req] s t
  clock : t.clock = (atBoundary s).clock
  timers : TimersFallen s t
  time : t.time = { s.time with
    counts := t.time.counts, refin := sampleInput s.pins.refin s.time.refin, stepCount := (atBoundary s).time.stepCount
    holdoverTimer := t.time.holdoverTimer }
  ports : ∀ p, t.port p = { closedPort (s.port p) with
    presence := sampleInput (s.pins.presence.getLsbD p.val) (s.port p).presence
    training := (s.port p).training.map advanceTraining
    nextSlot := 0, markerThisEpoch := false, symbolErrors := 0 }
  table : ∀ e ∈ t.trig.table, e ∈ (atBoundary s).trig.table
  flags : noticesOnly (atBoundary s) t
  notices : noticesOnly s t

theorem crossBoundary_eq (s : State) : crossBoundary s = retain (agedState (atBoundary s)) := by
  rw [← beginEpoch_eq]
  rfl

theorem crossBoundary_crossed (s : State) : EpochCrossed s (crossBoundary s) := by
  rw [crossBoundary_eq]
  have passed := atBoundary_passed s
  have aged := agedState_frame (atBoundary s)
  have kept := retain_frame (agedState (atBoundary s))
  have told : noticesOnly (atBoundary s) (retain (agedState (atBoundary s))) :=
    (noticesOnly.of_req (aged .req (by simp))).trans (retain_notices _)
  refine ⟨?_, ?_, ⟨?_, ?_, ?_, ?_⟩, ?_, fun p => ?_, fun e mem => ?_, told, passed.notices.trans told⟩
  · exact (passed.pieces.mono (by simp)).trans ((aged.mono (by simp)).trans (kept.mono (by simp)))
  · rw [kept .clock (by simp), aged .clock (by simp)]
  · rw [kept .streams (by simp), agedState, passed.pieces .streams (by simp)]
  · rw [kept .swap (by simp), agedState, passed.pieces .swap (by simp)]
  · rw [kept .dir (by simp), agedState, passed.pieces .dir (by simp)]
  · rw [kept .time (by simp), agedState, passed.time]
  · rw [kept .time (by simp), agedState, passed.time]
  · rw [port_of_ports (kept .ports (by simp)), port_agedState, passed.ports, passed.pieces .pins (by simp)]
    simp only [sampledPort, closedPort_presence, closedPort_training]
  · have stood := (retain_subset _).2 e mem
    rwa [aged .trig (by simp)] at stood

theorem crossBoundary_onTime (s : State) : onTime (now (crossBoundary s)) (crossBoundary s).trig.table := by
  have crossed := crossBoundary_crossed s
  rw [now, crossed.clock]
  exact (atBoundary_onTime s).subset fun e mem _ => crossed.table e mem

/-- A boundary with a step: it is counted and reported. -/
theorem crossBoundary_stepped {s : State} (step : (currentGap s).step.isSome = true) :
    (crossBoundary s).time.stepCount = min 65535 (s.time.stepCount + 1) ∧
      (crossBoundary s).req.pending.get .timing = true ∧ (crossBoundary s).req.pending.get .trigger = true ∧
      ∀ e ∈ (crossBoundary s).trig.table, e.state ≠ .armed := by
  have crossed := crossBoundary_crossed s
  have here : atBoundary s = reportStep (turnCounter (endEpoch s)) := if_pos step
  have time := crossed.time
  have flags := crossed.flags
  have table := crossed.table
  obtain ⟨timing, trigger⟩ := reportStep_flags (turnCounter (endEpoch s))
  have count : (turnCounter (endEpoch s)).time.stepCount = s.time.stepCount := by
    rw [(turnCounter_turns _).pieces .time (by simp), (endEpoch_ends s).time]
  rw [here] at time flags table
  refine ⟨?_, flags.2 _ timing, flags.2 _ trigger, fun e mem => reportStep_unarmed _ e (table e mem)⟩
  rw [time, reportStep_time, count]

/-- A boundary at which nothing fires: what is no longer retained leaves, and nothing else changes at the triggers. -/
theorem crossBoundary_idle {s : State} (level : (currentGap s).step = none)
    (quiet : noneFires s (7936 + (currentGap s).length)) (due : onTime ⟨s.clock.epoch + 1, 0⟩ s.trig.table) :
    let stays (fire : RackTime) : Bool := ahead (fire.epoch + 64) (s.clock.epoch + 1)
    (crossBoundary s).trig.table = s.trig.table.filter (fun e =>
        s.trig.table.all fun x => x.id != e.id || decide (x.state = .armed) || stays x.fire) ∧
      (crossBoundary s).trig.dropped = s.trig.dropped.filter (fun n => stays n.fire) ∧
      ((∀ e ∈ s.trig.table, e.state ≠ .armed → stays e.fire = true) →
        (crossBoundary s).sinks = s.sinks ∧ (crossBoundary s).req = s.req) := by
  intro stays
  obtain ⟨run, sinks, notices⟩ := atBoundary_idle level quiet due
  have aged := agedState_frame (atBoundary s)
  have epoch : (agedState (atBoundary s)).clock.epoch = s.clock.epoch + 1 := by
    rw [aged .clock (by simp), (atBoundary_passed s).epoch, level]
    rfl
  have trig := aged .trig (by simp)
  have table : (agedState (atBoundary s)).trig.table = s.trig.table := by
    rw [trig, run, timeOnly]
    split <;> rfl
  have dropped : (agedState (atBoundary s)).trig.dropped = s.trig.dropped := by
    rw [trig, run, timeOnly]
    split <;> rfl
  have kept (fire : RackTime) : outlived (agedState (atBoundary s)) fire = !stays fire := by
    rw [outlived, epoch]
    rfl
  rw [crossBoundary_eq, retain_trig]
  refine ⟨?_, ?_, fun all => ?_⟩
  · simp only [table, kept, Bool.not_not]
  · simp only [dropped, kept, Bool.not_not]
  · obtain ⟨heldSinks, heldReq⟩ := retain_of_kept (s := agedState (atBoundary s)) fun e mem state => by
      rw [kept, all e (table ▸ mem) state]
      rfl
    exact ⟨heldSinks.trans ((aged .sinks (by simp)).trans sinks), heldReq.trans ((aged .req (by simp)).trans notices)⟩

/-! ### The pins do not enter into the passing of time -/

/-- The same state with other pins. -/
def withPins (x : Pins) (s : State) : State := { s with pins := x }

theorem raiseIf_withPins (b : Bool) (k : NoticeKind) (x : Pins) (s : State) :
    raiseIf b k (withPins x s) = withPins x (raiseIf b k s) := by
  cases b <;> rfl

theorem reportTrigger_withPins (id : TriggerId) (x : Pins) (s : State) :
    reportTrigger id (withPins x s) = withPins x (reportTrigger id s) :=
  raiseIf_withPins _ _ x { s with sinks := _ }

theorem beginPulse_withPins (lines : Byte) (n : Nat) (x : Pins) (s : State) :
    beginPulse lines n (withPins x s) = withPins x (beginPulse lines n s) := by
  unfold beginPulse
  split <;> rfl

theorem fireEntry_withPins (n : Nat) (e : TriggerEntry) (x : Pins) (s : State) :
    fireEntry n e (withPins x s) = withPins x (fireEntry n e s) := by
  have same : timed (withPins x s) = timed s := rfl
  unfold fireEntry
  rw [same]
  split
  · exact congrArg (raise .trigger) (beginPulse_withPins _ n x (setTriggerState e.id _ s))
  · exact congrArg (raise .trigger) (reportTrigger_withPins e.id x (setTriggerState e.id _ s))

theorem fireThose_withPins (hit : TriggerEntry → Bool) (left : TriggerEntry → Nat) (x : Pins) (s : State) :
    fireThose hit left (withPins x s) = withPins x (fireThose hit left s) := by
  have each (l : List TriggerEntry) : ∀ s, l.foldl (fun s e => fireEntry (left e) e s) (withPins x s) =
      withPins x (l.foldl (fun s e => fireEntry (left e) e s) s) := by
    induction l with
    | nil => exact fun _ => rfl
    | cons e l ih =>
      intro s
      rw [List.foldl_cons, fireEntry_withPins, ih, List.foldl_cons]
  exact each _ s

theorem passTicks_withPins (n : Nat) (x : Pins) (s : State) : passTicks n (withPins x s) = withPins x (passTicks n s) := by
  unfold passTicks
  split
  · rfl
  · have first := fireThose_withPins (fun e => reached s e.fire) (fun _ => Figures.pulseTicks) x s
    have moved (u : State) : moveClock n (withPins x u) = withPins x (moveClock n u) := rfl
    have before (u : State) : reached (withPins x u) = reached u := rfl
    dsimp only
    rw [before, first, moved]
    exact fireThose_withPins _ _ x _

theorem beginGap_of_some {s : State} (begun : s.clock.gap ≠ none) : beginGap s = s := by
  obtain ⟨g, held⟩ := Option.ne_none_iff_exists'.mp begun
  simp only [beginGap, held]

theorem beginGap_withPins (x : Pins) (s : State) : beginGap (withPins x s) = withPins x (beginGap s) := by
  cases gap : s.clock.gap with
  | some g =>
    rw [beginGap_of_some (s := s) (by simp [gap]), beginGap_of_some (by simp [withPins, gap])]
  | none =>
    have absent : (withPins x s).clock.gap = none := gap
    rw [beginGap_of_none gap, beginGap_of_none absent]
    exact congrArg gapBegun (passTicks_withPins _ x s)

/-! ### The commands of the boundary -/

section Commands

variable {s : State} (run : s.pins.reset = false)

include run

theorem exec_localEpochStart (presence : BitVec 6) (refin : Bool) :
    exec (.localEpochStart presence refin) s =
      .next (crossBoundary (beginGap (withPins { s.pins with presence := presence, refin := refin } s))) := by
  have arm : exec (.localEpochStart presence refin) s = execLocalEpochStart presence refin s := rfl
  rw [arm, execLocalEpochStart, event_of_run _ _ run]
  rfl

theorem exec_timeStep :
    exec .timeStep s = .next (if s.clock.gap.any (·.step.isSome) then crossBoundary s else s) := by
  have arm : exec .timeStep s = execTimeStep s := rfl
  rw [arm, execTimeStep, event_of_run _ _ run]

end Commands

theorem closedPort_eq (x : Port) :
    closedPort x = { x with
      missCount := if countsMisses x = true ∧ x.markerThisEpoch = false then min 4 (x.missCount + 1) else x.missCount
      lossDue := x.lossDue ||
        (countsMisses x && !x.markerThisEpoch && decide (x.missCount = 3) &&
          decide (x.state ∈ [.probing, .up, .admitted, .draining])) } := by
  have listed : resetsIn .markerLoss x.state = decide (x.state ∈ [.probing, .up, .admitted, .draining]) := by
    cases x.state <;> rfl
  by_cases missed : countsMisses x = true ∧ x.markerThisEpoch = false
  · simp [closedPort, countMiss, missed, listed, beq_eq_decide]
  · have still : (countsMisses x && !x.markerThisEpoch) = false := by simpa using missed
    rw [closedPort, if_neg (by simp [still]), if_neg missed, still]
    simp

/-- Settles O38: the boundary crossed, from a gap that has begun or with one that begins first. -/
theorem epochTurns : Obligations.EpochTurns := by
  unfold Obligations.EpochTurns
  intro fallen
  have falls {s t : State} (h : TimersFallen s t) : fallen s t := by
    refine ⟨h.streams, ?_, ?_, h.holdover⟩
    · rw [h.swap, ageSwap_eq]
    · rw [h.dir, ageDirectory_eq]
  refine ⟨fun s presence refin g run begun => ?_, fun s presence refin run absent => ?_, fun s run => ⟨fun len e step => ?_,
    fun level => ?_⟩⟩
  · generalize sampled : withPins { s.pins with presence := presence, refin := refin } s = u
    have gap : currentGap u = g := by
      rw [← sampled, currentGap, withPins, begun]
      rfl
    have stands : beginGap u = u := by
      rw [← sampled]
      exact beginGap_of_some (by simp [withPins, begun])
    have reply := exec_localEpochStart run presence refin
    rw [sampled, stands] at reply
    have crossed := crossBoundary_crossed u
    have passed := atBoundary_passed u
    have number := passed.epoch
    have stamp := passed.stamp
    have idle := crossBoundary_idle (s := u)
    rw [gap] at number stamp idle
    subst sampled
    refine ⟨_, reply, ?_, ?_, ?_, ?_,
      falls ⟨crossed.timers.streams, crossed.timers.swap, crossed.timers.dir, crossed.timers.holdover⟩,
      ?_, ?_, ?_, fun p => ?_, crossBoundary_onTime _, crossed.notices, idle, ?_⟩
    · rw [crossed.clock, number]
      rfl
    · rw [crossed.clock, passed.tick]
    · rw [crossed.clock, passed.gap]
    · rw [crossed.clock, stamp]
      rfl
    · rw [crossed.time]
      rfl
    · rw [crossed.time]
      rfl
    · rw [crossed.time]
      rfl
    · rw [crossed.ports, closedPort_eq]
      rfl
    · exact changesOnly.trans (by rintro ⟨⟩ h <;> first | rfl | simp at h) (crossed.pieces.mono (by simp))
  · refine ⟨_, exec_gapStart run, by simp [beginGap_of_none absent, gapBegun], ?_⟩
    have pins : (beginGap s).pins = s.pins := by
      rw [beginGap_of_none absent]
      exact (passTicks_passes _ s).pieces .pins (by decide)
    have held : (beginGap s).pins.reset = false := pins ▸ run
    rw [exec_localEpochStart run, exec_localEpochStart held, pins, beginGap_withPins,
      beginGap_of_some (s := withPins _ (beginGap s)) (by simp [beginGap_of_none absent, gapBegun, withPins])]
  · have gap : currentGap s = ⟨len, some e⟩ := by rw [currentGap, step]; rfl
    have reply : exec .timeStep s = .next (crossBoundary s) := by
      rw [exec_timeStep run, step]
      rfl
    have crossed := crossBoundary_crossed s
    have passed := atBoundary_passed s
    obtain ⟨count, timing, trigger, unarmed⟩ := crossBoundary_stepped (s := s) (by rw [gap]; rfl)
    refine ⟨_, reply, ?_, ?_, count, timing, trigger, unarmed, crossed.pieces .captures (by simp), falls crossed.timers,
      crossed.notices, crossed.pieces⟩
    · rw [crossed.clock, passed.epoch, gap]
      rfl
    · rw [crossed.clock, passed.tick]
  · rw [exec_timeStep run]
    rcases level with absent | ⟨len, begun⟩
    · rw [absent]
      rfl
    · rw [begun]
      rfl

end Sys2Proof.Machine
end

section
/-! SUPPORT. ANNOUNCE received: the entry it gives, what is passed on, and the admission of its port (R26, R27, R42 to R45). -/

namespace Sys2Proof.Machine

open Sys2Proof

/-! ### The entry of a frame (R44) -/

theorem find?_insertBy_self {α β : Type} [BEq β] [LawfulBEq β] (before : α → α → Bool) (key : α → β) {a : α} {l : List α}
    (fresh : ∀ x ∈ l, key x ≠ key a) : (insertBy before a l).find? (fun x => key x == key a) = some a := by
  induction l with
  | nil => simp [insertBy]
  | cons x l ih =>
    obtain ⟨apart, rest⟩ := List.forall_mem_cons.1 fresh
    have miss : (key x == key a) = false := by simpa using apart
    rw [insertBy]
    split
    · simp
    · rw [List.find?_cons, miss]
      exact ih rest

theorem find?_insertBy_of_ne {α β : Type} [BEq β] [LawfulBEq β] (before : α → α → Bool) (key : α → β) {a : α} {k : β}
    (ne : key a ≠ k) (l : List α) : (insertBy before a l).find? (fun x => key x == k) = l.find? fun x => key x == k := by
  have miss : (key a == k) = false := by simpa using ne
  induction l with
  | nil => simp [insertBy, miss]
  | cons x l ih =>
    rw [insertBy]
    split
    · rw [List.find?_cons, miss]
    · rw [List.find?_cons, List.find?_cons, ih]

theorem find?_putEntry (e : DirEntry) (es : List DirEntry) (x : FrameId) :
    (putEntry e es).find? (fun y => y.frame == x) = if x = e.frame then some e else es.find? fun y => y.frame == x := by
  by_cases own : x = e.frame
  · rw [own, if_pos rfl]
    refine find?_insertBy_self _ DirEntry.frame fun y mem => ?_
    simpa using (List.mem_filter.mp mem).2
  · rw [if_neg own]
    refine (find?_insertBy_of_ne _ DirEntry.frame (Ne.symm own) _).trans ?_
    rw [List.find?_filter]
    refine congrArg (es.find? ·) (funext fun y => ?_)
    by_cases here : y.frame = x
    · simp [here, own]
    · simp [here]

/-! ### What is passed on (R45) -/

theorem linkKept_announcedTo (a : AnnounceMsg) (x : Port) : linkKept x (announcedTo a x) := by
  unfold announcedTo
  split
  · next takes => exact ⟨rfl, fun quiet => absurd takes (by simp [quiet])⟩
  · exact .refl x

theorem port_forwardAnnounce (p : PortId) (a : AnnounceMsg) (s : State) (q : PortId) :
    (forwardAnnounce p a s).port q =
      if departing s = false ∧ ((s.port q).state = .up ∨ (s.port q).state = .admitted) ∧ q ≠ p then
        announcedTo { a with hops := a.hops + 1 } (s.port q)
      else s.port q := by
  have nodup : ((upOrAdmitted s).filter fun x => x != p).Nodup := (nodup_allPorts.filter _).filter _
  unfold forwardAnnounce
  by_cases leaving : departing s = true
  · simp [leaving]
  · rw [if_neg leaving, offerAll, port_foldl (port_offerAnnounce _) nodup]
    simp [leaving, mem_upOrAdmitted]

theorem forwardAnnounce_frame (p : PortId) (a : AnnounceMsg) (s : State) : changesOnly [.ports] s (forwardAnnounce p a s) := by
  unfold forwardAnnounce
  split
  · exact changesOnly.refl _ s
  · exact offerAll_announce_frame _ _ s

/-! ### Acceptance (R44, R45) -/

/-- The state with an accepted announce's entry in the directory. -/
def entryPut (p : PortId) (a : AnnounceMsg) (s : State) : State :=
  raiseIf ((entryOf s a.frame).map (·.state) != some (entryFrom p a).state) .directory
    { s with dir := { s.dir with entries := putEntry (entryFrom p a) s.dir.entries } }

/-- The state in which an accepted announce is passed on. -/
def entryRanked (p : PortId) (a : AnnounceMsg) (s : State) : State :=
  if ranksDiffer (entryOf s a.frame) (entryFrom p a) then evaluate (entryPut p a s) else entryPut p a s

theorem acceptAnnounce_eq (p : PortId) (a : AnnounceMsg) (s : State) :
    acceptAnnounce p a s = forwardAnnounce p a (entryRanked p a s) := rfl

/-- What an accepted announce leaves. -/
structure AnnounceAccepted (p : PortId) (a : AnnounceMsg) (s t : State) : Prop where
  pieces : changesOnly [.ports, .time, .dir, .streams, .sinks, .captures, .req] s t
  links : ∀ q, linkKept (s.port q) (t.port q)
  notices : noticesOnly s t
  entries : ∀ x, entryOf t x = if x = a.frame then some (entryFrom p a) else entryOf s x

theorem entryPut_accepted (p : PortId) (a : AnnounceMsg) (s : State) : AnnounceAccepted p a s (entryPut p a s) := by
  have put : changesOnly [.dir] s { s with dir := { s.dir with entries := putEntry (entryFrom p a) s.dir.entries } } := by
    rintro ⟨⟩ h <;> first | rfl | simp at h
  refine ⟨(put.mono (by simp)).trans ((raiseIf_frame _ _ _).mono (by simp)), fun q => ?_, ?_, fun x => ?_⟩
  · rw [entryPut, port_raiseIf]
    exact .refl _
  · exact (noticesOnly.of_req rfl).trans (noticesOnly.raiseIf _ _ _)
  · rw [entryPut, entryOf, raiseIf_dir]
    exact find?_putEntry (entryFrom p a) s.dir.entries x

theorem AnnounceAccepted.timing {p : PortId} {a : AnnounceMsg} {s t u : State} (h : AnnounceAccepted p a s t)
    (k : TimingEffects t u) : AnnounceAccepted p a s u :=
  ⟨h.pieces.trans (k.pieces.mono (by simp)), fun q => (h.links q).trans (k.kept q), h.notices.trans k.notices, fun x => by
    rw [entryOf, k.entries]
    exact h.entries x⟩

theorem entryRanked_accepted (p : PortId) (a : AnnounceMsg) (s : State) : AnnounceAccepted p a s (entryRanked p a s) := by
  unfold entryRanked
  split
  · exact (entryPut_accepted p a s).timing (evaluate_effects _)
  · exact entryPut_accepted p a s

theorem acceptAnnounce_accepted (p : PortId) (a : AnnounceMsg) (s : State) :
    AnnounceAccepted p a s (acceptAnnounce p a s) := by
  have ranked := entryRanked_accepted p a s
  have frame := forwardAnnounce_frame p a (entryRanked p a s)
  rw [acceptAnnounce_eq]
  refine ⟨ranked.pieces.trans (frame.mono (by simp)), fun q => ?_, ?_, fun x => ?_⟩
  · refine (ranked.links q).trans ?_
    rw [port_forwardAnnounce]
    split
    · exact linkKept_announcedTo ..
    · exact .refl _
  · exact ranked.notices.trans (noticesOnly.of_req (frame .req (by simp)))
  · rw [entryOf, frame .dir (by simp)]
    exact ranked.entries x

theorem electionSettled_of_ports {s t : State} (h : electionSettled s) (frame : changesOnly [.ports] s t) :
    electionSettled t := by
  have dir := frame .dir (by simp)
  have time := frame .time (by simp)
  have req := frame .req (by simp)
  refine settled_of_time h ⟨by rw [dir], frame .swap (by simp), by rw [time], by rw [req]⟩ (by rw [dir]) (by rw [time]) ?_
  rw [ownStands, departing, time, frame .swap (by simp), ownStands, departing]

theorem acceptAnnounce_settles {p : PortId} {a : AnnounceMsg} {s : State}
    (differ : ranksDiffer (entryOf s a.frame) (entryFrom p a) = true) : electionSettled (acceptAnnounce p a s) := by
  rw [acceptAnnounce_eq, entryRanked, if_pos differ]
  exact electionSettled_of_ports (evaluate_settles _) (forwardAnnounce_frame p a _)

theorem port_acceptAnnounce_same {p : PortId} {a : AnnounceMsg} {s : State}
    (same : ranksDiffer (entryOf s a.frame) (entryFrom p a) = false) (serving : s.swap.departure = .inService) (q : PortId) :
    (acceptAnnounce p a s).port q =
      if ((s.port q).state = .up ∨ (s.port q).state = .admitted) ∧ q ≠ p then
        { s.port q with floodQueue := floodAnnounce { a with hops := a.hops + 1 } (s.port q).floodQueue }
      else s.port q := by
  have stays : departing (entryPut p a s) = false := by
    rw [departing, (entryPut_accepted p a s).pieces .swap (by simp), serving]
    rfl
  have port : (entryPut p a s).port q = s.port q := by rw [entryPut, port_raiseIf]; rfl
  have ranked : entryRanked p a s = entryPut p a s := if_neg (by simp [same])
  rw [acceptAnnounce_eq, ranked, port_forwardAnnounce, port]
  simp only [stays, true_and]
  split
  · next goes =>
    rw [announcedTo, if_pos]
    rcases goes.1 with state | state <;> simp [takesOffers, state]
  · rfl

/-! ### Admission (R26, R27) -/

/-- The announce is the neighbour's own, at a port in UP. -/
def admits (s : State) (p : PortId) (a : AnnounceMsg) : Prop :=
  (s.port p).state = .up ∧ a.hops = 0 ∧ neighbourFrame s p = some a.frame

theorem markAnnounce_of_not {s : State} {p : PortId} {a : AnnounceMsg} (other : ¬ admits s p a) : markAnnounce p a s = s :=
  if_neg other

/-- The port admitted, with announce-seen set. -/
def admittedAt (p : PortId) (s : State) : State :=
  changePort p .admitted none (s.setPort p { s.port p with announceSeen := true })

theorem markAnnounce_of_admits {s : State} {p : PortId} {a : AnnounceMsg} (hit : admits s p a) (named : ownFrame s ≠ 0)
    (frame : a.frame ≠ 0) (stays : s.swap.departure ≠ .drained) : markAnnounce p a s = admittedAt p s := by
  obtain ⟨state, -, neighbour⟩ := id hit
  have seen : admissible (s.setPort p { s.port p with announceSeen := true }) p = true := by
    have same : neighbourFrame (s.setPort p { s.port p with announceSeen := true }) p = some a.frame := by
      rw [neighbourFrame, port_setPort_self]
      exact neighbour
    have own : ownFrame (s.setPort p { s.port p with announceSeen := true }) ≠ 0 := named
    simp [admissible, same, own, frame]
  have up : ((s.setPort p { s.port p with announceSeen := true }).port p).state = .up := by
    rw [port_setPort_self]
    exact state
  refine (if_pos hit).trans ((if_pos ⟨up, seen⟩).trans ?_)
  exact congrArg (changePort p · none _) (if_neg stays)

theorem port_admittedAt (p : PortId) (s : State) (q : PortId) :
    (admittedAt p s).port q =
      if q = p then inState .admitted none { s.port p with announceSeen := true } else s.port q := by
  rw [admittedAt, port_changePort, port_setPort]
  split <;> rfl

theorem admittedAt_frame (p : PortId) (s : State) : changesOnly [.ports, .req] s (admittedAt p s) :=
  ((setPort_pieces p _ s).mono (by simp)).trans (changePort_frame p _ _ _)

theorem admittedAt_flag (p : PortId) (s : State) : (admittedAt p s).req.pending.get .port = true := by
  simp [admittedAt, changePort, raise_flag]

/-! ### ANNOUNCE -/

section Command

variable {s : State} {p : PortId} {m : AnnounceMsg} (run : s.pins.reset = false)

include run

theorem exec_announce :
    exec (.announce p m) s =
      .next (if screened (markAnnounce p m (takeMessage p (.announce m) s)) p m = true ∧
            accepted (markAnnounce p m (takeMessage p (.announce m) s)) p m = true then
          acceptAnnounce p m (markAnnounce p m (takeMessage p (.announce m) s))
        else markAnnounce p m (takeMessage p (.announce m) s)) := by
  have arm : exec (.announce p m) s = execAnnounce p m s := rfl
  rw [arm, execAnnounce, event_of_run _ _ run]
  simp only [Bool.and_eq_true]

end Command

theorem screened_iff (s : State) (p : PortId) (m : AnnounceMsg) :
    screened s p m = true ↔
      m.frame ≠ 0 ∧ m.frame ≠ ownFrame s ∧ m.hops + 1 ≤ 30 ∧ takesOffers (s.port p).state = true := by
  simp [screened, Figures.maxHops, and_assoc]

theorem accepted_iff (s : State) (p : PortId) (m : AnnounceMsg) :
    accepted s p m = true ↔ ∀ e, entryOf s m.frame = some e →
      e.state = .lost ∨ (m.restart = true ∧ m.serial ≠ e.serial) ∨ ahead m.serial e.serial = true ∨
        (m.serial = e.serial ∧ (m.hops + 1 < e.distance ∨ (m.hops + 1 = e.distance ∧ p < e.nextHop))) := by
  cases held : entryOf s m.frame with
  | none => simp [accepted, held]
  | some e => simp [accepted, held, or_assoc]

/-- What an announce leaves at a port that has been marked, whether accepted or not. -/
theorem acceptedOrNot (p : PortId) (m : AnnounceMsg) (s : State) :
    let t := if screened s p m = true ∧ accepted s p m = true then acceptAnnounce p m s else s
    changesOnly [.ports, .time, .dir, .streams, .sinks, .captures, .req] s t ∧ (∀ q, linkKept (s.port q) (t.port q)) ∧
      noticesOnly s t := by
  intro t
  by_cases both : screened s p m = true ∧ accepted s p m = true
  · have effects := acceptAnnounce_accepted p m s
    have done : t = acceptAnnounce p m s := if_pos both
    rw [done]
    exact ⟨effects.pieces, effects.links, effects.notices⟩
  · have stays : t = s := if_neg both
    rw [stays]
    exact ⟨changesOnly.refl _ s, fun q => .refl _, .refl s⟩

/-- Settles O50: the announce marks its port, and an accepted one gives its entry and goes on. -/
theorem announceTaken : Obligations.AnnounceTaken := by
  intro s p m run news passes hits e
  have taken := takeMessage_frame p (.announce m) s
  have screen : screened (takeMessage p (.announce m) s) p m = true ↔ passes := screened_iff ..
  have fresh : accepted (takeMessage p (.announce m) s) p m = true ↔ news := by
    rw [accepted_iff]
    have same : entryOf (takeMessage p (.announce m) s) m.frame = entryOf s m.frame := rfl
    rw [same]
    cases held : entryOf s m.frame with
    | none => simp [news, held]
    | some e => simp [news, held]
  refine ⟨fun pass new other => ?_, fun refused other => ?_, fun hit named frame stays => ?_⟩
  · have mark : markAnnounce p m (takeMessage p (.announce m) s) = takeMessage p (.announce m) s := markAnnounce_of_not other
    have reply := exec_announce (p := p) (m := m) run
    rw [mark, if_pos ⟨screen.mpr pass, fresh.mpr new⟩] at reply
    have effects := acceptAnnounce_accepted p m (takeMessage p (.announce m) s)
    refine ⟨_, reply, ?_, fun y ne => ?_, effects.pieces .inbox (by simp), fun q => (effects.links q).1, ?_, ?_,
      fun differ => acceptAnnounce_settles differ, fun same serving q => port_acceptAnnounce_same (s := takeMessage p (.announce m) s) same serving q⟩
    · exact (effects.entries _).trans (if_pos rfl)
    · exact (effects.entries y).trans (if_neg ne)
    · exact (noticesOnly.of_req rfl).trans effects.notices
    · exact (taken.mono (by simp)).trans (effects.pieces.mono (by simp))
  · have mark : markAnnounce p m (takeMessage p (.announce m) s) = takeMessage p (.announce m) s := markAnnounce_of_not other
    rw [exec_announce run, mark, if_neg fun both => refused ⟨screen.mp both.1, fresh.mp both.2⟩]
  · have mark : markAnnounce p m (takeMessage p (.announce m) s) = admittedAt p (takeMessage p (.announce m) s) :=
      markAnnounce_of_admits hit named frame stays
    have reply := exec_announce (p := p) (m := m) run
    rw [mark] at reply
    generalize hb : admittedAt p (takeMessage p (.announce m) s) = b at reply
    have own : b.port p = inState .admitted none { s.port p with announceSeen := true } := by
      rw [← hb, port_admittedAt, if_pos rfl]
      rfl
    have others (q : PortId) (ne : q ≠ p) : b.port q = s.port q := by
      rw [← hb, port_admittedAt, if_neg ne]
      rfl
    have flag : b.req.pending.get .port = true := hb ▸ admittedAt_flag ..
    have frame : changesOnly [.inbox, .ports, .req] s b :=
      hb ▸ (taken.mono (by simp)).trans ((admittedAt_frame p _).mono (by simp))
    have inbox : b.inbox = s.inbox.erase ⟨p, .announce m⟩ := hb ▸ admittedAt_frame p _ .inbox (by simp)
    obtain ⟨pieces, links, notices⟩ := acceptedOrNot p m b
    obtain ⟨link, -⟩ := links p
    rw [own] at link
    refine ⟨_, reply, ?_, ?_, ?_, notices.2 _ flag, fun q ne => ?_, ?_, ?_⟩
    · rw [link]
      rfl
    · rw [link]
      rfl
    · rw [link]
      rfl
    · rw [← others q ne]
      exact (links q).1
    · rw [pieces .inbox (by simp), inbox]
    · exact (frame.mono (by simp)).trans (pieces.mono (by simp))

end Sys2Proof.Machine
end

section
/-! SUPPORT. A marker received: the symbols that the recognizer reads, and what an accepted one leaves at its port (R3 to R6,
R24, R37). -/

namespace Sys2Proof.Machine

open Sys2Proof

/-! ### The recognizer (R3) -/

theorem setRecognizer_setRecognizer (p : PortId) (q r : Recognizer) (s : State) :
    setRecognizer p r (setRecognizer p q s) = setRecognizer p r s := by
  simp only [setRecognizer, port_setPort_self, State.setPort_setPort]

theorem setRecognizer_self {p : PortId} {r : Recognizer} {s : State} (h : (s.port p).recognizer = r) :
    setRecognizer p r s = s := by
  subst h
  exact State.setPort_port s p

theorem recognizer_setRecognizer (p : PortId) (r : Recognizer) (s : State) :
    ((setRecognizer p r s).port p).recognizer = r := by rw [setRecognizer, port_setPort_self]

theorem recognizerRuns_setRecognizer (p : PortId) (r : Recognizer) (s : State) :
    recognizerRuns ((setRecognizer p r s).port p) = recognizerRuns (s.port p) := by
  rw [setRecognizer, port_setPort_self]
  rfl

section Symbols

variable {p : PortId} {s : State}

theorem receiveSymbol_first (runs : recognizerRuns (s.port p) = true) (state : (s.port p).recognizer = ⟨0, none, []⟩)
    (a : Stamp) : receiveSymbol p .preamble a s = setRecognizer p ⟨1, some a, []⟩ s := by
  simp [receiveSymbol, runs, recognize, state]

theorem receiveSymbol_second (runs : recognizerRuns (s.port p) = true) {first : Stamp}
    (state : (s.port p).recognizer = ⟨1, some first, []⟩) (a : Stamp) :
    receiveSymbol p .preamble a s = setRecognizer p ⟨2, some first, []⟩ s := by
  simp [receiveSymbol, runs, recognize, state]

theorem receiveSymbol_third (runs : recognizerRuns (s.port p) = true) {first : Stamp}
    (state : (s.port p).recognizer = ⟨2, some first, []⟩) (a : Stamp) :
    receiveSymbol p .preamble a s = setRecognizer p ⟨3, some first, []⟩ s := by
  simp [receiveSymbol, runs, recognize, state]

theorem receiveSymbol_byte (runs : recognizerRuns (s.port p) = true) {first : Stamp} {got : List Byte}
    (state : (s.port p).recognizer = ⟨3, some first, got⟩) (b : Byte) (a : Stamp) :
    receiveSymbol p (.data b) a s =
      if got.length + 1 < 21 then setRecognizer p ⟨3, some first, got ++ [b]⟩ s
      else takeMarker p (got ++ [b]) first (setRecognizer p Recognizer.searching s) := by
  simp [receiveSymbol, runs, recognize, readByte, state, Figures.markerBytes]

/-- The bytes that are left of a marker, read one after another. -/
theorem recognizeAll_bytes {first : Stamp} (bs : List Byte) : ∀ {got : List Byte} {s : State},
    recognizerRuns (s.port p) = true → (s.port p).recognizer = ⟨3, some first, got⟩ → bs ≠ [] → got.length + bs.length = 21 →
      recognizeAll p (bs.map Symbol.data) s = takeMarker p (got ++ bs) first (setRecognizer p Recognizer.searching s) := by
  induction bs with
  | nil => exact fun _ _ h => absurd rfl h
  | cons b bs ih =>
    intro got s runs state _ size
    rw [List.length_cons] at size
    rw [List.map_cons, recognizeAll, receiveSymbol_byte runs state]
    by_cases more : bs = []
    · subst more
      rw [if_neg (by simp at size; omega)]
      rfl
    · have left : 0 < bs.length := List.length_pos_iff.mpr more
      rw [if_pos (by omega), ih (by rw [recognizerRuns_setRecognizer, runs]) (recognizer_setRecognizer ..) more
        (by rw [List.length_append, List.length_singleton]; omega), setRecognizer_setRecognizer, List.append_assoc]
      rfl

/-- A preamble and the bytes of a marker, the last of them now. -/
theorem recognizeAll_marker (runs : recognizerRuns (s.port p) = true) (state : (s.port p).recognizer = ⟨0, none, []⟩)
    {bs : List Byte} (size : bs.length = 21) :
    recognizeAll p ([.preamble, .preamble, .preamble] ++ bs.map Symbol.data) s = takeMarker p bs (s.clock.stamp - 23) s := by
  have some_byte : bs ≠ [] := List.ne_nil_of_length_eq_add_one size
  simp only [List.cons_append, List.nil_append, recognizeAll]
  have still (r : Recognizer) : recognizerRuns ((setRecognizer p r s).port p) = true := by
    rw [recognizerRuns_setRecognizer, runs]
  rw [receiveSymbol_first runs state, receiveSymbol_second (still _) (recognizer_setRecognizer ..),
    setRecognizer_setRecognizer, receiveSymbol_third (still _) (recognizer_setRecognizer ..), setRecognizer_setRecognizer,
    recognizeAll_bytes bs (still _) (recognizer_setRecognizer ..) some_byte (by simp [size]), setRecognizer_setRecognizer,
    setRecognizer_self (r := Recognizer.searching) state]
  simp only [List.length_cons, List.length_map, size]
  rfl

end Symbols

/-! ### What a port has heard (R5) -/

/-- What a port holds of the last accepted marker is as it was. -/
def heardKept (x y : Port) : Prop :=
  (y.neighbour, y.lastMarker, y.echo, y.neighbourDeparting, y.missCount, y.markerThisEpoch, y.recognizer) =
    (x.neighbour, x.lastMarker, x.echo, x.neighbourDeparting, x.missCount, x.markerThisEpoch, x.recognizer)

theorem heardKept.trans {x y z : Port} (h : heardKept x y) (k : heardKept y z) : heardKept x z := Eq.trans k h

theorem sameLink.heard {x y : Port} (h : sameLink x y) : heardKept x y := by
  rw [h]
  rfl

/-- An operation of one port that leaves what it has heard. -/
def Hears (p : PortId) (s t : State) : Prop := OnPort p s t ∧ heardKept (s.port p) (t.port p)

theorem Hears.refl (p : PortId) (s : State) : Hears p s s := ⟨.refl p s, rfl⟩

theorem Hears.trans {p : PortId} {s t u : State} (h : Hears p s t) (k : Hears p t u) : Hears p s u :=
  ⟨h.1.trans k.1, h.2.trans k.2⟩

theorem TimingEffects.hears {s t : State} (h : TimingEffects s t) (p : PortId) : Hears p s t :=
  ⟨h.onPort p, (h.links p).heard⟩

theorem hears_setPort {p : PortId} {x : Port} {s : State} (kept : heardKept (s.port p) x) : Hears p s (s.setPort p x) :=
  ⟨onPort_setPort p x s, by rwa [port_setPort_self]⟩

theorem hears_setDelay (p : PortId) (r : DelayRecord) (s : State) : Hears p s (setDelay p r s) := by
  have put : Hears p s (s.setPort p { s.port p with delay := r, jumpStands := jumpFound (s.port p) r }) := hears_setPort rfl
  unfold setDelay
  dsimp only
  split
  · exact put.trans ((repack_effects p _).timing.hears p)
  · exact put

theorem hears_enterFault (p : PortId) (reason : PortReason) (s : State) : Hears p s (enterFault p reason s) := by
  obtain ⟨on, link⟩ := enterFault_port p reason s
  exact ⟨on, link.1.heard⟩

theorem hears_enterUp (p : PortId) (s : State) : Hears p s (enterUp p s) := by
  obtain ⟨on, link⟩ := enterUp_port p s
  exact ⟨on, link.heard⟩

theorem hears_delayVerdict (p : PortId) (d : Nat) (s : State) : Hears p s (delayVerdict p d s) := by
  unfold delayVerdict
  split
  · split
    · exact hears_enterFault ..
    · split
      · exact hears_enterFault ..
      · exact hears_enterUp ..
  · split
    · exact hears_enterFault ..
    · exact .refl p s
  all_goals exact .refl p s

theorem hears_sampleDelay (p : PortId) (m : Marker) (a : Stamp) (s : State) : Hears p s (sampleDelay p m a s) := by
  have caught (b : Prop) [Decidable b] (d : Detail) :
      Hears p s (if b then capturePort p .negativeDelay (some 0) none d s else s) := by
    split
    · exact (capturePort_effects ..).timing.hears p
    · exact .refl p s
  unfold sampleDelay
  dsimp only
  split
  · split
    · exact .refl p s
    · split
      · exact ((caught ..).trans (hears_setDelay ..)).trans (hears_delayVerdict ..)
      · exact (caught ..).trans (hears_setDelay ..)
  · exact .refl p s

theorem hears_bringUp (p : PortId) (m : Marker) (a : Stamp) (s : State) : Hears p s (bringUp p m a s) := by
  unfold bringUp
  split
  · have probing : heardKept (s.port p) ((changePort p .probing none s).port p) := by
      rw [port_changePort, if_pos rfl]
      rfl
    exact Hears.trans ⟨onPort_changePort .., probing⟩ (hears_setPort rfl)
  · exact hears_sampleDelay ..

/-! ### An accepted marker (R5, R24) -/

/-- A port with what an accepted marker says recorded. -/
def withMarker (m : Marker) (i : InfoBits) (arrival : Stamp) (x : Port) : Port :=
  { x with
    neighbour := some ⟨m.frame, m.port⟩, lastMarker := some ⟨i, m.timing, m.priority, m.master⟩, echo := some ⟨m.tx, arrival⟩
    missCount := 0, lossDue := false, markerThisEpoch := true, neighbourDeparting := i.departing }

theorem recordMarker_port (p : PortId) (m : Marker) (i : InfoBits) (arrival : Stamp) (s : State) :
    OnPort p s (recordMarker p m i arrival s) ∧
      (recordMarker p m i arrival s).port p = withMarker m i arrival (s.port p) := by
  unfold recordMarker
  dsimp only
  rw [port_raiseIf, port_setPort_self]
  exact ⟨(onPort_setPort ..).trans ((raiseIf_effects ..).timing.onPort p), rfl⟩

theorem acceptMarker_hears (p : PortId) (m : Marker) (i : InfoBits) (first : Stamp) (s : State) :
    OnPort p s (acceptMarker p m i first s) ∧
      heardKept (withMarker m i first (s.port p)) ((acceptMarker p m i first s).port p) := by
  obtain ⟨on, port⟩ := recordMarker_port p m i first s
  have rest : Hears p (recordMarker p m i first s) (acceptMarker p m i first s) :=
    (hears_bringUp ..).trans ((observeMarker_effects ..).hears p)
  rw [← port]
  exact ⟨on.trans rest.1, rest.2⟩

theorem acceptMarker_training {p : PortId} {m : Marker} {i : InfoBits} {first : Stamp} {s : State}
    (state : (s.port p).state = .training) :
    ((acceptMarker p m i first s).port p).state = .probing ∧ ((acceptMarker p m i first s).port p).delay = .sampling [] := by
  have port := (recordMarker_port p m i first s).2
  generalize hu : recordMarker p m i first s = u at port
  have training : (u.port p).state = .training := by rw [port, withMarker, state]
  have brought : ((bringUp p m first u).port p).state = .probing ∧ ((bringUp p m first u).port p).delay = .sampling [] := by
    rw [bringUp, if_pos training]
    dsimp only
    rw [port_setPort_self, port_changePort, if_pos rfl]
    exact ⟨rfl, rfl⟩
  have link := (observeMarker_effects p (i.usable && timingUsable s p) first m.epoch (bringUp p m first u)).links p
  rw [← hu] at link brought
  exact ⟨link.state.trans brought.1, link.delay.trans brought.2⟩

theorem takeMarker_of_clean {p : PortId} {bytes : List Byte} {m : Marker} {i : InfoBits} {s : State}
    (clean : decodeInfo (byteAt bytes 1) = .clean i) (check : failedCheck (s.port p) bytes i = none)
    (read : readMarker bytes = m) (first : Stamp) : takeMarker p bytes first s = acceptMarker p m i first s := by
  unfold takeMarker
  generalize decodeInfo (byteAt bytes 1) = decoded at clean ⊢
  subst clean
  dsimp only
  generalize failedCheck (s.port p) bytes i = failed at check ⊢
  subst check read
  rfl

theorem takeMarker_accepted {p : PortId} {m : Marker} {i : InfoBits} {s : State} (priority : m.priority ≤ 15)
    (parity : i.epochOdd = m.epoch.getLsbD 0)
    (known : (s.port p).neighbour = none ∨ (s.port p).neighbour = some ⟨m.frame, m.port⟩) (first : Stamp) :
    takeMarker p (markerBytes m i) first s = acceptMarker p m i first s := by
  have clean : decodeInfo (byteAt (markerBytes m i) 1) = .clean i := by
    rw [byteAt_markerBytes_one]
    exact (infoByteErrors i).1
  exact takeMarker_of_clean clean (failedCheck_markerBytes m i priority parity known)
    (readMarker_markerBytes m i priority) first

/-- Settles O40: the symbols give the marker's bytes, and no check of it fails. -/
theorem markerAccepted : Obligations.MarkerAccepted := by
  intro s p m i run runs searching priority parity known
  have arm (cs : List Symbol) : exec (.markerReceived p cs) s = execMarkerReceived p cs s := rfl
  obtain ⟨on, heard⟩ := acceptMarker_hears p m i (s.clock.stamp - 23) s
  have pieces := acceptMarker_pieces p m i (s.clock.stamp - 23) s
  simp only [heardKept, Prod.mk.injEq, withMarker] at heard
  obtain ⟨neighbour, last, echo, departing, misses, marked, recognizer⟩ := heard
  refine ⟨_, ?_, neighbour, last, echo, departing, misses, marked, recognizer.trans searching,
    fun state => acceptMarker_training state, on.others, pieces⟩
  rw [arm, execMarkerReceived, event_of_run _ _ run, recognizeAll_marker runs searching (by simp [markerBytes]),
    takeMarker_accepted priority parity known]

end Sys2Proof.Machine
end

section
/-! SUPPORT. Cells received: the start of a cell at the marker recognizer, the messages of a management cell, a DATA cell at
its record, and a copy of it at a sink (R3, R8 to R12, R142, R143, R151, R152). -/

namespace Sys2Proof.Machine

open Sys2Proof

/-! ### The start of a cell (R3, R8) -/

theorem cellStarts_of_runs {p : PortId} {s : State} (runs : recognizerRuns (s.port p) = true) (bytes : List Byte) :
    cellStarts p bytes s = cellBegun p s := by
  unfold cellStarts cellBegun recognize
  rw [if_pos runs]
  rfl

theorem capturePort_frame (p : PortId) (k : ErrorKind) (n : Option Nat) (id : Option StreamId) (d : Detail) (s : State) :
    changesOnly [.captures, .req] s (capturePort p k n id d s) := by
  have put (c : Captures) : changesOnly [.captures] s { s with captures := c } := by
    rintro ⟨⟩ h <;> first | rfl | simp at h
  exact ((put _).mono (by simp)).trans ((raiseIf_frame _ _ _).mono (by simp))

theorem cellBegun_frame (p : PortId) (s : State) : changesOnly [.ports, .captures, .req] s (cellBegun p s) := by
  unfold cellBegun
  dsimp only
  split
  · exact (setPort_pieces p _ s).mono (by simp)
  · exact ((setPort_pieces p _ s).mono (by simp)).trans ((capturePort_frame _ _ _ _ _ _).mono (by simp))

theorem slotMap_cellBegun (p q : PortId) (s : State) : ((cellBegun p s).port q).slotMap = (s.port q).slotMap := by
  have put : ((s.setPort p { s.port p with recognizer := ⟨0, none, []⟩ }).port q).slotMap = (s.port q).slotMap := by
    rw [port_setPort]
    split
    · next own => rw [own]
    · rfl
  unfold cellBegun
  dsimp only
  split
  · exact put
  · rw [port_of_ports (capturePort_frame _ _ _ _ _ _ .ports (by simp)), put]

theorem recognizerRuns_of_takesOffers {x : Port} (takes : takesOffers x.state = true) : recognizerRuns x = true := by
  unfold recognizerRuns
  cases state : x.state with
  | up | admitted | draining | probing | fault => rfl
  | down | training => simp [takesOffers, state] at takes

/-- What a whole cell with its header right is read as. -/
def cellRead (p : PortId) (x : PortState) (h : CellHeader) (bytes : List Byte) (s : State) : State :=
  match h.kind with
  | .mgmt => if takesOffers x then unpack p bytes s else s
  | .data => if x = .admitted then classify p bytes s else s
  | .fill | .marker => s

theorem exec_cellReceived {s : State} {p : PortId} {bytes : List Byte} (run : s.pins.reset = false)
    (takes : takesOffers (s.port p).state = true) (whole : headerFault bytes = none) :
    exec (.cellReceived p bytes) s = .next (cellRead p (s.port p).state (readHeader bytes) bytes (cellBegun p s)) := by
  have arm : exec (.cellReceived p bytes) s = execCellReceived p bytes s := rfl
  have up : (s.port p).state ≠ .down := fun down => by simp [takesOffers, down] at takes
  rw [arm, execCellReceived, event_of_run _ _ run, cellStarts_of_runs (recognizerRuns_of_takesOffers takes), whole]
  exact congrArg Host.Outcome.next (if_neg up)

theorem headerFault_mgmt {h : CellHeader} {payload : List Byte} (full : payload.length = 116) (kind : h.kind = .mgmt)
    (slot : h.slot = 1) : headerFault (cellBytes h payload) = none := by
  simp [headerFault, length_cellBytes h full, Figures.cellBytes, headerCheckOk_cellBytes h full, readHeader_cellBytes h full,
    kind, slot]

theorem headerFault_data {h : CellHeader} {payload : List Byte} (full : payload.length = 116) (kind : h.kind = .data)
    (least : 2 ≤ h.slot.toNat) (most : h.slot.toNat ≤ 61) : headerFault (cellBytes h payload) = none := by
  simp [headerFault, length_cellBytes h full, Figures.cellBytes, headerCheckOk_cellBytes h full, readHeader_cellBytes h full,
    kind, least, most]

/-! ### Management cells (R10 to R12) -/

theorem length_msgBytes (m : Msg) : (msgBytes m).length = kindLength (msgKind m) := by
  rw [← length_msgFields, msgBytes_eq, List.length_cons, List.length_cons]

theorem kindLength_bounds (k : MsgKind) : 2 ≤ kindLength k ∧ kindLength k ≤ 14 := by cases k <;> decide

/-- Messages one after another are read back in their order, whatever follows them. -/
theorem readEnvelopes_messages {ms : List Msg} (wf : ∀ m ∈ ms, m.wf = true) (more : List Byte) :
    readEnvelopes ms.length ((ms.map msgBytes).flatten ++ more) = ms.map Envelope.message := by
  induction ms with
  | nil => rfl
  | cons m ms ih =>
    obtain ⟨first, rest⟩ := List.forall_mem_cons.1 wf
    obtain ⟨least, most⟩ := kindLength_bounds (msgKind m)
    have size := length_msgBytes m
    have whole : ¬ ((msgBytes m ++ ((ms.map msgBytes).flatten ++ more)).length < 2 ∨ kindLength (msgKind m) < 2 ∨
        28 < kindLength (msgKind m) ∨ (msgBytes m ++ ((ms.map msgBytes).flatten ++ more)).length < kindLength (msgKind m)) := by
      rw [List.length_append, size]
      omega
    rw [List.map_cons, List.flatten_cons, List.append_assoc, List.length_cons, readEnvelopes]
    simp only [numberAt_length, if_neg whole, messageBytesReadBack m _ first, List.drop_left' size, ih rest, List.map_cons]

theorem passEnvelopes_messages (p : PortId) (ms : List Msg) (s : State) :
    (ms.map Envelope.message).foldl (passEnvelope p) s = { s with inbox := s.inbox ++ ms.map fun m => ⟨p, m⟩ } := by
  induction ms generalizing s with
  | nil => simp
  | cons m ms ih =>
    rw [List.map_cons, List.foldl_cons, ih]
    simp [passEnvelope]

theorem length_padPayload (payload : List Byte) : (padPayload payload).length = 116 := by
  simp [padPayload, Figures.payloadBytes]

theorem cellBytes_padPayload (h : CellHeader) (payload : List Byte) : cellBytes h payload = cellBytes h (padPayload payload) := by
  simp only [cellBytes, padPayload_of_length (length_padPayload payload)]

theorem length_messages_le {ms : List Msg} : ((ms.map msgBytes).flatten).length ≤ 14 * ms.length := by
  induction ms with
  | nil => simp
  | cons m ms ih =>
    have most := (kindLength_bounds (msgKind m)).2
    rw [List.map_cons, List.flatten_cons, List.length_append, length_msgBytes, List.length_cons]
    omega

theorem padPayload_managementPayload {ms : List Msg} (few : ms.length ≤ 4) :
    ∃ more, padPayload (managementPayload ms) = BitVec.ofNat 8 ms.length :: ((ms.map msgBytes).flatten ++ more) := by
  have short := length_messages_le (ms := ms)
  have fits : (BitVec.ofNat 8 ms.length :: (ms.map msgBytes).flatten).length ≤ Figures.payloadBytes := by
    rw [List.length_cons, Figures.payloadBytes]
    omega
  refine ⟨(List.replicate Figures.payloadBytes 0).take (Figures.payloadBytes - (((ms.map msgBytes).flatten).length + 1)), ?_⟩
  rw [padPayload, managementPayload, bytesOf_one, List.singleton_append, List.take_append, List.take_of_length_le fits]
  rfl

theorem unpack_messages {h : CellHeader} {ms : List Msg} (few : ms.length ≤ 4) (wf : ∀ m ∈ ms, m.wf = true) (p : PortId)
    (s : State) :
    unpack p (cellBytes h (managementPayload ms)) s = { s with inbox := s.inbox ++ ms.map fun m => ⟨p, m⟩ } := by
  have full := length_padPayload (managementPayload ms)
  obtain ⟨more, padded⟩ := padPayload_managementPayload few
  have count : (byteAt (padPayload (managementPayload ms)) 0).toNat = ms.length := by
    rw [padded, byteAt, List.getD_cons_zero, BitVec.toNat_ofNat]
    omega
  have bytes : readEnvelopes ms.length ((padPayload (managementPayload ms)).drop 1) = ms.map Envelope.message := by
    rw [padded]
    exact readEnvelopes_messages wf more
  rw [cellBytes_padPayload, unpack, payloadCheckOk_cellBytes h full, readPayload_cellBytes h full]
  simp only [count, bytes]
  rw [if_neg (by simp), if_neg (by simp only [Figures.messagesPerCell]; omega), passEnvelopes_messages]

/-- Settles O42: the cell's checks are right, and its messages are read back in their order. -/
theorem messagesPassedOn : Obligations.MessagesPassedOn := by
  intro s p ms run takes few wf
  have full := length_padPayload (managementPayload ms)
  have whole : headerFault (managementCell ms) = none := by
    rw [managementCell, cellBytes_padPayload]
    exact headerFault_mgmt full rfl rfl
  have header : (readHeader (managementCell ms)).kind = .mgmt := by
    rw [managementCell, cellBytes_padPayload, readHeader_cellBytes _ full]
  rw [exec_cellReceived run takes whole, cellRead, header]
  dsimp only
  rw [if_pos takes, managementCell, unpack_messages few wf, cellBegun_frame p s .inbox (by simp)]

end Sys2Proof.Machine
end

section
/-! SUPPORT. A DATA cell taken by its record (R9, R142, R143), and a copy at a sink (R151, R152, R156). -/

namespace Sys2Proof.Machine

open Sys2Proof

/-! ### A copy at a sink -/

section Copies

variable {s : State} {budget : Nat} {c : SinkCell} {x : Sink}

theorem sequenceTest_expected (next : x.expected = none ∨ x.expected = some c.sequence) :
    sequenceTest c x = some { x with expected := some (c.sequence + 1) } := by
  rcases next with absent | same
  · simp [sequenceTest, absent]
  · simp [sequenceTest, same]

theorem sequenceTest_behind {e : Seq} (expected : x.expected = some e) (ne : c.sequence ≠ e)
    (behind : ahead c.sequence e = false) : sequenceTest c x = none := by
  simp [sequenceTest, expected, ne, behind]

theorem sequenceTest_gap {e : Seq} (expected : x.expected = some e) (gap : ahead c.sequence e = true) :
    sequenceTest c x = some { x with
      expected := some (c.sequence + 1), gapCount := min 65535 (x.gapCount + (c.sequence - e).toNat) } := by
  have ne : c.sequence ≠ e := by
    rintro rfl
    simp [ahead] at gap
  simp [sequenceTest, expected, ne, gap, saturate, Figures.saturation, Nat.min_comm]

theorem takeCopy_running (next : x.expected = none ∨ x.expected = some c.sequence) (state : x.state = .running) :
    takeCopy s budget c x = runningCopy (epochLow s) budget c { x with expected := some (c.sequence + 1) } := by
  simp only [takeCopy, sequenceTest_expected next, state]

theorem runningCopy_of_due (due : ∀ b, x.blockStart = some b → ahead b c.sequence = false) (low : Seq) :
    runningCopy low budget c x =
      if x.reservation ≤ x.held.length + x.released.length then { x with overrun := true }
      else present low budget c { x with blockStart := some (x.blockStart.getD c.sequence) } := by
  have none_behind : ¬ (x.blockStart.any fun b => ahead b c.sequence) = true := by
    cases block : x.blockStart with
    | none => simp
    | some b => simp [due b block]
  rw [runningCopy, if_neg none_behind]
  rfl

theorem present_of_held {low : Seq} (held : staysHeld low budget c = true) :
    present low budget c x = { x with held := x.held ++ [{ c with late := false }] } := if_pos held

end Copies

/-! ### A cell at its record -/

/-- A record with an arriving cell counted. -/
def withArrival (h : CellHeader) (r : StreamRecord) : StreamRecord :=
  { r with
    expected := some (h.sequence + 1)
    poisonCount := if h.poison then saturate (r.poisonCount + 1) else r.poisonCount }

theorem withArrival_eq (h : CellHeader) (r : StreamRecord) :
    withArrival h r = { r with
      expected := some (h.sequence + 1)
      poisonCount := if h.poison then min 65535 (r.poisonCount + 1) else r.poisonCount } := by
  simp only [withArrival, saturate, Figures.saturation, Nat.min_comm]

theorem recordBecomes.congr {i : Nat} {f g : StreamRecord → StreamRecord} {s t : State} (h : recordBecomes i f s t)
    (same : ∀ x, f x = g x) : recordBecomes i g s t := by
  have whole : f = g := funext same
  rwa [← whole]

/-- A further change of the record, which keeps its index. -/
theorem recordBecomes.further {i : Nat} {f : StreamRecord → StreamRecord} {s t : State} (h : recordBecomes i f s t)
    (g : StreamRecord → StreamRecord) (keeps : ∀ x, (f x).index = x.index) :
    recordBecomes i (fun x => g (f x)) s (editRecord i g t) := by
  have both (x : StreamRecord) : (if (if x.index = i then f x else x).index = i then g (if x.index = i then f x else x)
      else if x.index = i then f x else x) = if x.index = i then g (f x) else x := by
    by_cases own : x.index = i
    · simp [own, keeps]
    · simp [own]
  unfold recordBecomes at h ⊢
  simp only [editRecord, State.setRecords, h, List.map_map, Function.comp_def, both]

/-- The state once the record has counted a cell and its sinks have copies of it. -/
def copied (r : StreamRecord) (h : CellHeader) (payload : List Byte) (s : State) : State :=
  copyToSinks r (sinkCellOf h h.poison payload) (editRecord r.index (withArrival h) s)

theorem copied_frame (r : StreamRecord) (h : CellHeader) (payload : List Byte) (s : State) :
    changesOnly [.streams, .sinks, .req] s (copied r h payload s) :=
  (changesOnly.mono (editRecord_frame _ _ s) (by simp)).trans ((copyToSinks_frame _ _ _).mono (by simp))

theorem slotsHeld_of_ports {s t : State} (ports : t.ports = s.ports) (r : StreamRecord) : slotsHeld t r = slotsHeld s r := by
  unfold slotsHeld slotList
  cases r.egress with
  | none => rfl
  | some p => exact congrArg (fun x : Port => (slotsNaming r.index x.slotMap).length) (port_of_ports ports p)

section Arrival

variable {r : StreamRecord} {h : CellHeader} {payload : List Byte} {s : State}
  (state : r.state = .active ∨ r.state = .retuning)

include state

theorem arrive_terminus (role : r.role = .terminus) : arrive h h.poison payload r s = copied r h payload s := by
  simp only [arrive, if_pos state, role]
  rfl

theorem arrive_transit {q : PortId} (role : r.role = .transit) (egress : r.egress = some q)
    (room : r.queue.length < 2 * slotsHeld s r) :
    arrive h h.poison payload r s =
      editRecord r.index (fun x => { x with queue := x.queue ++
        [⟨h.id, h.gen, h.sequence, h.originEpoch, h.samples, h.poison, payload, s.clock.epoch⟩] }) (copied r h payload s) := by
  have frame := copied_frame r h payload s
  have room : r.queue.length < 2 * slotsHeld (copied r h payload s) r := by
    rwa [slotsHeld_of_ports (frame .ports (by simp))]
  have clock : (copied r h payload s).clock = s.clock := frame .clock (by simp)
  rw [← clock]
  simp only [arrive, if_pos state, role, egress]
  exact if_pos room

end Arrival

theorem classify_taken {p : PortId} {h : CellHeader} {payload : List Byte} {r : StreamRecord} {s : State}
    (full : payload.length = 116) (found : recordOf s h.id = some r) (ingress : r.ingress = .port p) (gen : r.gen = h.gen) :
    classify p (cellBytes h payload) s = arrive h h.poison payload r s := by
  simp only [classify, readHeader_cellBytes h full, found, ingress, gen, payloadCheckOk_cellBytes h full,
    readPayload_cellBytes h full]
  simp

/-- Settles O43: the cell is classified to its record, which takes it and hands on copies; a copy follows the sink's state. -/
theorem cellTaken : Obligations.CellTaken := by
  refine ⟨fun s p h payload r run state full kind least most found ingress gen serving role => ?_, fun s budget c x => ?_⟩
  · intro u
    have begun := cellBegun_frame p s
    have takes : takesOffers (s.port p).state = true := by simp [takesOffers, state]
    have header := readHeader_cellBytes h full
    have here : recordOf u h.id = some r := by rwa [recordOf, begun .streams (by simp)]
    have reply : exec (.cellReceived p (cellBytes h payload)) s = .next (arrive h h.poison payload r u) := by
      rw [exec_cellReceived run takes (headerFault_data full kind least most), header, cellRead, kind]
      dsimp only
      rw [if_pos state, classify_taken full here ingress gen]
    have once := copied_frame r h payload u
    have streams := copyToSinks_frame r (sinkCellOf h h.poison payload) (editRecord r.index (withArrival h) u) .streams (by simp)
    have copies : sinksTake r (sinkCellOf h h.poison payload) u (copied r h payload u) :=
      sinksTake_congr (u := editRecord r.index (withArrival h) u) rfl rfl rfl (sinksTake_copyToSinks _ _ _)
    have told : noticesOnly u (copied r h payload u) :=
      (noticesOnly.of_req rfl).trans (copyToSinks_effects r (sinkCellOf h h.poison payload) (editRecord _ _ u)).notices
    have counted : recordBecomes r.index (withArrival h) u (copied r h payload u) := streams
    rcases role with terminus | ⟨transit, way, room⟩
    · rw [arrive_terminus serving terminus] at reply
      exact ⟨_, reply, counted.congr fun x => by simp [withArrival_eq, terminus], copies, told, once⟩
    · obtain ⟨q, egress⟩ := Option.ne_none_iff_exists'.mp way
      have clock : u.clock = s.clock := begun .clock (by simp)
      have held : slotsHeld u r = slotsHeld s r := by simp only [slotsHeld, slotList, egress, u, slotMap_cellBegun]
      rw [arrive_transit serving transit egress (held ▸ room), clock] at reply
      refine ⟨_, reply, (counted.further _ fun _ => rfl).congr fun x => by simp [withArrival_eq, transit], copies,
        told.trans (.of_req rfl), ?_⟩
      exact once.trans (changesOnly.mono (editRecord_frame _ _ _) (by simp))
  · refine ⟨fun e expected ne behind => ?_, fun next => ⟨fun state => ?_, fun state => ?_, fun state due => ⟨fun full => ?_,
      fun room held => ?_⟩⟩, fun e expected gap => ?_⟩
    · simp only [takeCopy, sequenceTest_behind expected ne behind]
    · simp only [takeCopy, sequenceTest_expected next, state]
    · have runs := takeCopy_running (s := s) (budget := budget) (x := { x with
        state := .running, blockStart := some c.sequence }) next rfl
      rw [runs]
      simp only [takeCopy, sequenceTest_expected next, state]
      rfl
    · rw [takeCopy_running next state]
      exact (runningCopy_of_due (x := { x with expected := some (c.sequence + 1) }) due _).trans (if_pos full)
    · rw [takeCopy_running next state]
      refine (runningCopy_of_due (x := { x with expected := some (c.sequence + 1) }) due _).trans ((if_neg (Nat.not_le.mpr room)).trans ?_)
      exact present_of_held held
    · simp only [takeCopy, sequenceTest_gap expected gap, sequenceTest_expected (x := { x with
        expected := some c.sequence, gapCount := min 65535 (x.gapCount + (c.sequence - e).toNat) }) (.inr rfl)]

end Sys2Proof.Machine
end

section
/-! SUPPORT. The slots that a re-pack moves (R105): each to the lowest free slot, record after record. -/

namespace Sys2Proof.Machine

open Sys2Proof

/-- The lowest free slot: every one below it is taken. -/
theorem freeSlots_first {u n : Nat} {rest : List Nat} {m : List SlotEntry} (free : freeSlots u m = n :: rest) {k : Nat}
    (least : 2 ≤ k) (below : k < n) : ∃ f ∈ m, f.slot = k := by
  have own : n ∈ freeSlots u m := free ▸ List.mem_cons_self
  have most := (mem_freeSlots own).1.2
  by_contra absent
  have also : k ∈ freeSlots u m := by
    simp only [freeSlots, List.mem_filter, List.mem_range'_1, List.all_eq_true, bne_iff_ne]
    exact ⟨by omega, fun e mem same => absent ⟨e, mem, same⟩⟩
  have rise := freeSlots_rising u m
  rw [free] at also rise
  rcases List.mem_cons.1 also with same | later
  · omega
  · exact absurd (List.rel_of_pairwise_cons rise later) (by omega)

/-- A map is one of its entries and the rest. -/
theorem perm_entry {m : List SlotEntry} (h : MapInv m) {e : SlotEntry} (mem : e ∈ m) :
    m.Perm (e :: m.filter fun x => x.slot != e.slot) := by
  induction m with
  | nil => simp at mem
  | cons y m ih =>
    have rise : rising (y.slot :: m.map (·.slot)) := h.order
    have apart : ∀ x ∈ m, y.slot < x.slot := fun x hx => List.rel_of_pairwise_cons rise (List.mem_map_of_mem hx)
    rcases List.mem_cons.1 mem with rfl | later
    · have others : m.filter (fun x => x.slot != e.slot) = m := by
        rw [List.filter_eq_self]
        exact fun x hx => by simpa using (apart x hx).ne'
      simp [others]
    · have ne : (y.slot != e.slot) = true := by simpa using (apart e later).ne
      rw [List.filter_cons, if_pos ne]
      exact ((ih (h.sublist (List.sublist_cons_self y m)) later).cons y).trans (.swap e y _)

/-- What moves of slots leave of a map, where records were taken in a list and `before` says which slots must lie lower. -/
structure SlotsMoved (u : Nat) (before : Nat → Nat → Prop) (taken : List Nat) (m₀ m : List SlotEntry) : Prop where
  map : MapInv m
  low : ∀ e ∈ m₀, e.slot ≤ u + 1 → e ∈ m
  fresh : ∀ e ∈ m, e ∉ m₀ → e.slot ≤ u + 1 ∧ e.record ∈ taken ∧ ∀ n, 2 ≤ n → n < e.slot → ∃ f ∈ m, f.slot = n
  count : ∀ i, (slotsNaming i m).length = (slotsNaming i m₀).length
  size : m.length = m₀.length
  order : ∀ e ∈ m, ∀ f ∈ m, e ∉ m₀ → f ∉ m₀ → before e.record f.record → e.slot < f.slot

theorem SlotsMoved.refl {u : Nat} {before : Nat → Nat → Prop} {m : List SlotEntry} (h : MapInv m) :
    SlotsMoved u before [] m m :=
  ⟨h, fun _ mem _ => mem, fun _ mem out => absurd mem out, fun _ => rfl, rfl, fun _ mem _ _ out => absurd mem out⟩

section Moves

variable {u : Nat} {before : Nat → Nat → Prop} {taken : List Nat} {m₀ m : List SlotEntry}

theorem SlotsMoved.more (h : SlotsMoved u before taken m₀ m) {taken' : List Nat} (sub : taken ⊆ taken') :
    SlotsMoved u before taken' m₀ m := by
  refine ⟨h.map, h.low, fun e mem out => ?_, h.count, h.size, h.order⟩
  obtain ⟨most, inside, below⟩ := h.fresh e mem out
  exact ⟨most, sub inside, below⟩

theorem moveSlot_full {i : Nat} (free : freeSlots u m = []) (slot : Nat) : moveSlot i u m slot = m := by
  simp only [moveSlot, free]

theorem moveSlot_free {i n : Nat} {rest : List Nat} (free : freeSlots u m = n :: rest) (slot : Nat) :
    moveSlot i u m slot = insertSlot ⟨n, i⟩ (m.filter fun e => e.slot != slot) := by
  simp only [moveSlot, free]

theorem mem_moveSlot {i n : Nat} {rest : List Nat} (free : freeSlots u m = n :: rest) {slot : Nat} {e : SlotEntry} :
    e ∈ moveSlot i u m slot ↔ e = ⟨n, i⟩ ∨ (e ∈ m ∧ e.slot ≠ slot) := by
  rw [moveSlot_free free, mem_insertSlot, List.mem_filter, bne_iff_ne]

/-- A move changes one entry into another of the same record. -/
theorem moveSlot_perm (h : MapInv m) {i n slot : Nat} {rest : List Nat} (free : freeSlots u m = n :: rest)
    (here : ⟨slot, i⟩ ∈ m) :
    ∃ others, m.Perm (⟨slot, i⟩ :: others) ∧ (moveSlot i u m slot).Perm (⟨n, i⟩ :: others) :=
  ⟨_, perm_entry h here, moveSlot_free free slot ▸ insertSlot_perm _ _⟩

theorem moveSlot_counts (h : MapInv m) {i slot : Nat} (here : ⟨slot, i⟩ ∈ m) :
    (moveSlot i u m slot).length = m.length ∧
      ∀ j, (slotsNaming j (moveSlot i u m slot)).length = (slotsNaming j m).length := by
  cases free : freeSlots u m with
  | nil => simp [moveSlot_full free]
  | cons n rest =>
    obtain ⟨others, old, new⟩ := moveSlot_perm h free here
    refine ⟨by rw [new.length_eq, old.length_eq]; rfl, fun j => ?_⟩
    simp only [slotsNaming, List.length_map]
    rw [(new.filter _).length_eq, (old.filter _).length_eq, List.filter_cons, List.filter_cons]
    split <;> rfl

theorem SlotsMoved.slot (h : SlotsMoved u before taken m₀ m) (le : u ≤ 60) {i slot : Nat} (here : ⟨slot, i⟩ ∈ m)
    (high : u + 1 < slot) (mem : i ∈ taken) (late : ∀ j ∈ taken, ¬ before i j) :
    SlotsMoved u before taken m₀ (moveSlot i u m slot) := by
  obtain ⟨length, names⟩ := moveSlot_counts (u := u) h.map here
  cases free : freeSlots u m with
  | nil => rwa [moveSlot_full free]
  | cons n rest =>
    have spot := mem_freeSlots (u := u) (m := m) (n := n) (free ▸ List.mem_cons_self)
    have held {k : Nat} (most : k ≤ u + 1) (there : ∃ f ∈ m, f.slot = k) : ∃ f ∈ moveSlot i u m slot, f.slot = k := by
      obtain ⟨f, hf, same⟩ := there
      exact ⟨f, (mem_moveSlot free).2 (.inr ⟨hf, by omega⟩), same⟩
    have lower (e : SlotEntry) (he : e ∈ m) (out : e ∉ m₀) : e.slot < n := by
      by_contra above
      obtain ⟨-, -, below⟩ := h.fresh e he out
      have apart := spot.2 e he
      obtain ⟨f, hf, same⟩ := below n spot.1.1 (by omega)
      exact spot.2 f hf same
    refine ⟨moveSlot_inv slot le h.map, fun e he low => ?_, fun e he out => ?_, fun j => (names j).trans (h.count j),
      length.trans h.size, fun e he f hf eout fout first => ?_⟩
    · exact (mem_moveSlot free).2 (.inr ⟨h.low e he low, by omega⟩)
    · rcases (mem_moveSlot free).1 he with rfl | ⟨old, -⟩
      · exact ⟨spot.1.2, mem, fun k least below => held (by simp only at below; omega) (freeSlots_first free least below)⟩
      · obtain ⟨most, inside, below⟩ := h.fresh e old out
        exact ⟨most, inside, fun k least lt => held (by omega) (below k least lt)⟩
    · rcases (mem_moveSlot free).1 he with rfl | ⟨eold, -⟩
      · rcases (mem_moveSlot free).1 hf with rfl | ⟨fold, -⟩
        · exact absurd first (late i mem)
        · exact absurd first (late f.record (h.fresh f fold fout).2.1)
      · rcases (mem_moveSlot free).1 hf with rfl | ⟨fold, -⟩
        · exact lower e eold eout
        · exact h.order e eold f fold eout fout first

/-- Slots above U + 1 are never gained. -/
theorem high_moveSlot {i slot : Nat} {e : SlotEntry} (mem : e ∈ moveSlot i u m slot) (high : u + 1 < e.slot) : e ∈ m := by
  cases free : freeSlots u m with
  | nil => rwa [moveSlot_full free] at mem
  | cons n rest =>
    have spot := mem_freeSlots (u := u) (m := m) (n := n) (free ▸ List.mem_cons_self)
    rcases (mem_moveSlot free).1 mem with rfl | ⟨old, -⟩
    · exact absurd spot.1.2 (by simp only at high; omega)
    · exact old

/-- While the entries fit, one above U + 1 leaves a slot free. -/
theorem freeSlots_ne_nil (h : MapInv m) {i n : Nat} (here : ⟨n, i⟩ ∈ m) (high : u + 1 < n) (fits : m.length ≤ u) :
    freeSlots u m ≠ [] := by
  intro full
  have same : freeSlots u (m.filter fun e => e.slot != n) = freeSlots u m := by
    refine List.filter_congr fun k mem => ?_
    have apart : k ≠ n := by
      rw [List.mem_range'_1] at mem
      omega
    rw [Bool.eq_iff_iff]
    simp only [List.all_eq_true, List.mem_filter, bne_iff_ne]
    exact ⟨fun all e he taken => all e ⟨he, taken ▸ apart⟩ taken, fun all e he => all e he.1⟩
  have enough := length_freeSlots u (m.filter fun e => e.slot != n)
  have size := (perm_entry h here).length_eq
  rw [same, full, List.length_nil] at enough
  rw [List.length_cons] at size
  dsimp only at size
  omega

/-- Slots of one record moved one after another. -/
theorem moveSlots (le : u ≤ 60) {i : Nat} (mem : i ∈ taken) (late : ∀ j ∈ taken, ¬ before i j) {slots : List Nat}
    (nodup : slots.Nodup) (h : SlotsMoved u before taken m₀ m) (here : ∀ n ∈ slots, u + 1 < n ∧ ⟨n, i⟩ ∈ m) :
    SlotsMoved u before taken m₀ (slots.foldl (moveSlot i u) m) ∧
      (∀ e ∈ slots.foldl (moveSlot i u) m, u + 1 < e.slot → e ∈ m) ∧
      (m.length ≤ u → ∀ e ∈ slots.foldl (moveSlot i u) m, e.slot ∉ slots) := by
  induction slots generalizing m with
  | nil => exact ⟨h, fun _ he _ => he, fun _ _ _ => by simp⟩
  | cons n slots ih =>
    obtain ⟨out, nodup⟩ := List.nodup_cons.1 nodup
    obtain ⟨high, first⟩ := here n List.mem_cons_self
    have next : ∀ k ∈ slots, u + 1 < k ∧ ⟨k, i⟩ ∈ moveSlot i u m n := by
      intro k hk
      obtain ⟨above, old⟩ := here k (List.mem_cons_of_mem _ hk)
      refine ⟨above, ?_⟩
      cases free : freeSlots u m with
      | nil => rwa [moveSlot_full free]
      | cons x rest => exact (mem_moveSlot free).2 (.inr ⟨old, fun same => out (same ▸ hk)⟩)
    obtain ⟨moved, tall, gone⟩ := ih nodup (h.slot le first high mem late) next
    have size := (moveSlot_counts (u := u) h.map first).1
    refine ⟨moved, fun e he above => high_moveSlot (tall e he above) above, fun fits e he inside => ?_⟩
    rcases List.mem_cons.1 inside with same | later
    · have old := tall e he (by omega)
      cases free : freeSlots u m with
      | nil => exact absurd free (freeSlots_ne_nil h.map first high fits)
      | cons x rest =>
        have spot := mem_freeSlots (u := u) (m := m) (n := x) (free ▸ List.mem_cons_self)
        rcases (mem_moveSlot free).1 old with rfl | ⟨-, apart⟩
        · simp only at same
          omega
        · exact apart same
    · exact gone (size.trans_le fits) e he later

/-- All slots of one record above U + 1 moved. -/
theorem moveRecord_moved (le : u ≤ 60) {i : Nat} (mem : i ∈ taken) (late : ∀ j ∈ taken, ¬ before i j)
    (h : SlotsMoved u before taken m₀ m) :
    SlotsMoved u before taken m₀ (moveRecord u m i) ∧ (∀ e ∈ moveRecord u m i, u + 1 < e.slot → e ∈ m) ∧
      (m.length ≤ u → ∀ e ∈ moveRecord u m i, e.record = i → e.slot ≤ u + 1) := by
  have own {n : Nat} : n ∈ (slotsNaming i m).filter (fun n => decide (u + 1 < n)) ↔ ⟨n, i⟩ ∈ m ∧ u + 1 < n := by
    simp only [slotsNaming, List.mem_filter, List.mem_map, decide_eq_true_eq, beq_iff_eq]
    refine and_congr_left fun _ => ⟨?_, fun here => ⟨⟨n, i⟩, ⟨here, rfl⟩, rfl⟩⟩
    rintro ⟨⟨slot, record⟩, ⟨here, rfl⟩, rfl⟩
    exact here
  have nodup : ((slotsNaming i m).filter fun n => decide (u + 1 < n)).Nodup :=
    ((h.map.order.sublist (List.filter_sublist.map _)).nodup).filter _
  obtain ⟨moved, tall, gone⟩ := moveSlots le mem late nodup h fun n inside => ⟨(own.1 inside).2, (own.1 inside).1⟩
  refine ⟨moved, tall, fun fits e he named => ?_⟩
  by_contra high
  obtain ⟨slot, record⟩ := e
  subst named
  exact gone fits _ he (own.2 ⟨tall _ he (Nat.not_le.mp high), Nat.not_le.mp high⟩)

/-- Records in their order: none of a later one lies before an earlier one's slots. -/
theorem moveRecords_moved (le : u ≤ 60) (h : MapInv m₀) (irrefl : ∀ i, ¬ before i i) {records : List Nat}
    (order : records.Pairwise fun i j => ¬ before j i) :
    SlotsMoved u before records m₀ (records.foldl (moveRecord u) m₀) ∧
      (m₀.length ≤ u → ∀ e ∈ records.foldl (moveRecord u) m₀, e.record ∈ records → e.slot ≤ u + 1) := by
  induction records using List.reverseRecOn with
  | nil => exact ⟨.refl h, fun _ _ _ inside => by simp at inside⟩
  | append_singleton records i ih =>
    obtain ⟨order, -, apart⟩ := List.pairwise_append.1 order
    obtain ⟨moved, done⟩ := ih order
    have last : i ∈ records ++ [i] := by simp
    have late : ∀ j ∈ records ++ [i], ¬ before i j := by
      intro j mem
      rcases List.mem_append.1 mem with earlier | same
      · exact apart j earlier i (List.mem_singleton_self i)
      · rw [List.mem_singleton.1 same]
        exact irrefl i
    rw [List.foldl_append, List.foldl_cons, List.foldl_nil]
    obtain ⟨moved', tall, gone⟩ := moveRecord_moved le last late (moved.more (List.subset_append_left records [i]))
    refine ⟨moved', fun fits e he inside => ?_⟩
    rcases List.mem_append.1 inside with earlier | same
    · by_contra high
      exact high (done fits e (tall e he (by omega)) earlier)
    · exact gone (moved.size.trans_le fits) e he (List.mem_singleton.1 same)

end Moves

end Sys2Proof.Machine
end

section
/-! SUPPORT. The orders of a re-pack (R104, R105): the one in which records give their slots, and the reverse in which slots
move. -/

namespace Sys2Proof.Machine

open Sys2Proof

/-! ### Sorting -/

section Sorting

variable {α : Type} {before : α → α → Bool} {key : α → Int}

theorem insertBy_sorted {a : α} {l : List α} (ranks : ∀ x ∈ l, before a x = true ↔ key a < key x)
    (h : l.Pairwise fun x y => key x ≤ key y) : (insertBy before a l).Pairwise fun x y => key x ≤ key y := by
  induction l with
  | nil => exact List.pairwise_singleton _ a
  | cons y l ih =>
    obtain ⟨first, rest⟩ := List.forall_mem_cons.1 ranks
    have low := fun x hx => List.rel_of_pairwise_cons h (a' := x) hx
    rw [insertBy]
    by_cases here : before a y = true
    · rw [if_pos here]
      refine List.Pairwise.cons (fun x mem => ?_) h
      rcases List.mem_cons.1 mem with rfl | later
      · exact (first.1 here).le
      · exact (first.1 here).le.trans (low x later)
    · rw [if_neg here]
      refine List.Pairwise.cons (fun x mem => ?_) (ih rest h.of_cons)
      rcases (mem_insertBy before a x l).1 mem with rfl | later
      · exact not_lt.1 fun lt => here (first.2 lt)
      · exact low x later

theorem sortBy_spec {l : List α} (ranks : ∀ a ∈ l, ∀ b ∈ l, before a b = true ↔ key a < key b) :
    (∀ x, x ∈ sortBy before l ↔ x ∈ l) ∧ (sortBy before l).Pairwise fun x y => key x ≤ key y := by
  induction l using List.reverseRecOn with
  | nil => exact ⟨fun _ => .rfl, .nil⟩
  | append_singleton l a ih =>
    obtain ⟨mem, order⟩ := ih fun x hx y hy => ranks x (List.mem_append_left _ hx) y (List.mem_append_left _ hy)
    have last : sortBy before (l ++ [a]) = insertBy before a (sortBy before l) := by
      rw [sortBy, List.foldl_append]
      rfl
    rw [last]
    refine ⟨fun x => ?_, insertBy_sorted (fun x hx => ?_) order⟩
    · rw [mem_insertBy, mem, List.mem_append, List.mem_singleton, or_comm]
    · exact ranks a (by simp) x (List.mem_append_left _ ((mem x).1 hx))

theorem insertBy_perm (before : α → α → Bool) (a : α) (l : List α) : (insertBy before a l).Perm (a :: l) := by
  induction l with
  | nil => exact .refl _
  | cons x l ih =>
    unfold insertBy
    split
    · exact .refl _
    · exact (ih.cons x).trans (.swap a x l)

theorem sortBy_perm (before : α → α → Bool) (l : List α) : (sortBy before l).Perm l := by
  induction l using List.reverseRecOn with
  | nil => exact .refl _
  | append_singleton l a ih =>
    rw [sortBy, List.foldl_append]
    exact (insertBy_perm before a _).trans ((ih.cons a).trans (List.perm_append_singleton a l).symm)

end Sorting

/-- Within one half of the number range, ahead is greater. -/
theorem ahead_iff_of_half {base a b : Epoch} (ha : (a - base).toNat < 2 ^ 47) (hb : (b - base).toNat < 2 ^ 47) :
    ahead a b = true ↔ (b - base).toNat < (a - base).toNat := by
  have apart : a - b = (a - base) - (b - base) := (sub_sub_sub_cancel_right a b base).symm
  rw [ahead_iff, apart, BitVec.toNat_sub]
  omega

/-! ### The steps (R104) -/

/-- The step of a re-pack that a record's state belongs to. -/
def stepOf (x : StreamState) : Nat :=
  match x with
  | .suspended => 1
  | .pending => 2
  | .active | .retuning => 3
  | .closed => 0

theorem repackStep_ne_none {s : State} {p : PortId} {r : StreamRecord} :
    repackStep s p r ≠ none ↔
      r.egress = some p ∧ ((r.state = .suspended ∧ 0 < slotsHeld s r) ∨ r.state = .pending ∨
        r.state = .active ∨ r.state = .retuning) := by
  unfold repackStep
  by_cases egress : r.egress = some p
  · cases state : r.state <;> simp [egress]
  · simp [egress]

theorem stepOf_of_repackStep {s : State} {p : PortId} {r : StreamRecord} {m : Nat} (h : repackStep s p r = some m) :
    m = stepOf r.state := by
  unfold repackStep at h
  by_cases egress : r.egress = some p
  · rw [if_pos egress] at h
    cases state : r.state <;> simp_all [stepOf]
  · simp [egress] at h

section First

variable {s : State} {p : PortId} {a b : StreamRecord}

theorem takenFirst_cases (h : takenFirst s p a b) :
    stepOf a.state < stepOf b.state ∨ (stepOf a.state = stepOf b.state ∧
      if stepOf b.state = 3 then ahead (a.activation.getD 0) (b.activation.getD 0) = true else b.index < a.index) := by
  obtain ⟨m, n, ma, nb, rank⟩ := h
  rwa [stepOf_of_repackStep ma, stepOf_of_repackStep nb] at rank

theorem takenFirst_irrefl : ¬ takenFirst s p a a := by
  intro h
  rcases takenFirst_cases h with lt | ⟨-, rank⟩
  · exact Nat.lt_irrefl _ lt
  · split at rank
    · simp [ahead] at rank
    · exact Nat.lt_irrefl _ rank

theorem not_takenFirst_of_step (lt : stepOf b.state < stepOf a.state) : ¬ takenFirst s p a b := by
  intro h
  rcases takenFirst_cases h with lt' | ⟨same, -⟩ <;> omega

theorem not_takenFirst_of_index (same : stepOf a.state = stepOf b.state) (low : stepOf b.state ≠ 3) (lt : a.index < b.index) :
    ¬ takenFirst s p a b := by
  intro h
  rcases takenFirst_cases h with lt' | ⟨-, rank⟩
  · omega
  · rw [if_neg low] at rank
    omega

theorem not_takenFirst_of_order (same : stepOf a.state = stepOf b.state) (three : stepOf b.state = 3)
    (older : ahead (a.activation.getD 0) (b.activation.getD 0) = false) : ¬ takenFirst s p a b := by
  intro h
  rcases takenFirst_cases h with lt | ⟨-, rank⟩
  · omega
  · rw [if_pos three, older] at rank
    cases rank

end First

/-! ### The two orders -/

theorem mem_recordsOn {s : State} {p : PortId} {states : List StreamState} {r : StreamRecord} :
    r ∈ recordsOn s p states ↔ r ∈ s.streams.records ∧ r.egress = some p ∧ r.state ∈ states := by
  simp [recordsOn]

theorem recordsOn_rising {s : State} (h : RecordsInv s.streams.records) (p : PortId) (states : List StreamState) :
    (recordsOn s p states).Pairwise fun a b => a.index < b.index :=
  (List.pairwise_map.1 h.order).filter _

/-- The age of a record's activation order, counted from a base. -/
def orderFrom (base : Epoch) (r : StreamRecord) : Int := ((r.activation.getD 0 - base).toNat : Int)

theorem newerRecord_iff {base : Epoch} {a b : StreamRecord} (ha : (a.activation.getD 0 - base).toNat < 2 ^ 47)
    (hb : (b.activation.getD 0 - base).toNat < 2 ^ 47) : newerRecord a b = true ↔ orderFrom base b < orderFrom base a := by
  rw [newerRecord, ahead_iff_of_half ha hb, orderFrom, orderFrom, Int.ofNat_lt]

/-- The records of a re-pack in the order in which they give their slots. -/
def takeList (s : State) (p : PortId) : List StreamRecord :=
  ((recordsOn s p [.suspended]).filter fun r => 0 < slotsHeld s r).reverse ++ (recordsOn s p [.pending]).reverse ++
    sortBy newerRecord (recordsOn s p [.active, .retuning])

theorem repackOrder_eq (s : State) (p : PortId) : repackOrder s p = (takeList s p).map (·.index) := rfl

/-- The records of a port in the order in which their slots move. -/
def moveList (s : State) (p : PortId) : List StreamRecord :=
  sortBy (fun a b => newerRecord b a) (recordsOn s p [.active, .retuning]) ++ recordsOn s p [.pending] ++
    recordsOn s p [.suspended]

theorem moveOrder_eq (s : State) (p : PortId) : moveOrder s p = (moveList s p).map (·.index) := rfl

theorem stepOf_recordsOn {s : State} {p : PortId} {r : StreamRecord} :
    (r ∈ recordsOn s p [.suspended] → stepOf r.state = 1) ∧ (r ∈ recordsOn s p [.pending] → stepOf r.state = 2) ∧
      (r ∈ recordsOn s p [.active, .retuning] → stepOf r.state = 3) := by
  simp only [mem_recordsOn, List.mem_cons, List.not_mem_nil, or_false]
  refine ⟨?_, ?_, ?_⟩
  · rintro ⟨-, -, state⟩
    rw [state]
    rfl
  · rintro ⟨-, -, state⟩
    rw [state]
    rfl
  · rintro ⟨-, -, state | state⟩ <;> rw [state] <;> rfl

/-- No record comes twice. -/
theorem takeList_nodup {s : State} (h : RecordsInv s.streams.records) (p : PortId) : (takeList s p).Nodup := by
  have once (states : List StreamState) : (recordsOn s p states).Nodup :=
    (recordsOn_rising h p states).imp fun {a b} lt (same : a = b) => Nat.lt_irrefl b.index (same ▸ lt)
  have apart {a b : StreamRecord} (step : stepOf a.state ≠ stepOf b.state) : a ≠ b := fun same => step (same ▸ rfl)
  refine List.nodup_append.2 ⟨List.nodup_append.2 ⟨?_, ?_, fun a ha b hb => apart ?_⟩, ?_, fun a ha b hb => apart ?_⟩
  · exact List.nodup_reverse.2 ((once _).filter _)
  · exact List.nodup_reverse.2 (once _)
  · rw [stepOf_recordsOn.1 (List.mem_of_mem_filter (List.mem_reverse.1 ha)), stepOf_recordsOn.2.1 (List.mem_reverse.1 hb)]
    decide
  · exact (sortBy_perm _ _).nodup_iff.2 (once _)
  · rw [stepOf_recordsOn.2.2 ((sortBy_perm _ _).mem_iff.1 hb)]
    rcases List.mem_append.1 ha with ha | ha
    · rw [stepOf_recordsOn.1 (List.mem_of_mem_filter (List.mem_reverse.1 ha))]
      decide
    · rw [stepOf_recordsOn.2.1 (List.mem_reverse.1 ha)]
      decide

section Orders

variable {s : State} {p : PortId} (h : RecordsInv s.streams.records) {base : Epoch}
  (compare : ∀ r ∈ recordsOn s p [.active, .retuning], (r.activation.getD 0 - base).toNat < 2 ^ 47)

include compare

theorem takeSorted : (∀ r, r ∈ sortBy newerRecord (recordsOn s p [.active, .retuning]) ↔
      r ∈ recordsOn s p [.active, .retuning]) ∧
    (sortBy newerRecord (recordsOn s p [.active, .retuning])).Pairwise fun a b => orderFrom base b ≤ orderFrom base a := by
  obtain ⟨mem, order⟩ := sortBy_spec (before := newerRecord) (key := fun r => -orderFrom base r)
    fun a ha b hb => (newerRecord_iff (compare a ha) (compare b hb)).trans neg_lt_neg_iff.symm
  exact ⟨mem, order.imp neg_le_neg_iff.1⟩

theorem moveSorted : (∀ r, r ∈ sortBy (fun a b => newerRecord b a) (recordsOn s p [.active, .retuning]) ↔
      r ∈ recordsOn s p [.active, .retuning]) ∧
    (sortBy (fun a b => newerRecord b a) (recordsOn s p [.active, .retuning])).Pairwise
      fun a b => orderFrom base a ≤ orderFrom base b :=
  sortBy_spec fun a ha b hb => newerRecord_iff (compare b hb) (compare a ha)

theorem mem_takeList {r : StreamRecord} : r ∈ takeList s p ↔ r ∈ s.streams.records ∧ repackStep s p r ≠ none := by
  rw [repackStep_ne_none]
  simp only [takeList, List.mem_append, List.mem_reverse, List.mem_filter, (takeSorted compare).1, mem_recordsOn,
    List.mem_cons, List.not_mem_nil, or_false, decide_eq_true_eq]
  tauto

theorem mem_moveList {r : StreamRecord} :
    r ∈ moveList s p ↔ r ∈ s.streams.records ∧ r.egress = some p ∧ r.state ≠ .closed := by
  simp only [moveList, List.mem_append, (moveSorted compare).1, mem_recordsOn, List.mem_cons, List.not_mem_nil, or_false]
  cases r.state <;> simp

theorem not_ahead_of_order {a b : StreamRecord} (ha : a ∈ recordsOn s p [.active, .retuning])
    (hb : b ∈ recordsOn s p [.active, .retuning]) (le : orderFrom base a ≤ orderFrom base b) :
    ahead (a.activation.getD 0) (b.activation.getD 0) = false := by
  rw [Bool.eq_false_iff]
  intro newer
  exact absurd ((newerRecord_iff (compare a ha) (compare b hb)).1 newer) (not_lt.2 le)

include h

/-- Records give their slots in R104's order. -/
theorem takeList_order (t : State) : (takeList s p).Pairwise fun a b => ¬ takenFirst t p b a := by
  obtain ⟨mem, sorted⟩ := takeSorted compare
  refine List.pairwise_append.2 ⟨List.pairwise_append.2 ⟨?_, ?_, fun a ha b hb => ?_⟩, ?_, fun a ha b hb => ?_⟩
  · rw [List.pairwise_reverse]
    refine ((recordsOn_rising h p [.suspended]).filter _).imp_of_mem fun {a b} ha hb lt => ?_
    have := stepOf_recordsOn.1 (List.mem_of_mem_filter ha)
    have := stepOf_recordsOn.1 (List.mem_of_mem_filter hb)
    exact not_takenFirst_of_index (by omega) (by omega) lt
  · rw [List.pairwise_reverse]
    refine (recordsOn_rising h p [.pending]).imp_of_mem fun {a b} ha hb lt => ?_
    have := stepOf_recordsOn.2.1 ha
    have := stepOf_recordsOn.2.1 hb
    exact not_takenFirst_of_index (by omega) (by omega) lt
  · have := stepOf_recordsOn.1 (List.mem_of_mem_filter (List.mem_reverse.1 ha))
    have := stepOf_recordsOn.2.1 (List.mem_reverse.1 hb)
    exact not_takenFirst_of_step (by omega)
  · refine sorted.imp_of_mem fun {a b} ha hb le => ?_
    have := stepOf_recordsOn.2.2 ((mem a).1 ha)
    have := stepOf_recordsOn.2.2 ((mem b).1 hb)
    exact not_takenFirst_of_order (by omega) (by omega) (not_ahead_of_order compare ((mem b).1 hb) ((mem a).1 ha) le)
  · have := stepOf_recordsOn.2.2 ((mem b).1 hb)
    rcases List.mem_append.1 ha with ha | ha
    · have := stepOf_recordsOn.1 (List.mem_of_mem_filter (List.mem_reverse.1 ha))
      exact not_takenFirst_of_step (by omega)
    · have := stepOf_recordsOn.2.1 (List.mem_reverse.1 ha)
      exact not_takenFirst_of_step (by omega)

/-- Slots move in the reverse order. -/
theorem moveList_order (t : State) : (moveList s p).Pairwise fun a b => ¬ takenFirst t p a b := by
  obtain ⟨mem, sorted⟩ := moveSorted compare
  refine List.pairwise_append.2 ⟨List.pairwise_append.2 ⟨?_, ?_, fun a ha b hb => ?_⟩, ?_, fun a ha b hb => ?_⟩
  · refine sorted.imp_of_mem fun {a b} ha hb le => ?_
    have := stepOf_recordsOn.2.2 ((mem a).1 ha)
    have := stepOf_recordsOn.2.2 ((mem b).1 hb)
    exact not_takenFirst_of_order (by omega) (by omega) (not_ahead_of_order compare ((mem a).1 ha) ((mem b).1 hb) le)
  · refine (recordsOn_rising h p [.pending]).imp_of_mem fun {a b} ha hb lt => ?_
    have := stepOf_recordsOn.2.1 ha
    have := stepOf_recordsOn.2.1 hb
    exact not_takenFirst_of_index (by omega) (by omega) lt
  · have := stepOf_recordsOn.2.2 ((mem a).1 ha)
    have := stepOf_recordsOn.2.1 hb
    exact not_takenFirst_of_step (by omega)
  · refine (recordsOn_rising h p [.suspended]).imp_of_mem fun {a b} ha hb lt => ?_
    have := stepOf_recordsOn.1 ha
    have := stepOf_recordsOn.1 hb
    exact not_takenFirst_of_index (by omega) (by omega) lt
  · have := stepOf_recordsOn.1 hb
    rcases List.mem_append.1 ha with ha | ha
    · have := stepOf_recordsOn.2.2 ((mem a).1 ha)
      exact not_takenFirst_of_step (by omega)
    · have := stepOf_recordsOn.2.1 ha
      exact not_takenFirst_of_step (by omega)

end Orders

end Sys2Proof.Machine
end

section
/-! SUPPORT. The re-pack of a port (R103 to R105): the records taken until the number fits, then the moves. -/

namespace Sys2Proof.Machine

open Sys2Proof

/-! ### One record taken (R104) -/

/-- A record taken by a re-pack. -/
def takeOff (i : Nat) (s : State) : State :=
  match recordAt s i with
  | none => s
  | some r => if r.state = .suspended then releaseSlots i 0 s else broken .capacity r s

theorem takeOff_of_none {s : State} {i : Nat} (absent : recordAt s i = none) : takeOff i s = s := by
  simp only [takeOff, absent]

theorem takeOff_of_found {s : State} {i : Nat} {r : StreamRecord} (found : recordAt s i = some r) :
    takeOff i s = if r.state = .suspended then releaseSlots i 0 s else broken .capacity r s := by
  simp only [takeOff, found]

/-- The entries of a port fit its U. -/
def fits (p : PortId) (s : State) : Prop := (s.port p).slotMap.length ≤ usableCount (s.port p).delay

theorem repackTake_of_fits {p : PortId} {s : State} (h : fits p s) (i : Nat) : repackTake p s i = s := if_pos h

theorem repackTake_of_not {p : PortId} {s : State} (h : ¬ fits p s) (i : Nat) : repackTake p s i = takeOff i s := by
  refine (if_neg h).trans ?_
  cases found : recordAt s i with
  | none => rw [takeOff_of_none found]
  | some r =>
    rw [takeOff_of_found found, broken, recordAt_index found]

theorem onRecord_takeOff (i : Nat) (s : State) : OnRecord i 2 s (takeOff i s) := by
  cases found : recordAt s i with
  | none =>
    rw [takeOff_of_none found]
    exact (OnRecord.refl i s).mono (Nat.zero_le 2)
  | some r =>
    rw [takeOff_of_found found]
    split
    · exact (onRecord_releaseSlots i 0 s).mono (Nat.zero_le 2)
    · rw [← recordAt_index found]
      exact onRecord_broken .capacity r s

theorem slots_takeOff (p : PortId) (i : Nat) (s : State) :
    ((takeOff i s).port p).slotMap =
      (s.port p).slotMap.filter fun e => !((recordAt s i).any fun r => freedBy (fun _ => true) p r e) := by
  cases found : recordAt s i with
  | none =>
    rw [takeOff_of_none found]
    simp
  | some r =>
    have index := recordAt_index found
    subst index
    have cut : ((takeOff r.index s).port p).slotMap = (slotsCut 0 r.index r.egress p (s.port p)).slotMap := by
      rw [takeOff_of_found found]
      split
      · rw [port_releaseSlots found]
      · next state => exact slotMap_broken found state .capacity p
    rw [cut, slotsCut_zero]
    simp [freedBy]

/-! ### Records taken one after another -/

/-- The state once the records of a list are taken. -/
def takenOff (l : List Nat) (s : State) : State := l.foldl (fun s i => takeOff i s) s

theorem usable_takenOff (l : List Nat) (s : State) (p : PortId) :
    usableCount ((takenOff l s).port p).delay = usableCount (s.port p).delay := by
  rw [takenOff, (links_foldl onRecord_takeOff l s p).1.delay]

/-- The records are taken from the front of the list while the entries of the port do not fit. -/
theorem takes_front (p : PortId) (l : List Nat) : ∀ s : State, ∃ l₁ l₂, l = l₁ ++ l₂ ∧
    l.foldl (repackTake p) s = takenOff l₁ s ∧ (∀ a i b, l₁ = a ++ i :: b → ¬ fits p (takenOff a s)) ∧
      (l₂ = [] ∨ fits p (takenOff l₁ s)) := by
  induction l with
  | nil => exact fun s => ⟨[], [], rfl, rfl, fun a i b split => by simp at split, .inl rfl⟩
  | cons i l ih =>
    intro s
    by_cases enough : fits p s
    · have stays (l : List Nat) : l.foldl (repackTake p) s = s := by
        induction l with
        | nil => rfl
        | cons j l ih => rw [List.foldl_cons, repackTake_of_fits enough, ih]
      exact ⟨[], i :: l, rfl, stays _, fun a i b split => by simp at split, .inr enough⟩
    · obtain ⟨l₁, l₂, whole, same, each, last⟩ := ih (takeOff i s)
      refine ⟨i :: l₁, l₂, by rw [whole]; rfl, ?_, fun a j b split => ?_, last⟩
      · rw [List.foldl_cons, repackTake_of_not enough, same]
        rfl
      · cases a with
        | nil => exact enough
        | cons k a =>
          obtain ⟨rfl, rest⟩ := List.cons.inj split
          exact each a j b rest

section Taken

variable {s : State} {p : PortId} (h : RecordsInv s.streams.records) {l : List Nat} (nodup : l.Nodup)
  (known : ∀ i ∈ l, ∃ r ∈ s.streams.records, r.index = i ∧ r.egress = some p)

include h known nodup

theorem slots_takenOff : ((takenOff l s).port p).slotMap = slotsLeft (fun r => l.contains r.index) s p := by
  rw [takenOff, slots_foldl onRecord_takeOff (slots_takeOff p) nodup, slotsLeft]
  refine List.filter_congr fun e _ => ?_
  congr 1
  rw [Bool.eq_iff_iff]
  simp only [List.any_eq_true, Option.any_eq_true]
  constructor
  · rintro ⟨i, inside, r, found, freed⟩
    refine ⟨r, recordAt_mem found, ?_⟩
    simp only [freedBy, Bool.and_true, Bool.and_eq_true] at freed
    simp [recordAt_index found, inside, ← beq_iff_eq.1 freed.1]
  · rintro ⟨r, mem, named⟩
    simp only [Bool.and_eq_true, List.contains_iff_mem, beq_iff_eq] at named
    obtain ⟨x, there, same, egress⟩ := known r.index named.1
    refine ⟨r.index, named.1, x, same ▸ recordAt_of_mem h there, ?_⟩
    simp [freedBy, same, egress, named.2]

theorem slots_takenOff_others (q : PortId) (ne : q ≠ p) : ((takenOff l s).port q).slotMap = (s.port q).slotMap := by
  rw [takenOff, slots_foldl onRecord_takeOff (slots_takeOff q) nodup, List.filter_eq_self]
  intro e _
  simp only [Bool.not_eq_true', List.any_eq_false]
  intro i inside
  obtain ⟨r, mem, same, egress⟩ := known i inside
  rw [← same, recordAt_of_mem h mem]
  simp [freedBy, egress, ne.symm]

omit known nodup in
theorem recordAt_takenOff_out {r : StreamRecord} (mem : r ∈ s.streams.records) (out : r.index ∉ l) :
    recordAt (takenOff l s) r.index = some r :=
  (beside_foldl onRecord_takeOff out s).record.trans (recordAt_of_mem h mem)

/-- A record at its turn, with what came before and after it. -/
theorem turn_takenOff {r : StreamRecord} (mem : r ∈ s.streams.records) (inside : r.index ∈ l) :
    ∃ u n m, recordAt u r.index = some r ∧ n + 2 ≤ 2 * (recordIndices s).length ∧ Beside r.index n s u ∧
      Beside r.index m (if r.state = .suspended then releaseSlots r.index 0 u else broken .capacity r u) (takenOff l s) := by
  have few : l.length ≤ (recordIndices s).length := by
    refine (List.Nodup.subperm nodup fun i hi => ?_).length_le
    obtain ⟨x, there, same, -⟩ := known i hi
    exact same ▸ List.mem_map_of_mem there
  obtain ⟨u, n, m, count, before, after⟩ := turn onRecord_takeOff nodup inside s
  have found : recordAt u r.index = some r := before.record.trans (recordAt_of_mem h mem)
  rw [takeOff_of_found found] at after
  exact ⟨u, n, m, found, by omega, before, after⟩

theorem recordAt_takenOff_suspended {r : StreamRecord} (mem : r ∈ s.streams.records) (inside : r.index ∈ l)
    (state : r.state = .suspended) (held : 0 < slotsHeld s r) :
    recordAt (takenOff l s) r.index = some { r with changed := true } := by
  obtain ⟨u, n, m, found, -, before, after⟩ := turn_takenOff h nodup known mem inside
  rw [if_pos state] at after
  rw [after.record, recordAt_releaseSlots found, before.slotsHeld]
  simp [held]

theorem takenOff_serving {r : StreamRecord} (mem : r ∈ s.streams.records) (inside : r.index ∈ l) (serves : inService r = true) :
    standsSuspended .capacity r (takenOff l s) ∧
      toldOn (upstream r) (breakOf r .capacity .towardOrigin) s (takenOff l s) ∧
        toldOn (downstream r) (breakOf r .capacity .towardTerminus) s (takenOff l s) := by
  obtain ⟨u, n, m, found, few, before, after⟩ := turn_takenOff h nodup known mem inside
  have state := (state_of_inService serves).1
  rw [if_neg state] at after
  refine ⟨after.record.trans (recordAt_broken found state .capacity), fun q up room => ?_, fun q down room => ?_⟩
  · exact after.mem ((told_broken .capacity (takesTwo_of_roomFor before few room)).1 up)
  · exact after.mem ((told_broken .capacity (takesTwo_of_roomFor before few room)).2 down)

end Taken

/-! ### The order of the turns -/

section Order

variable {s : State} {p : PortId} (h : RecordsInv s.streams.records) {base : Epoch}
  (compare : ∀ r ∈ recordsOn s p [.active, .retuning], (r.activation.getD 0 - base).toNat < 2 ^ 47)

include h

theorem index_inj {a b : StreamRecord} (ha : a ∈ s.streams.records) (hb : b ∈ s.streams.records) (same : a.index = b.index) :
    a = b := recordAt_unique h (recordAt_of_mem h hb) ha same

include compare

theorem repackOrder_nodup : (repackOrder s p).Nodup :=
  (takeList_nodup h p).map_on fun _ ha _ hb => index_inj h ((mem_takeList compare).1 ha).1 ((mem_takeList compare).1 hb).1

theorem mem_repackOrder {r : StreamRecord} (mem : r ∈ s.streams.records) :
    r.index ∈ repackOrder s p ↔ repackStep s p r ≠ none := by
  rw [repackOrder_eq, List.mem_map]
  constructor
  · rintro ⟨x, inside, same⟩
    obtain ⟨there, step⟩ := (mem_takeList compare).1 inside
    exact index_inj h there mem same ▸ step
  · exact fun step => ⟨r, (mem_takeList compare).2 ⟨mem, step⟩, rfl⟩

omit h in
theorem known_repackOrder {i : Nat} (inside : i ∈ repackOrder s p) :
    ∃ r ∈ s.streams.records, r.index = i ∧ r.egress = some p := by
  obtain ⟨r, here, same⟩ := List.mem_map.1 (repackOrder_eq s p ▸ inside)
  obtain ⟨mem, step⟩ := (mem_takeList compare).1 here
  exact ⟨r, mem, same, (repackStep_ne_none.1 step).1⟩

/-- A record that comes first has its turn first. -/
theorem takenFirst_earlier {a b : StreamRecord} (ha : a ∈ s.streams.records) (hb : b ∈ s.streams.records)
    (first : takenFirst s p a b) {x y : List Nat} (split : repackOrder s p = x ++ b.index :: y) : a.index ∈ x := by
  have step : repackStep s p a ≠ none := by
    obtain ⟨m, n, ma, -⟩ := first
    simp [ma]
  have inside := (mem_takeList compare).2 ⟨ha, step⟩
  have order := takeList_order h compare s
  rw [repackOrder_eq] at split
  obtain ⟨X, Y, whole, front, back⟩ := List.map_eq_append_iff.1 split
  obtain ⟨c, Z, rfl, same, -⟩ := List.map_eq_cons_iff.1 back
  have here : c ∈ takeList s p := by simp [whole]
  have own : c = b := index_inj h ((mem_takeList compare).1 here).1 hb same
  subst own
  rw [whole] at inside order
  rcases List.mem_append.1 inside with early | late
  · exact front ▸ List.mem_map_of_mem early
  · rcases List.mem_cons.1 late with rfl | late
    · exact absurd first takenFirst_irrefl
    · exact absurd first (List.rel_of_pairwise_cons (List.pairwise_append.1 order).2.1 late)

end Order

/-- Fewer records taken leave more slots. -/
theorem slotsLeft_length_le {s : State} {p : PortId} {few many : StreamRecord → Bool}
    (le : ∀ r ∈ s.streams.records, few r = true → many r = true) :
    (slotsLeft many s p).length ≤ (slotsLeft few s p).length := by
  refine (List.monotone_filter_right _ fun e left => ?_).length_le
  simp only [Bool.not_eq_true', List.any_eq_false, Bool.and_eq_true, not_and] at left ⊢
  exact fun r mem taken => left r mem (le r mem taken)

/-! ### The slots that move (R105) -/

/-- The slots of one record must lie below those of another: it comes later in the order of taking. -/
def lowerFor (s v : State) (p : PortId) (i j : Nat) : Prop :=
  ∃ a b, recordAt v i = some a ∧ recordAt v j = some b ∧ takenFirst s p b a

theorem moveOrder_pairwise {v : State} {p : PortId} (h : RecordsInv v.streams.records) {base : Epoch}
    (compare : ∀ r ∈ recordsOn v p [.active, .retuning], (r.activation.getD 0 - base).toNat < 2 ^ 47) (s : State) :
    (moveOrder v p).Pairwise fun i j => ¬ lowerFor s v p j i := by
  rw [moveOrder_eq, List.pairwise_map]
  refine (moveList_order h compare s).imp_of_mem fun {a b} ha hb apart => ?_
  rintro ⟨x, y, hx, hy, first⟩
  rw [recordAt_of_mem h ((mem_moveList compare).1 hb).1] at hx
  rw [recordAt_of_mem h ((mem_moveList compare).1 ha).1] at hy
  cases hx
  cases hy
  exact apart first

theorem lowerFor_irrefl (s v : State) (p : PortId) (i : Nat) : ¬ lowerFor s v p i i := by
  rintro ⟨a, b, ha, hb, first⟩
  rw [ha] at hb
  cases hb
  exact takenFirst_irrefl first

/-- The map of a port once its slots have moved. -/
def movedMap (v : State) (p : PortId) : List SlotEntry :=
  (moveOrder v p).foldl (moveRecord (usableCount (v.port p).delay)) (v.port p).slotMap

theorem repack_admitted {p : PortId} {s : State} (state : (s.port p).state = .admitted) :
    repack p s = ((repackOrder s p).foldl (repackTake p) s).setSlotMap p
      (movedMap ((repackOrder s p).foldl (repackTake p) s) p) := if_pos state

theorem port_setSlotMap (s : State) (p q : PortId) (m : List SlotEntry) :
    (s.setSlotMap p m).port q = if q = p then { s.port q with slotMap := m } else s.port q := by
  rw [State.setSlotMap, port_setPort]
  split
  · next own => rw [own]
  · rfl

/-- A map holds an entry of each record that it held one of before its slots moved. -/
theorem SlotsMoved.named {u : Nat} {before : Nat → Nat → Prop} {taken : List Nat} {m₀ m : List SlotEntry}
    (h : SlotsMoved u before taken m₀ m) {e : SlotEntry} (mem : e ∈ m) : ∃ x ∈ m₀, x.record = e.record := by
  have some_now : 0 < (slotsNaming e.record m).length := by
    rw [slotsNaming, List.length_map, List.length_pos_iff_exists_mem]
    exact ⟨e, by simp [mem]⟩
  rw [h.count, slotsNaming, List.length_map, List.length_pos_iff_exists_mem] at some_now
  obtain ⟨x, hx⟩ := some_now
  obtain ⟨inside, same⟩ := List.mem_filter.1 hx
  exact ⟨x, inside, by simpa using same⟩

end Sys2Proof.Machine
end

section
/-! SUPPORT. What a re-pack leaves (R103 to R105). -/

namespace Sys2Proof.Machine

open Sys2Proof

/-- The activation orders of the records of a port in service compare as numbers counted from a base. -/
def comparedFrom (base : Epoch) (s : State) (p : PortId) : Prop :=
  ∀ r ∈ recordsOn s p [.active, .retuning], (r.activation.getD 0 - base).toNat < 2 ^ 47

section Repack

variable {s : State} {p : PortId} (h : RecordsInv s.streams.records) {base : Epoch} (compare : comparedFrom base s p)
  {l₁ l₂ : List Nat} (split : repackOrder s p = l₁ ++ l₂)

include h compare split

theorem nodup_taken : l₁.Nodup := ((split ▸ repackOrder_nodup h compare :).sublist (List.sublist_append_left l₁ l₂))

omit h in
theorem known_taken : ∀ i ∈ l₁, ∃ r ∈ s.streams.records, r.index = i ∧ r.egress = some p := fun _ inside =>
  known_repackOrder compare (split ▸ List.mem_append_left l₂ inside)

theorem step_taken {r : StreamRecord} (mem : r ∈ s.streams.records) (inside : r.index ∈ l₁) : repackStep s p r ≠ none :=
  (mem_repackOrder h compare mem).1 (split ▸ List.mem_append_left l₂ inside)

theorem slots_taken : ((takenOff l₁ s).port p).slotMap = slotsLeft (fun r => l₁.contains r.index) s p :=
  slots_takenOff h (nodup_taken h compare split) (known_taken compare split)

/-- What a taken record was: one SUSPENDED that held slots, or one in service. -/
theorem taken_cases {r : StreamRecord} (mem : r ∈ s.streams.records) (inside : r.index ∈ l₁) :
    (r.state = .suspended ∧ 0 < slotsHeld s r) ∨ inService r = true := by
  obtain ⟨-, was⟩ := repackStep_ne_none.1 (step_taken h compare split mem inside)
  rcases was with rest | state | state | state
  · exact .inl rest
  all_goals exact .inr (by simp [inService, state])

theorem recordAt_taken_suspended {r : StreamRecord} (mem : r ∈ s.streams.records) (inside : r.index ∈ l₁) :
    ∃ x, recordAt (takenOff l₁ s) r.index = some x ∧ x.state = .suspended := by
  have nodup := nodup_taken h compare split
  have known := known_taken compare split
  rcases taken_cases h compare split mem inside with ⟨state, held⟩ | serves
  · exact ⟨_, recordAt_takenOff_suspended h nodup known mem inside state held, state⟩
  · exact ⟨_, (takenOff_serving h nodup known mem inside serves).1, rfl⟩

omit h compare split in
theorem sameRecords_takenOff (l : List Nat) (s : State) : sameRecords s (takenOff l s) := indices_foldl onRecord_takeOff l s

omit compare split in
theorem recordsInv_takenOff (l : List Nat) : RecordsInv (takenOff l s).streams.records := by
  have same := sameRecords_takenOff l s
  refine ⟨same ▸ h.order, fun r mem => ?_⟩
  have inside : r.index ∈ s.streams.records.map (·.index) := same ▸ List.mem_map_of_mem mem
  obtain ⟨x, there, index⟩ := List.mem_map.1 inside
  exact index ▸ h.range x there

/-- A record in service once some were taken is one that was not taken. -/
theorem untaken_of_state {r : StreamRecord} (mem : r ∈ (takenOff l₁ s).streams.records) (state : r.state ≠ .suspended) :
    r ∈ s.streams.records ∧ r.index ∉ l₁ := by
  have inside : r.index ∈ s.streams.records.map (·.index) := sameRecords_takenOff l₁ s ▸ List.mem_map_of_mem mem
  obtain ⟨x, there, index⟩ := List.mem_map.1 inside
  have found := recordAt_of_mem (recordsInv_takenOff h l₁) mem
  have out : r.index ∉ l₁ := by
    intro taken
    obtain ⟨y, rests, suspended⟩ := recordAt_taken_suspended h compare split there (index ▸ taken)
    rw [index, found] at rests
    cases rests
    exact state suspended
  have stays := recordAt_takenOff_out h there (index ▸ out)
  rw [index, found] at stays
  cases stays
  exact ⟨there, out⟩

theorem compared_takenOff : comparedFrom base (takenOff l₁ s) p := by
  intro r mem
  obtain ⟨there, egress, state⟩ := mem_recordsOn.1 mem
  have active : r.state ≠ .suspended := by
    rintro e
    simp [e] at state
  exact compare r (mem_recordsOn.2 ⟨(untaken_of_state h compare split there active).1, egress, state⟩)

/-- A record that was not taken and has a step moves its slots. -/
theorem mem_moveOrder {r : StreamRecord} (mem : r ∈ s.streams.records) (out : r.index ∉ l₁) (step : repackStep s p r ≠ none) :
    r.index ∈ moveOrder (takenOff l₁ s) p := by
  obtain ⟨egress, was⟩ := repackStep_ne_none.1 step
  have open_ : r.state ≠ .closed := by
    rintro e
    simp [e] at was
  have there := recordAt_mem (recordAt_takenOff_out h mem out)
  exact List.mem_map_of_mem ((mem_moveList (compared_takenOff h compare split)).2 ⟨there, egress, open_⟩)

theorem movedMap_moved (bounds : MapInv (s.port p).slotMap) :
    let v := takenOff l₁ s
    let u := usableCount (s.port p).delay
    let m₀ := slotsLeft (fun r => l₁.contains r.index) s p
    SlotsMoved u (lowerFor s v p) (moveOrder v p) m₀ (movedMap v p) ∧
      (m₀.length ≤ u → ∀ e ∈ movedMap v p, e.record ∈ moveOrder v p → e.slot ≤ u + 1) := by
  intro v u m₀
  have slots : (v.port p).slotMap = m₀ := slots_taken h compare split
  have map : MapInv m₀ := bounds.sublist List.filter_sublist
  have order := moveOrder_pairwise (recordsInv_takenOff h l₁) (compared_takenOff h compare split) s
  rw [movedMap, usable_takenOff, slots]
  exact moveRecords_moved (usableCount_le _) map (lowerFor_irrefl s v p) order

omit h compare split in
/-- An entry of the map left is of no record that was taken. -/
theorem untaken_of_left {e : SlotEntry} (mem : e ∈ slotsLeft (fun r => l₁.contains r.index) s p) {r : StreamRecord}
    (there : r ∈ s.streams.records) (named : r.index = e.record) : r.index ∉ l₁ := by
  have left := (List.mem_filter.1 mem).2
  simp only [Bool.not_eq_true', List.any_eq_false, Bool.and_eq_true, not_and] at left
  intro taken
  exact left r there (List.contains_iff_mem.2 taken) (beq_iff_eq.2 named)

end Repack

/-- The new value of a port's delay record, before a change of U is reported. -/
theorem setDelay_eq (p : PortId) (x : DelayRecord) (s : State) :
    setDelay p x s =
      if usableCount x = usableCount (s.port p).delay then
        s.setPort p { s.port p with delay := x, jumpStands := jumpFound (s.port p) x }
      else repack p (s.setPort p { s.port p with delay := x, jumpStands := jumpFound (s.port p) x }) := by
  unfold setDelay
  by_cases same : usableCount x = usableCount (s.port p).delay
  · simp [same]
  · simp [same]

/-- Settles O60: the front of the order is taken, until the number fits, and then slots move in the reverse order. -/
theorem portRepacked : Obligations.PortRepacked := by
  classical
  refine ⟨fun p s inv ⟨base, orders⟩ state => ?_, fun p x s => ⟨_, ?_, setDelay_eq p x s⟩⟩
  swap
  · rw [port_setPort_self]
  intro u t
  have h := inv.records
  have compare : comparedFrom base s p := fun r mem => orders r (mem_recordsOn.1 mem).1
  obtain ⟨l₁, l₂, split, same, each, last⟩ := takes_front p (repackOrder s p) s
  have nodup := nodup_taken h compare split
  have known := known_taken compare split
  have slots := slots_taken h compare split
  have usable := usable_takenOff l₁ s p
  obtain ⟨moved, done⟩ := movedMap_moved h compare split (inv.ports p).map
  have whole : t = (takenOff l₁ s).setSlotMap p (movedMap (takenOff l₁ s) p) := by rw [← same]; exact repack_admitted state
  have records (i : Nat) : recordAt t i = recordAt (takenOff l₁ s) i := by rw [whole]; rfl
  have map : (t.port p).slotMap = movedMap (takenOff l₁ s) p := by rw [whole, port_setSlotMap, if_pos rfl]
  have queue (q : PortId) : (t.port q).protocolQueue = ((takenOff l₁ s).port q).protocolQueue := by
    rw [whole, port_setSlotMap]
    split <;> rfl
  have told {side : Option PortId} {m : Msg} (told : toldOn side m s (takenOff l₁ s)) : toldOn side m s t :=
    fun q here room => queue q ▸ told q here room
  have untaken {e : SlotEntry} (mem : e ∈ (t.port p).slotMap) {r : StreamRecord} (found : recordAt s e.record = some r) :
      r ∈ s.streams.records ∧ r.index = e.record ∧ r.index ∉ l₁ := by
    obtain ⟨x, left, named⟩ := moved.named (map ▸ mem)
    have there := recordAt_mem found
    have index := recordAt_index found
    exact ⟨there, index, untaken_of_left left there (index.trans named.symm)⟩
  refine ⟨fun r => l₁.contains r.index, fun r mem taken => ?_, fun a ha b hb taken first => ?_, fun b hb taken => ?_, ?_, ?_,
    fun r mem taken serves => ?_, fun r mem taken rests => ?_, fun r mem out => ?_, ?_, fun i => ?_, fun e mem low => ?_,
    fun e mem out => ?_, fun e he f hf eout fout a b ha hb first => ?_, fun fit e mem r found step => ?_, fun q => ?_,
    repack_effects p s⟩
  · exact step_taken h compare split mem (List.contains_iff_mem.1 taken)
  · obtain ⟨x, y, rfl⟩ := List.append_of_mem (List.contains_iff_mem.1 taken)
    have early := takenFirst_earlier h compare ha hb first (by rw [split, List.append_assoc]; rfl)
    exact List.contains_iff_mem.2 (List.mem_append_left _ early)
  · obtain ⟨x, y, rfl⟩ := List.append_of_mem (List.contains_iff_mem.1 taken)
    have front : repackOrder s p = x ++ (b.index :: y ++ l₂) := by rw [split, List.append_assoc]
    have full := each x b.index y rfl
    rw [fits, usable_takenOff, slots_taken h compare front, Nat.not_le] at full
    refine ⟨fun a => decide ((x ++ b.index :: y).contains a.index = true ∧ takenFirst s p a b), fun a _ => decide_eq_true_iff,
      full.trans_le (slotsLeft_length_le fun a ha early => List.contains_iff_mem.2 ?_)⟩
    exact takenFirst_earlier h compare ha hb (of_decide_eq_true early).2 front
  · rcases last with none_left | fit
    · refine .inr fun r mem step => List.contains_iff_mem.2 ?_
      have inside := (mem_repackOrder h compare mem).2 step
      rwa [split, none_left, List.append_nil] at inside
    · rw [fits, usable, slots] at fit
      exact .inl fit
  · rw [whole]
    exact sameRecords_takenOff l₁ s
  · obtain ⟨stands, up, down⟩ := takenOff_serving h nodup known mem (List.contains_iff_mem.1 taken) serves
    exact ⟨(records _).trans stands, told up, told down⟩
  · rcases taken_cases h compare split mem (List.contains_iff_mem.1 taken) with ⟨-, held⟩ | serves
    · exact (records _).trans (recordAt_takenOff_suspended h nodup known mem (List.contains_iff_mem.1 taken) rests held)
    · exact absurd rests (state_of_inService serves).1
  · exact (records _).trans (recordAt_takenOff_out h mem fun taken => by simp [taken] at out)
  · rw [map]
    exact moved.map.order
  · rw [map]
    exact moved.count i
  · rw [map]
    exact moved.low e mem low
  · rw [map] at mem ⊢
    obtain ⟨most, -, below⟩ := moved.fresh e mem out
    exact ⟨most, below⟩
  · obtain ⟨amem, aindex, aout⟩ := untaken he ha
    obtain ⟨bmem, bindex, bout⟩ := untaken hf hb
    rw [map] at he hf
    exact moved.order e he f hf eout fout
      ⟨a, b, aindex ▸ recordAt_takenOff_out h amem aout, bindex ▸ recordAt_takenOff_out h bmem bout, first⟩
  · obtain ⟨there, index, out⟩ := untaken mem found
    rw [map] at mem
    exact done fit e mem (index ▸ mem_moveOrder h compare split there out step)
  · have flood := (links_foldl onRecord_takeOff l₁ s q).2
    rw [whole, port_setSlotMap]
    refine ⟨?_, fun ne => ?_⟩
    · split <;> exact flood
    · rw [if_neg ne]
      exact slots_takenOff_others h nodup known q ne

end Sys2Proof.Machine
end
